-- ==== Sys2Proof/Word.lean ====
section
/-! DEFINITION. The word types of the Soling architecture (00 R9) and their plainest arithmetic. -/
namespace Sys2Proof

/-- A byte is 8 bits (R9). -/
abbrev Byte := BitVec 8
/-- A word is 32 bits (R9). -/
abbrev Word := BitVec 32
/-- A dword is 64 bits (R9). -/
abbrev DWord := BitVec 64
/-- A lane mask: bit l belongs to lane l (R46). -/
abbrev Mask := BitVec 128
/-- A scalar register field (R121). -/
abbrev Reg := BitVec 5

/-- The all-ones mask of EM at admission (R63). -/
abbrev Mask.all : Mask := BitVec.allOnes 128

/-- A set of lanes given by a test of the lane number, as a mask. -/
def Mask.ofFn (p : Nat → Bool) : Mask :=
  (List.range 128).foldr (fun l m => if p l then m ||| (1#128 <<< l) else m) 0#128

end Sys2Proof
end

