-- ==== Sys2Proof/Config.lean ====
section
/-! DEFINITION. Values the spec leaves open, and functions it names and leaves to a standard. The opaque constants have no
body: nothing can be proved of their values, and a statement that meets one holds whatever it is. -/
namespace Sys2Proof.Config

/-- Which lanes below the lowest faulting lane a faulting unbound store had performed (09 R220); the argument is the counter
`State.free`. FREE VALUE, notes/assumptions/10. -/
opaque freeMask : Nat → Mask

/-- Whether EBREAK writes its own address to the trap value register, and not 0: the privileged architecture allows both. FREE VALUE,
notes/assumptions/18. -/
opaque ebreakTval : Bool

/-- A byte of another package's memory that a streamer copy reads (18 R396), at a place in that package, by the counter `State.free`.
FREE VALUE, notes/assumptions/19. -/
opaque farByte : Nat → Nat → Nat → Byte

/-- A count that the spec leaves to the hardware's schedule (03 R85), by the counter `State.free`. FREE VALUE, notes/assumptions/21. -/
opaque freeCount : Nat → Nat

/-- A key from Iawick's random bit generator (15 R343), by the counter `State.free`. FREE VALUE, notes/assumptions/9. -/
opaque freeKey : Nat → BitVec 256

/-- The energy in µJ that a tile's meters measure between two reports (13 R306), by report and tile. FREE VALUE, notes/assumptions/77. -/
opaque freeEnergy : Nat → Nat → Nat

/-- What a die's sensors and ageing monitors show (16 R359; 18 R399, R400), by die, sensor and the counter `State.free`. FREE VALUE,
notes/assumptions/78. -/
opaque freeSensor : Nat → Nat → Nat → DWord

/-- SHA3-256 (15 R357), whose standard the spec cites and does not restate. notes/assumptions/9. -/
opaque sha3_256 : List Byte → List Byte

/-- AES-256-XTS encryption (15 R341): a key, the tweak PA bits 38:6 and 64 bytes. notes/assumptions/9. -/
opaque aesXts : BitVec 256 → Nat → List Byte → List Byte

/-- KMAC256 (15 R341): a key and a message. notes/assumptions/9. -/
opaque kmac256 : BitVec 256 → List Byte → List Byte

/-- Whether an ML-DSA-44 signature over a message verifies under a public key (16 R363; 18 R397). notes/assumptions/9. -/
opaque mldsaVerify : List Byte → List Byte → List Byte → Bool

/-- The ML-DSA-44 signature of Iawick's device key over a transcript (15 R358). notes/assumptions/9. -/
opaque mldsaSign : List Byte → List Byte

/-- Huisil's registry identifier of ML-DSA-44 as an extended asymmetric algorithm (15 R356). notes/assumptions/9. -/
opaque mldsaId : List Byte

/-- Iawick's certificate chain in slot 0 (15 R356). notes/assumptions/9. -/
opaque certChain : List Byte

/-- The digests that measurement registers 0 to 3 are extended with at reset (15 R357). notes/assumptions/9. -/
opaque bootDigest : Nat → List Byte

/-- What Iawick reads in a firmware image, whose format the spec leaves to it (18 R397, R398): whether its signature verifies, its entry, its
version and the memory its header names. notes/assumptions/9. -/
opaque imageValid : List Byte → Bool
opaque imageEntry : List Byte → DWord
opaque imageVersion : List Byte → Word
opaque imageCells : List Byte → List (Nat × Byte)

/-- The check of a spilled easel entry (01 R29): its function is the hardware's own. notes/assumptions/9. -/
opaque easelCheck : List Byte → Word

end Sys2Proof.Config
end

