-- ==== Sys2Proof/Syntax.lean ====
section
/-! DEFINITION. Syntax: every row of the opcode table as a constructor of `Instr`. Scalar instructions carry the fields of
their encoding (05 R121–R129), lane instructions the fields of the 96-bit word (05 R131), operations of the package and of
its surroundings what the operation acts on. No meaning stands here. -/
namespace Sys2Proof

/-- Bits 63:0 of a lane instruction less its OPC (05 R131). -/
structure LaneBase where
  mod4 : BitVec 4
  yl : BitVec 1
  st : BitVec 4
  mn : BitVec 1
  ms : BitVec 4
  kb : BitVec 2
  ka : BitVec 2
  sb : BitVec 10
  sa : BitVec 10
  vd : BitVec 10
  ty : BitVec 4
  fn : BitVec 4
  deriving DecidableEq, Repr

/-- A lane instruction in L form: MOD20, KC and SC above bit 63 (05 R131). -/
structure LaneL where
  base : LaneBase
  mod20 : BitVec 20
  kc : BitVec 2
  sc : BitVec 10
  deriving DecidableEq, Repr

/-- A lane instruction in J form: IMM32 above bit 63 (05 R131). -/
structure LaneJ where
  base : LaneBase
  imm : BitVec 32
  deriving DecidableEq, Repr

/-- A register that a REGISTER_WRITE names: a CSR of the current group, a register of a function's 256 KiB space
(18 R392), an offset of a partition's control page (14 R308, R310), or a register of one of the physical function's Kiwiow blocks as the
maker port reaches it (16 R359). -/
inductive RegRef where
  | csr (n : BitVec 12)
  | func (f : Nat) (off : Nat)
  | ctl (p : Nat) (off : Nat)
  | maker (b : Nat) (off : Nat)
  deriving DecidableEq, Repr

/-- An SPDM request as it reaches Iawick: its version byte, whether its fields and length are well formed, its request
code and its two parameter bytes (15 R356–R358). -/
structure SpdmMsg where
  version : BitVec 8
  wellFormed : Bool
  code : BitVec 8
  param1 : BitVec 8
  param2 : BitVec 8
  /-- the bytes behind the header -/
  body : List Byte := []
  deriving DecidableEq, Repr

/-- The opcode table, one constructor per row, operations first. -/
inductive Instr where
  /-- Power-on trains the CXL link, clears every mailbox slot and starts bring-up at stage 1 (R397). -/
  | powerOn
  /-- A bring-up stage completes its work and either advances to the next stage or stops bring-up with STAGE and FWERR set; stage 4 sets READY and admits the first boot group (R397). -/
  | bringupStage (err : BitVec 8)
  /-- A write of PFCTL.RECOVER = 1 resets every partition and restarts bring-up from a host-memory image (R398). -/
  | recover
  /-- A write of MBOOT.GO = 1 admits one boot group in M mode at the given tile and slot, or reports a failing RESULT (R269). -/
  | bootGroupAdmit (v : DWord)
  /-- A write to a register or CSR that has no row of its own updates its RW fields under the access codes and any clamping or ignore rules that the register states (R10). -/
  | registerWrite (r : RegRef) (v : DWord)
  /-- A CSR write of MSP sets the depth, clears the entries from the new MSP upward, and raises illegal-instruction for a value above 16 (R47). -/
  | mspWrite (v : DWord)
  /-- time reaches stimecmp or vstimecmp, which makes a timer interrupt pending (R277). -/
  | timerExpire (h : Nat)
  /-- A 32-bit store to a slot's seteipnum_le page sets an identity pending in that interrupt file, and is discarded for an EMPTY or EXITED slot (R278). -/
  | imsicMessage (tile : Nat) (slot : Nat) (file : Nat) (ident : Word)
  /-- A group takes an exception or interrupt: it withdraws parked accesses, drains lane instructions and loads, sets sepc and the LRUN resume state, and jumps to the vector (R274). -/
  | trapEntry (h : Nat)
  /-- In each clk a sub-core ranks the groups' scalar and lane offers and makes up to two picks on different pipes (R299). -/
  | issuePick (tile : Nat) (sc : Nat)
  /-- A group's starvation counter reaches 240 READY clk without a pick, and the group becomes boosted (R301). -/
  | starvationBoost (h : Nat)
  /-- A YIELD ends when every group that was READY at its retirement has been picked, or when 16 clk have passed (R161). -/
  | yieldExpire (h : Nat)
  /-- A lane instruction's fixed-latency or scoreboarded result is written to its register, mask, tile or slot and releases dependent instructions (R137). -/
  | laneResultWrite (h : Nat)
  /-- A core admits its own bottom easel entry or a parked workgroup if it fits, or makes one steal probe, and places the admitted groups in slots (R297). -/
  | admissionDecision (tile : Nat)
  /-- The easel refills a resident entry from the spill region as space frees, and loses an entry whose read faults or whose check fails (R29). -/
  | easelRefill (tile : Nat)
  /-- Once an EXIT's lane instructions, loads and acknowledgements have finished, the group releases its resources and its slot becomes EXITED, or it parks (R159). -/
  | exitDrainDone (h : Nat)
  /-- After the last member ends, or at termination, and once its copies have completed, a workgroup's shared resources are released and its join decrement is issued (R22). -/
  | workgroupRelease (w : Nat)
  /-- A waiting JOIN's acquire read returns 0, and the JOIN retires (R158). -/
  | joinSatisfied (h : Nat)
  /-- The launch sequencer begins a queued LAUNCH, applies checks 1 to 9 in order, loads the routing tables and either assigns a LAUNCHID or returns a status (R154). -/
  | launchCheck (p : Nat)
  /-- Once every router has acknowledged, the initial workgroups are placed at the bottom of each tile's easel in the same clk (R295). -/
  | launchInitialPlacement (l : Nat)
  /-- When every workgroup, tasklet, RED and copy of a launch has finished, hardware releases at partition scope and writes the completion status with set-full semantics (R26). -/
  | launchComplete (l : Nat)
  /-- A tasklet packet, new or migrating, arrives at a home core and joins the hardware run queue, or the memory-resident queue when that is full (R34). -/
  | taskletArrive (t : Nat)
  /-- An empty rotation slot takes the head of the hardware run queue at its turn, and the tasklet may issue in that turn (R302). -/
  | rotationSlotRefill (tile : Nat) (slot : Nat)
  /-- The hardware run queue takes one entry from the memory-resident ring in a clk in which it has space (R302). -/
  | runQueueRefill (tile : Nat)
  /-- Once its unacknowledged stores reach zero, a tasklet installs a forwarding entry, leaves its slot and travels to the new home (R35). -/
  | taskletMigrate (t : Nat)
  /-- A late load reply that reaches an old home is redirected by its forwarding entry to the tile the tasklet moved to (R36). -/
  | lateReplyForward (tile : Nat) (n : Nat)
  /-- A trap in a tasklet ends it at once, lets its issued stores complete and posts a trap record (R38). -/
  | taskletTrap (t : Nat) (cause : Nat) (tval : DWord)
  /-- Once the MBOX word is empty, the tasklet trap header is written to it with STEF semantics (R288). -/
  | mboxHeaderWrite (l : Nat)
  /-- A home core's update unit executes one remote-update tasklet per clk in arrival order (R303). -/
  | redUpdateExecute (tile : Nat)
  /-- An access request arriving at its home or owning core, whether a write, RMW, full-empty operation or remote store, is performed at one place in home order (R103). -/
  | homeAccess (i : Nat)
  /-- A parked entry held for 4,096 clk is returned to its issuer as a bounce, and the access traps FE_TIMEOUT at its retry limit (R91). -/
  | feBounce (i : Nat)
  /-- A bounced full-empty access is re-sent to its owner no sooner than 256 clk after the bounce (R167). -/
  | feResend (i : Nat)
  /-- The owner settles a withdrawal against its served accesses in home order, and either removes the park entry or reports completion (R168). -/
  | feWithdrawal (i : Nat)
  /-- An LRW requester heads its bank reservation queue, becomes holder and receives the value read at that point in home order (R170). -/
  | lrwGrant (q : Nat)
  /-- Each 4,096 clk in a reservation queue counts one retry, and the waiter traps FE_TIMEOUT at its limit (R172). -/
  | lrwWaitRetry (q : Nat) (k : Nat)
  /-- A holder that has not executed SCH within 65,536 clk loses its reservation, which passes on (R172). -/
  | reservationRevoke (q : Nat)
  /-- 128 clk after an LR read, a held conflicting write enters home order and kills the reservation (R321). -/
  | lrHoldExpire (i : Nat)
  /-- An eviction of a D line from the directory or L2 invalidates every word of the line in every holding hart cache (R320). -/
  | recall (line : Nat)
  /-- A renewal reply replaces an S copy, and either finalises the speculative lane instructions or replays them from the consuming load (R326). -/
  | leaseRenewalReply (h : Nat)
  /-- Every 2^15 ticks each core invalidates old S copies and clears stale acquire flags (R324). -/
  | leaseSweep (tile : Nat)
  /-- A completed page walk fills the core TLB and the lane TLBs that joined it, unless an invalidation arrived during the walk (R316). -/
  | pageWalkComplete (i : Nat)
  /-- A streamer serves a round, giving each workgroup credit equal to its weight and moving bursts of its oldest servable copy (R304). -/
  | streamerRound (c : Nat)
  /-- The streamer translates a copy's destination and takes ownership of its lines and words, after which the CPY retires (R182). -/
  | copyOwnership (k : Nat)
  /-- Once the MBOX word is empty, the fault message is written to it with STEF semantics (R184). -/
  | copyFaultMessage (k : Nat)
  /-- A copy completes, detaches from its barrier phase as a release, and frees its queue entry (R186). -/
  | copyComplete (k : Nat)
  /-- A copy command word with CMD 01 restarts a parked copy at its faulting row (R185). -/
  | copyResume (l : Nat)
  /-- A copy command word with CMD 10 ends a parked copy, releases its ownership and detaches it from its barrier with no release (R185). -/
  | copyDiscard (l : Nat)
  /-- An ACCST element store fails, so later elements are not stored, a PUT tile returns to BOUND, and ACC_FAULT is taken at the next boundary (R240). -/
  | accstStoreFault (h : Nat)
  /-- Every store of an ACCST with put is acknowledged, and the PINNED tile becomes UNBOUND (R50). -/
  | accstStoresAcked (h : Nat) (t : Nat)
  /-- HPREEMPT OP 001 marks the matching workgroups and makes PREEMPT pending in their members (R284). -/
  | park (p : Nat) (v : DWord)
  /-- HPREEMPT OP 010 parks the matching workgroups and holds them until a release (R284). -/
  | parkAndHold (p : Nat) (v : DWord)
  /-- HPREEMPT OP 011 clears the hold of the held workgroups within its scope (R284). -/
  | releaseHold (p : Nat) (v : DWord)
  /-- HPREEMPT OP 100 ends every matching workgroup under R23, whether running, parking or parked (R285). -/
  | terminate (p : Nat) (v : DWord)
  /-- GRACE expires before every marked workgroup has parked, and BUSY clears with RESULT 2 (R284). -/
  | preemptGraceExpire (p : Nat)
  /-- Every 1,024 clk each tile's meters add the energy measured since the last report to USED, which may hold back starts and MMAs (R306). -/
  | energyMeterReport (tile : Nat) (uj : Nat)
  /-- At each 1 ms window, USED is reduced by ALLOW, and held work may be admitted again (R306). -/
  | energyWindowStart
  /-- A die's junction sensor reaches 105 °C, THERM becomes 1, and every partition is held (R399). -/
  | thermalLimit (die : Nat)
  /-- Every die falls below 100 °C, and THERM clears (R399). -/
  | thermalClear
  /-- Once per powered hour, firmware updates each die's EOL register (R400). -/
  | eolUpdate (die : Nat) (predict : Word) (hours : Word)
  /-- A write to MPARTRECT that sets VALID creates the partition, installs a key and default routing and sets its measurement, or is refused (R333). -/
  | partitionCreate (v : DWord)
  /-- A write to MPARTRECT that clears VALID performs a partition reset and then frees the rectangle (R333). -/
  | partitionFree (v : DWord)
  /-- A write of MPARTRECT.RESET = 1 discards all work and packets of the partition inside its rectangle and puts its functions into ERROR (R350). -/
  | partitionReset (v : DWord)
  /-- At clk 2,400 of a reset, the partition's packets outside its rectangle are discarded and its cache and TLB entries are dropped (R350). -/
  | partitionResetFlush (p : Nat)
  /-- At clk 24,000 the keys are replaced, gesso bits are set, the measurement and routers are reset, and RESET clears (R350). -/
  | partitionResetComplete (p : Nat)
  /-- The MKEYCTL FREE command sets the gesso bit of every chunk in the range, which acts as zero writes (R346). -/
  | free (v : DWord)
  /-- The MKEYCTL FLUSHL2 command writes back and invalidates the partition's L2 lines outside its masks, or in all ways (R345). -/
  | flushl2 (v : DWord)
  /-- The MKEYCTL EXTEND command extends measurement register 4 + SEL with a digest (R345). -/
  | extend (v : DWord)
  /-- The first write to a gesso chunk finishes zero-initialising the chunk, clears its bit and is performed along with any held accesses (R344). -/
  | gessoInitComplete (chunk : Nat)
  /-- A write of MGLAZE.START = 1 starts a glaze pass in the partition that owns CHAN (R347). -/
  | glazeStart (v : DWord)
  /-- 8 hours after the previous pass started, a glaze pass starts with new keys, and KV flips (R347). -/
  | glazePassStart (p : Nat)
  /-- A channel locks a granule, checks its tag, re-encrypts it under the new version and advances the frontier (R348). -/
  | glazeVisit (chan : Nat)
  /-- The MVARNCTL load command has Iawick verify a varnish table and apply its grants and measurement (R364). -/
  | varnishLoad (v : DWord)
  /-- The MVARNCTL revoke command restores the default grants and keeps the key and SEQ (R364). -/
  | varnishRevoke (v : DWord)
  /-- A KDATA read returns the selected counter or register in the reader's filtered form and updates KSTAT (R365). -/
  | kdataRead (b : Nat)
  /-- A KDATA write sets a register of a STOPPED group or tasklet where the writer's block permits it (R369). -/
  | kdataWrite (b : Nat) (v : DWord)
  /-- A write of KTRC sets the trace ring, and resets its pointers when BASE or LEN changes (R361). -/
  | ktrcWrite (b : Nat) (v : DWord)
  /-- A write of KSKT sets the sketch ring, and resets its pointers when BASE or LEN changes (R361). -/
  | ksktWrite (b : Nat) (v : DWord)
  /-- KSTOP OP 01 requests a precise stop of a group or tasklet, subject to the varnish grant (R368). -/
  | kstopStop (b : Nat) (v : DWord)
  /-- Once its waits and drains have ended, the group or tasklet reaches a stoppable boundary and enters STOPPED (R368). -/
  | debugStopTake (h : Nat)
  /-- KSTOP OP 10 releases a stopped group or tasklet to its prior state (R368). -/
  | kstopRelease (b : Nat) (v : DWord)
  /-- When time becomes a multiple of KPULSE.PERIOD, every slot is latched and a record per tile is appended to each enabled sketch ring (R366). -/
  | sketchPulse
  /-- A host 4-byte write to a mailbox slot sets its data and marks it full as a release at system scope (R395). -/
  | mailboxHostWrite (f : Nat) (k : Nat) (v : Word)
  /-- A host 8-byte read at the take offset returns the data and empties the slot if it is full, and returns 0 otherwise (R395). -/
  | mailboxHostTake (f : Nat) (k : Nat)
  /-- A host CXL.mem access through a virtual function's decoder is performed in its region while the function is in RUN (R394): a
  write of a value, or a read. -/
  | hostMemAccess (f : Nat) (off : Nat) (size : Nat) (v : Option DWord)
  /-- A far write arriving from another package is performed if its home lies in partition PART, and is refused otherwise (R396). -/
  | farWriteReceive (part : Nat) (addr : Nat) (size : Nat) (v : DWord)
  /-- A write of a virtual function's binding register sets its partition and region unless one of the ignore conditions holds (R353). -/
  | vfBindingWrite (f : Nat) (v : DWord)
  /-- A TDISP lock request moves a function from CONFIG_UNLOCKED to CONFIG_LOCKED and freezes its binding (R354). -/
  | lockInterfaceRequest (f : Nat)
  /-- A TDISP start request moves a function from CONFIG_LOCKED to RUN (R354). -/
  | startInterfaceRequest (f : Nat)
  /-- A TDISP stop request returns a function to CONFIG_UNLOCKED, with a function reset (R354). -/
  | stopInterfaceRequest (f : Nat)
  /-- Returns a function's binding register, its partition's rectangle and its measurement register (R354). -/
  | getDeviceInterfaceReport (f : Nat)
  /-- Returns a function's TSTATE (R354). -/
  | getDeviceInterfaceState (f : Nat)
  /-- A function-level reset puts a locked or running function into ERROR, with a function reset (R354). -/
  | functionLevelReset (f : Nat)
  /-- An IDE stream failure puts a locked or running function into ERROR, with a function reset (R354). -/
  | ideStreamFailure (f : Nat)
  /-- An SPDM GET_VERSION request resets the connection state and the transcript (R358). -/
  | getVersion (r : SpdmMsg)
  /-- An SPDM GET_CAPABILITIES request reports Iawick's capabilities (R356). -/
  | getCapabilities (r : SpdmMsg)
  /-- An SPDM request that negotiates SHA3-256 and ML-DSA-44 (R356). -/
  | negotiateAlgorithms (r : SpdmMsg)
  /-- An SPDM GET_DIGESTS request returns the certificate digests (R356). -/
  | getDigests (r : SpdmMsg)
  /-- An SPDM GET_CERTIFICATE request returns the slot 0 chain (R356). -/
  | getCertificate (r : SpdmMsg)
  /-- An SPDM CHALLENGE request returns CHALLENGE_AUTH signed over the transcript (R358). -/
  | challenge (r : SpdmMsg)
  /-- An SPDM GET_MEASUREMENTS request reports the measurement registers, signed when requested (R357). -/
  | getMeasurements (r : SpdmMsg)
  /-- An SPDM KEY_EXCHANGE request begins a secured session with secp384r1 (R356). -/
  | keyExchange (r : SpdmMsg)
  /-- An SPDM FINISH request completes session establishment (R356). -/
  | finish (r : SpdmMsg)
  /-- An SPDM END_SESSION request ends a secured session (R356). -/
  | endSession (r : SpdmMsg)
  /-- An SPDM VENDOR_DEFINED_REQUEST carries a TDISP message (R356). -/
  | vendorDefinedRequest (r : SpdmMsg)
  /-- An SPDM request whose code lies outside the set of R356 arrives on the DOE mailbox and receives ERROR 0x07 (UnsupportedRequest) (R358). -/
  | unsupportedRequest (r : SpdmMsg)
  /-- The reply to a far write arrives back over a scale-out port: an acknowledgement ends the far ST's count as an unacknowledged write, and a refusal parks the sending copy with CAUSE 2 (R396). -/
  | farWriteAcknowledgement (i : Nat) (ok : Bool)
  /-- Appends n lane instructions from LPC to the lane queue, capturing their x operands, and advances LPC (R144). -/
  | lrun (n : BitVec 12)
  /-- As LRUN, with the count taken from a register (R144). -/
  | lrunr (rs1 : Reg)
  /-- Sets LPC to a register plus an offset, with bits 1:0 cleared (R148). -/
  | lpc (imm : BitVec 12) (rs1 : Reg)
  /-- md := ma and mb (R149). -/
  | mand (rd : Reg) (ma : Reg) (mb : Reg)
  /-- md := ma or mb (R149). -/
  | mor (rd : Reg) (ma : Reg) (mb : Reg)
  /-- md := ma xor mb (R149). -/
  | mxor (rd : Reg) (ma : Reg) (mb : Reg)
  /-- md := ma and not mb (R149). -/
  | mandn (rd : Reg) (ma : Reg) (mb : Reg)
  /-- md := not ma (R149). -/
  | mnot (rd : Reg) (ma : Reg)
  /-- md := ma (R149). -/
  | mmov (rd : Reg) (ma : Reg)
  /-- Pushes a mask onto the mask stack (R149). -/
  | mpush (ma : Reg)
  /-- Pops the mask stack into a mask and clears the popped entry (R149). -/
  | mpop (rd : Reg)
  /-- Copies a mask stack entry into a mask (R149). -/
  | mpeek (rd : Reg) (e : Reg)
  /-- Writes a mask into a valid mask stack entry (R149). -/
  | mpoke (e : Reg) (ma : Reg)
  /-- Counts the 1 bits of a mask into x[rd] (R149). -/
  | mcnt (rd : Reg) (ma : Reg)
  /-- Writes the index of the lowest 1 bit of a mask, or 128, to x[rd] (R149). -/
  | mfirst (rd : Reg) (ma : Reg)
  /-- Reads one 64-bit half of a mask into x[rd] (R149). -/
  | mgetx (rd : Reg) (ma : Reg) (half : Reg)
  /-- Writes one 64-bit half of a mask from x[rs1] (R149). -/
  | msetx (rd : Reg) (rs1 : Reg) (half : Reg)
  /-- Branches when any bit of the mask is 1 (R151). -/
  | bmany (ma : Reg) (off : BitVec 12)
  /-- Branches when every bit of the mask is 0 (R151). -/
  | bmnone (ma : Reg) (off : BitVec 12)
  /-- Branches when every bit of the mask is 1 (R151). -/
  | bmall (ma : Reg) (off : BitVec 12)
  /-- Waits until a word is full, reads it and sets it empty (R166). -/
  | ldfe (rd : Reg) (rs1 : Reg) (imm : BitVec 12)
  /-- Waits until a word is full, reads it and leaves it full (R166). -/
  | ldff (rd : Reg) (rs1 : Reg) (imm : BitVec 12)
  /-- Waits until a word is empty, writes it and sets it full (R166). -/
  | stef (rs1 : Reg) (rs2 : Reg) (imm : BitVec 12)
  /-- Writes a word and sets it full without waiting (R166). -/
  | stff (rs1 : Reg) (rs2 : Reg) (imm : BitVec 12)
  /-- Sets every word of a range empty, in ascending order (R169). -/
  | feclr (rs1 : Reg) (rs2 : Reg)
  /-- Queues for the reservation of a word and reads it on becoming holder (R170). -/
  | lrwW (rd : Reg) (rs1 : Reg)
  /-- Queues for the reservation of a dword and reads it on becoming holder (R170). -/
  | lrwD (rd : Reg) (rs1 : Reg)
  /-- Conditionally writes a word and passes the reservation on (R171). -/
  | schW (rd : Reg) (rs1 : Reg) (rs2 : Reg)
  /-- Conditionally writes a dword and passes the reservation on (R171). -/
  | schD (rd : Reg) (rs1 : Reg) (rs2 : Reg)
  /-- A scoped acquire and/or release fence (R173). -/
  | fenceS (kind : BitVec 2) (scope : BitVec 3)
  /-- Sets a barrier's expected count (R175). -/
  | barInit (n : Reg) (rs1 : Reg)
  /-- Arrives at a workgroup barrier and returns the phase token (R176). -/
  | barArrive (rd : Reg) (n : Reg)
  /-- Waits until the barrier's phase differs from the token (R176). -/
  | barWait (n : Reg) (rs1 : Reg)
  /-- Returns a barrier's state (R177). -/
  | barQuery (rd : Reg) (n : Reg)
  /-- Records the group's arrival at a wire barrier (R176). -/
  | gbarArrive (rd : Reg) (n : Reg)
  /-- Waits for a wire barrier phase to complete (R176). -/
  | gbarWait (n : Reg) (rs1 : Reg)
  /-- Reads a launch descriptor and enqueues a launch request at the partition's sequencer (R152). -/
  | launch (rd : Reg) (rs1 : Reg)
  /-- Increments the join word and pushes a new workgroup onto the bottom of the core's easel (R157). -/
  | fork (rd : Reg) (rs1 : Reg) (rs2 : Reg) (k : BitVec 7)
  /-- Waits until a join word reads 0 (R158). -/
  | join (imm : BitVec 12) (rs1 : Reg)
  /-- Creates a tasklet with a reply word at the home of an address (R162). -/
  | callat (rs1 : Reg) (rs2 : Reg) (rs3 : Reg)
  /-- Creates a tasklet without a reply word at the home of an address (R162). -/
  | spawnat (rs1 : Reg) (rs2 : Reg)
  /-- Writes the tasklet's result to its reply word, sets the word full and ends the tasklet (R163). -/
  | reply (rs1 : Reg)
  /-- Checks a copy and queues it at the cluster streamer, attached to a barrier (R182). -/
  | cpy (bar : Reg) (rs1 : Reg) (rs2 : Reg) (rs3 : Reg)
  /-- Queues a copy to a window destination on any tile of the rectangle (R182). -/
  | cpyRs (bar : Reg) (rs1 : Reg) (rs2 : Reg) (rs3 : Reg)
  /-- Queues a copy that brings lines into their home L2 slices (R186). -/
  | cpyPf (bar : Reg) (rs1 : Reg) (rs3 : Reg)
  /-- Loads a weight slot from scratchpad through its palette format (R187). -/
  | mld (slot : Reg) (imm : BitVec 12) (rs1 : Reg)
  /-- Binds a zeroed accumulator tile to a name (R188). -/
  | accGet (t : Reg)
  /-- Returns a bound tile to the pool (R188). -/
  | accPut (t : Reg)
  /-- Zeroes a bound tile, binding it first if needed (R188). -/
  | accZero (t : Reg)
  /-- Returns the pool, the quota and the state of the tile names (R188). -/
  | accQuery (rd : Reg)
  /-- Binds or unbinds limb segments of size s (R189). -/
  | lbind (s : BitVec 12)
  /-- Emits a marker trace packet (R190). -/
  | mark (n : BitVec 12)
  /-- Standard RV64I load upper immediate (R129). -/
  | lui (rd : Reg) (imm : BitVec 20)
  /-- Standard RV64I add upper immediate to pc (R129). -/
  | auipc (rd : Reg) (imm : BitVec 20)
  /-- Standard jump and link (R129). -/
  | jal (rd : Reg) (off : BitVec 20)
  /-- Standard indirect jump and link (R129). -/
  | jalr (rd : Reg) (rs1 : Reg) (imm : BitVec 12)
  /-- Standard branch if equal (R129). -/
  | beq (rs1 : Reg) (rs2 : Reg) (off : BitVec 12)
  /-- Standard branch if not equal (R129). -/
  | bne (rs1 : Reg) (rs2 : Reg) (off : BitVec 12)
  /-- Standard branch if less than (R129). -/
  | blt (rs1 : Reg) (rs2 : Reg) (off : BitVec 12)
  /-- Standard branch if greater or equal (R129). -/
  | bge (rs1 : Reg) (rs2 : Reg) (off : BitVec 12)
  /-- Standard unsigned branch if less than (R129). -/
  | bltu (rs1 : Reg) (rs2 : Reg) (off : BitVec 12)
  /-- Standard unsigned branch if greater or equal (R129). -/
  | bgeu (rs1 : Reg) (rs2 : Reg) (off : BitVec 12)
  /-- Standard load byte (R129). -/
  | lb (rd : Reg) (rs1 : Reg) (imm : BitVec 12)
  /-- Standard load half (R129). -/
  | lh (rd : Reg) (rs1 : Reg) (imm : BitVec 12)
  /-- Standard load word (R129). -/
  | lw (rd : Reg) (rs1 : Reg) (imm : BitVec 12)
  /-- Standard load doubleword (R129). -/
  | ld (rd : Reg) (rs1 : Reg) (imm : BitVec 12)
  /-- Standard load byte unsigned (R129). -/
  | lbu (rd : Reg) (rs1 : Reg) (imm : BitVec 12)
  /-- Standard load half unsigned (R129). -/
  | lhu (rd : Reg) (rs1 : Reg) (imm : BitVec 12)
  /-- Standard load word unsigned (R129). -/
  | lwu (rd : Reg) (rs1 : Reg) (imm : BitVec 12)
  /-- Standard store byte (R129). -/
  | sb (rs1 : Reg) (rs2 : Reg) (imm : BitVec 12)
  /-- Standard store half (R129). -/
  | sh (rs1 : Reg) (rs2 : Reg) (imm : BitVec 12)
  /-- Standard store word (R129). -/
  | sw (rs1 : Reg) (rs2 : Reg) (imm : BitVec 12)
  /-- Standard store doubleword (R129). -/
  | sd (rs1 : Reg) (rs2 : Reg) (imm : BitVec 12)
  /-- Standard add immediate (R129). -/
  | addi (rd : Reg) (rs1 : Reg) (imm : BitVec 12)
  /-- Standard set less than immediate (R129). -/
  | slti (rd : Reg) (rs1 : Reg) (imm : BitVec 12)
  /-- Standard set less than immediate unsigned (R129). -/
  | sltiu (rd : Reg) (rs1 : Reg) (imm : BitVec 12)
  /-- Standard xor immediate (R129). -/
  | xori (rd : Reg) (rs1 : Reg) (imm : BitVec 12)
  /-- Standard or immediate (R129). -/
  | ori (rd : Reg) (rs1 : Reg) (imm : BitVec 12)
  /-- Standard and immediate (R129). -/
  | andi (rd : Reg) (rs1 : Reg) (imm : BitVec 12)
  /-- Standard shift left immediate (R129). -/
  | slli (rd : Reg) (rs1 : Reg) (sh : BitVec 6)
  /-- Standard logical shift right immediate (R129). -/
  | srli (rd : Reg) (rs1 : Reg) (sh : BitVec 6)
  /-- Standard arithmetic shift right immediate (R129). -/
  | srai (rd : Reg) (rs1 : Reg) (sh : BitVec 6)
  /-- Standard add (R129). -/
  | add (rd : Reg) (rs1 : Reg) (rs2 : Reg)
  /-- Standard subtract (R129). -/
  | sub (rd : Reg) (rs1 : Reg) (rs2 : Reg)
  /-- Standard shift left (R129). -/
  | sll (rd : Reg) (rs1 : Reg) (rs2 : Reg)
  /-- Standard set less than (R129). -/
  | slt (rd : Reg) (rs1 : Reg) (rs2 : Reg)
  /-- Standard set less than unsigned (R129). -/
  | sltu (rd : Reg) (rs1 : Reg) (rs2 : Reg)
  /-- Standard xor (R129). -/
  | xor (rd : Reg) (rs1 : Reg) (rs2 : Reg)
  /-- Standard logical shift right (R129). -/
  | srl (rd : Reg) (rs1 : Reg) (rs2 : Reg)
  /-- Standard arithmetic shift right (R129). -/
  | sra (rd : Reg) (rs1 : Reg) (rs2 : Reg)
  /-- Standard or (R129). -/
  | or (rd : Reg) (rs1 : Reg) (rs2 : Reg)
  /-- Standard and (R129). -/
  | and (rd : Reg) (rs1 : Reg) (rs2 : Reg)
  /-- Standard 32-bit add immediate (R129). -/
  | addiw (rd : Reg) (rs1 : Reg) (imm : BitVec 12)
  /-- Standard 32-bit shift left immediate (R129). -/
  | slliw (rd : Reg) (rs1 : Reg) (sh : BitVec 5)
  /-- Standard 32-bit logical shift right immediate (R129). -/
  | srliw (rd : Reg) (rs1 : Reg) (sh : BitVec 5)
  /-- Standard 32-bit arithmetic shift right immediate (R129). -/
  | sraiw (rd : Reg) (rs1 : Reg) (sh : BitVec 5)
  /-- Standard 32-bit add (R129). -/
  | addw (rd : Reg) (rs1 : Reg) (rs2 : Reg)
  /-- Standard 32-bit subtract (R129). -/
  | subw (rd : Reg) (rs1 : Reg) (rs2 : Reg)
  /-- Standard 32-bit shift left (R129). -/
  | sllw (rd : Reg) (rs1 : Reg) (rs2 : Reg)
  /-- Standard 32-bit logical shift right (R129). -/
  | srlw (rd : Reg) (rs1 : Reg) (rs2 : Reg)
  /-- Standard 32-bit arithmetic shift right (R129). -/
  | sraw (rd : Reg) (rs1 : Reg) (rs2 : Reg)
  /-- Standard fence, acting at system scope when both of its sets are non-empty (R97). -/
  | fence (fm : BitVec 4) (pred : BitVec 4) (succ : BitVec 4) (rs1 : Reg) (rd : Reg)
  /-- Standard TSO fence at system scope (R97). -/
  | fenceTso (rs1 : Reg) (rd : Reg)
  /-- Standard multiply (R129). -/
  | mul (rd : Reg) (rs1 : Reg) (rs2 : Reg)
  /-- Standard signed high multiply (R129). -/
  | mulh (rd : Reg) (rs1 : Reg) (rs2 : Reg)
  /-- Standard signed-by-unsigned high multiply (R129). -/
  | mulhsu (rd : Reg) (rs1 : Reg) (rs2 : Reg)
  /-- Standard unsigned high multiply (R129). -/
  | mulhu (rd : Reg) (rs1 : Reg) (rs2 : Reg)
  /-- Standard signed divide, never trapping (R129). -/
  | div (rd : Reg) (rs1 : Reg) (rs2 : Reg)
  /-- Standard unsigned divide (R129). -/
  | divu (rd : Reg) (rs1 : Reg) (rs2 : Reg)
  /-- Standard signed remainder (R129). -/
  | rem (rd : Reg) (rs1 : Reg) (rs2 : Reg)
  /-- Standard unsigned remainder (R129). -/
  | remu (rd : Reg) (rs1 : Reg) (rs2 : Reg)
  /-- Standard 32-bit multiply (R129). -/
  | mulw (rd : Reg) (rs1 : Reg) (rs2 : Reg)
  /-- Standard 32-bit signed divide (R129). -/
  | divw (rd : Reg) (rs1 : Reg) (rs2 : Reg)
  /-- Standard 32-bit unsigned divide (R129). -/
  | divuw (rd : Reg) (rs1 : Reg) (rs2 : Reg)
  /-- Standard 32-bit signed remainder (R129). -/
  | remw (rd : Reg) (rs1 : Reg) (rs2 : Reg)
  /-- Standard 32-bit unsigned remainder (R129). -/
  | remuw (rd : Reg) (rs1 : Reg) (rs2 : Reg)
  /-- Load-reserved of a word, executed at its home (R321). -/
  | lrW (rd : Reg) (rs1 : Reg) (aq : Bool) (rl : Bool)
  /-- Load-reserved of a dword (R321). -/
  | lrD (rd : Reg) (rs1 : Reg) (aq : Bool) (rl : Bool)
  /-- Store-conditional of a word (R321). -/
  | scW (rd : Reg) (rs1 : Reg) (rs2 : Reg) (aq : Bool) (rl : Bool)
  /-- Store-conditional of a dword (R321). -/
  | scD (rd : Reg) (rs1 : Reg) (rs2 : Reg) (aq : Bool) (rl : Bool)
  /-- Atomic swap of a word at its home (R129). -/
  | amoswapW (rd : Reg) (rs1 : Reg) (rs2 : Reg) (aq : Bool) (rl : Bool)
  /-- Atomic swap of a dword (R129). -/
  | amoswapD (rd : Reg) (rs1 : Reg) (rs2 : Reg) (aq : Bool) (rl : Bool)
  /-- Atomic add of a word (R129). -/
  | amoaddW (rd : Reg) (rs1 : Reg) (rs2 : Reg) (aq : Bool) (rl : Bool)
  /-- Atomic add of a dword (R129). -/
  | amoaddD (rd : Reg) (rs1 : Reg) (rs2 : Reg) (aq : Bool) (rl : Bool)
  /-- Atomic xor of a word (R129). -/
  | amoxorW (rd : Reg) (rs1 : Reg) (rs2 : Reg) (aq : Bool) (rl : Bool)
  /-- Atomic xor of a dword (R129). -/
  | amoxorD (rd : Reg) (rs1 : Reg) (rs2 : Reg) (aq : Bool) (rl : Bool)
  /-- Atomic and of a word (R129). -/
  | amoandW (rd : Reg) (rs1 : Reg) (rs2 : Reg) (aq : Bool) (rl : Bool)
  /-- Atomic and of a dword (R129). -/
  | amoandD (rd : Reg) (rs1 : Reg) (rs2 : Reg) (aq : Bool) (rl : Bool)
  /-- Atomic or of a word (R129). -/
  | amoorW (rd : Reg) (rs1 : Reg) (rs2 : Reg) (aq : Bool) (rl : Bool)
  /-- Atomic or of a dword (R129). -/
  | amoorD (rd : Reg) (rs1 : Reg) (rs2 : Reg) (aq : Bool) (rl : Bool)
  /-- Atomic CSR read and write (R56). -/
  | csrrw (rd : Reg) (rs1 : Reg) (csr : BitVec 12)
  /-- Atomic CSR read and set bits (R56). -/
  | csrrs (rd : Reg) (rs1 : Reg) (csr : BitVec 12)
  /-- Atomic CSR read and clear bits (R56). -/
  | csrrc (rd : Reg) (rs1 : Reg) (csr : BitVec 12)
  /-- CSR read and write immediate (R56). -/
  | csrrwi (rd : Reg) (uimm : BitVec 5) (csr : BitVec 12)
  /-- CSR read and set immediate (R56). -/
  | csrrsi (rd : Reg) (uimm : BitVec 5) (csr : BitVec 12)
  /-- CSR read and clear immediate (R56). -/
  | csrrci (rd : Reg) (uimm : BitVec 5) (csr : BitVec 12)
  /-- Orders the group's instruction fetch after its earlier stores (R97). -/
  | fenceI (imm : BitVec 12) (rs1 : Reg) (rd : Reg)
  /-- Invalidates translation caches across the partition's tiles or the package and waits for completion (R317). -/
  | sfenceVma (rs1 : Reg) (rs2 : Reg)
  /-- Atomic signed min of a word (R129). -/
  | amominW (rd : Reg) (rs1 : Reg) (rs2 : Reg) (aq : Bool) (rl : Bool)
  /-- Atomic signed min of a dword (R129). -/
  | amominD (rd : Reg) (rs1 : Reg) (rs2 : Reg) (aq : Bool) (rl : Bool)
  /-- Atomic signed max of a word (R129). -/
  | amomaxW (rd : Reg) (rs1 : Reg) (rs2 : Reg) (aq : Bool) (rl : Bool)
  /-- Atomic signed max of a dword (R129). -/
  | amomaxD (rd : Reg) (rs1 : Reg) (rs2 : Reg) (aq : Bool) (rl : Bool)
  /-- Atomic unsigned min of a word (R129). -/
  | amominuW (rd : Reg) (rs1 : Reg) (rs2 : Reg) (aq : Bool) (rl : Bool)
  /-- Atomic unsigned min of a dword (R129). -/
  | amominuD (rd : Reg) (rs1 : Reg) (rs2 : Reg) (aq : Bool) (rl : Bool)
  /-- Atomic unsigned max of a word (R129). -/
  | amomaxuW (rd : Reg) (rs1 : Reg) (rs2 : Reg) (aq : Bool) (rl : Bool)
  /-- Atomic unsigned max of a dword (R129). -/
  | amomaxuD (rd : Reg) (rs1 : Reg) (rs2 : Reg) (aq : Bool) (rl : Bool)
  /-- Invalidates guest VS-stage translations (R317). -/
  | hfenceVvma (rs1 : Reg) (rs2 : Reg)
  /-- Invalidates G-stage translations (R317). -/
  | hfenceGvma (rs1 : Reg) (rs2 : Reg)
  /-- Hypervisor virtual-machine load of a byte (R129). -/
  | hlvB (rd : Reg) (rs1 : Reg)
  /-- Hypervisor virtual-machine load of an unsigned byte (R129). -/
  | hlvBu (rd : Reg) (rs1 : Reg)
  /-- Hypervisor virtual-machine load of a half (R129). -/
  | hlvH (rd : Reg) (rs1 : Reg)
  /-- Hypervisor virtual-machine load of an unsigned half (R129). -/
  | hlvHu (rd : Reg) (rs1 : Reg)
  /-- Hypervisor virtual-machine load of a word (R129). -/
  | hlvW (rd : Reg) (rs1 : Reg)
  /-- Hypervisor virtual-machine load of an unsigned word (R129). -/
  | hlvWu (rd : Reg) (rs1 : Reg)
  /-- Hypervisor virtual-machine load of a doubleword (R129). -/
  | hlvD (rd : Reg) (rs1 : Reg)
  /-- Hypervisor execute-permission load of an unsigned half (R129). -/
  | hlvxHu (rd : Reg) (rs1 : Reg)
  /-- Hypervisor execute-permission load of an unsigned word (R129). -/
  | hlvxWu (rd : Reg) (rs1 : Reg)
  /-- Hypervisor virtual-machine store of a byte (R129). -/
  | hsvB (rs1 : Reg) (rs2 : Reg)
  /-- Hypervisor virtual-machine store of a half (R129). -/
  | hsvH (rs1 : Reg) (rs2 : Reg)
  /-- Hypervisor virtual-machine store of a word (R129). -/
  | hsvW (rs1 : Reg) (rs2 : Reg)
  /-- Hypervisor virtual-machine store of a doubleword (R129). -/
  | hsvD (rs1 : Reg) (rs2 : Reg)
  /-- Ends the group after draining, and releases the workgroup at its last member (R159). -/
  | exit
  /-- Drains and parks the group as a release at partition scope (R160). -/
  | exitPark
  /-- Ranks the group last on its sub-core for a time (R161). -/
  | yield
  /-- Ends a tasklet without a result (R164). -/
  | texit
  /-- Environment call trap (R129). -/
  | ecall
  /-- Breakpoint trap (R129). -/
  | ebreak
  /-- Holds the group's scalar issue for 32 clk (R129). -/
  | pause
  /-- Returns from a supervisor trap, resuming an interrupted LRUN batch when LRES is 1 (R147). -/
  | sret
  /-- Returns from a machine trap (R129). -/
  | mret
  /-- Holds the group in WAIT_SYNC until an interrupt is pending (R279). -/
  | wfi
  /-- Lane integer add, element-wise or wide, in L form (R197). -/
  | iadd (f : LaneL)
  /-- Lane integer add with a 32-bit immediate, in J form (R197). -/
  | iaddJ (f : LaneJ)
  /-- Lane integer subtract, in L form (R197). -/
  | isub (f : LaneL)
  /-- Lane integer subtract, in J form (R197). -/
  | isubJ (f : LaneJ)
  /-- Lane integer multiply, low or wide product, in L form (R197). -/
  | imul (f : LaneL)
  /-- Lane integer multiply, in J form (R197). -/
  | imulJ (f : LaneJ)
  /-- Lane high multiply word, in L form (R197). -/
  | imulh (f : LaneL)
  /-- Lane high multiply word, in J form (R197). -/
  | imulhJ (f : LaneJ)
  /-- Lane integer multiply-add (R197). -/
  | imad (f : LaneL)
  /-- Lane integer minimum, in L form (R197). -/
  | imin (f : LaneL)
  /-- Lane integer minimum, in J form (R197). -/
  | iminJ (f : LaneJ)
  /-- Lane integer maximum, in L form (R197). -/
  | imax (f : LaneL)
  /-- Lane integer maximum, in J form (R197). -/
  | imaxJ (f : LaneJ)
  /-- Lane integer absolute value (R197). -/
  | iabs (f : LaneL)
  /-- Lane shift left, in L form (R198). -/
  | shl (f : LaneL)
  /-- Lane shift left, in J form (R198). -/
  | shlJ (f : LaneJ)
  /-- Lane logical shift right, in L form (R198). -/
  | shr (f : LaneL)
  /-- Lane logical shift right, in J form (R198). -/
  | shrJ (f : LaneJ)
  /-- Lane arithmetic shift right, in L form (R198). -/
  | sar (f : LaneL)
  /-- Lane arithmetic shift right, in J form (R198). -/
  | sarJ (f : LaneJ)
  /-- Lane bitwise and, in L form (R198). -/
  | laneAnd (f : LaneL)
  /-- Lane bitwise and, in J form (R198). -/
  | laneAndJ (f : LaneJ)
  /-- Lane bitwise or, in L form (R198). -/
  | laneOr (f : LaneL)
  /-- Lane bitwise or, in J form (R198). -/
  | laneOrJ (f : LaneJ)
  /-- Lane bitwise xor, in L form (R198). -/
  | laneXor (f : LaneL)
  /-- Lane bitwise xor, in J form (R198). -/
  | laneXorJ (f : LaneJ)
  /-- Lane three-input logic operation by truth table (R198). -/
  | lop3 (f : LaneL)
  /-- Lane population count (R198). -/
  | popc (f : LaneL)
  /-- Lane count of leading zeros (R198). -/
  | clz (f : LaneL)
  /-- Lane bit-field extract (R198). -/
  | bfe (f : LaneL)
  /-- Lane bit-field insert (R198). -/
  | bfi (f : LaneL)
  /-- Lane floating-point add, in L form (R200). -/
  | fadd (f : LaneL)
  /-- Lane floating-point add, in J form (R200). -/
  | faddJ (f : LaneJ)
  /-- Lane floating-point subtract, in L form (R200). -/
  | fsub (f : LaneL)
  /-- Lane floating-point subtract, in J form (R200). -/
  | fsubJ (f : LaneJ)
  /-- Lane floating-point multiply, in L form (R200). -/
  | fmul (f : LaneL)
  /-- Lane floating-point multiply, in J form (R200). -/
  | fmulJ (f : LaneJ)
  /-- Lane fused multiply-add (R200). -/
  | ffma (f : LaneL)
  /-- Lane minimumNumber, in L form (R200). -/
  | fmin (f : LaneL)
  /-- Lane minimumNumber, in J form (R200). -/
  | fminJ (f : LaneJ)
  /-- Lane maximumNumber, in L form (R200). -/
  | fmax (f : LaneL)
  /-- Lane maximumNumber, in J form (R200). -/
  | fmaxJ (f : LaneJ)
  /-- Lane correctly rounded reciprocal (R201). -/
  | frcp (f : LaneL)
  /-- Lane correctly rounded reciprocal square root (R201). -/
  | frsq (f : LaneL)
  /-- Lane correctly rounded 2^a (R201). -/
  | fex2 (f : LaneL)
  /-- Lane correctly rounded log2 (R201). -/
  | flg2 (f : LaneL)
  /-- Lane conversion between element types (R202). -/
  | cvt (f : LaneL)
  /-- Lane quantisation of eight f32 values into one fp4 block and its scale (R203). -/
  | qnt (f : LaneL)
  /-- Lane expansion of an fp4 block into eight f32 values (R204). -/
  | dqt (f : LaneL)
  /-- Lane integer compare into a mask, in L form (R205). -/
  | icmp (f : LaneL)
  /-- Lane integer compare into a mask, in J form (R205). -/
  | icmpJ (f : LaneJ)
  /-- Lane f32 compare into a mask, in L form (R205). -/
  | fcmp (f : LaneL)
  /-- Lane f32 compare into a mask, in J form (R205). -/
  | fcmpJ (f : LaneJ)
  /-- Lane select between two sources by a mask (R206). -/
  | sel (f : LaneL)
  /-- Lane move of a source into each active lane (R207). -/
  | mov (f : LaneL)
  /-- Lane move of a 32-bit immediate, in J form (R207). -/
  | movi (f : LaneJ)
  /-- Lane shuffle within segments (R208). -/
  | shfl (f : LaneL)
  /-- Lane broadcast of one lane's value within its segment (R209). -/
  | bcst (f : LaneL)
  /-- Reduction of the active lanes into an x register (R210). -/
  | lred (f : LaneL)
  /-- Prefix reduction along segments (R211). -/
  | lscan (f : LaneL)
  /-- Selects a dispatch-table entry and the lanes sharing the lowest active lane's index (R212). -/
  | disp (f : LaneL)
  /-- Lane no-operation that adds to the issue distance (R213). -/
  | nop (f : LaneL)
  /-- Lane load per active lane, in L form (R224). -/
  | laneLd (f : LaneL)
  /-- Lane load with an immediate offset, in J form (R224). -/
  | laneLdJ (f : LaneJ)
  /-- Lane store per active lane, in L form (R224). -/
  | laneSt (f : LaneL)
  /-- Lane store with an immediate offset, in J form (R224). -/
  | laneStJ (f : LaneJ)
  /-- Lane scratchpad load, optionally through the palette, in L form (R225). -/
  | lds (f : LaneL)
  /-- Lane scratchpad load, in J form (R225). -/
  | ldsJ (f : LaneJ)
  /-- Lane scratchpad store, optionally through the palette, in L form (R225). -/
  | sts (f : LaneL)
  /-- Lane scratchpad store, in J form (R225). -/
  | stsJ (f : LaneJ)
  /-- Lane LDFE on each active lane's word, in L form (R226). -/
  | laneLdfe (f : LaneL)
  /-- Lane LDFE, in J form (R226). -/
  | laneLdfeJ (f : LaneJ)
  /-- Lane LDFF on each active lane's word, in L form (R226). -/
  | laneLdff (f : LaneL)
  /-- Lane LDFF, in J form (R226). -/
  | laneLdffJ (f : LaneJ)
  /-- Lane STEF on each active lane's word, in L form (R226). -/
  | laneStef (f : LaneL)
  /-- Lane STEF, in J form (R226). -/
  | laneStefJ (f : LaneJ)
  /-- Lane STFF on each active lane's word, in L form (R226). -/
  | laneStff (f : LaneL)
  /-- Lane STFF, in J form (R226). -/
  | laneStffJ (f : LaneJ)
  /-- Prefetches each active lane's line into L1 or the home L2, in L form (R227). -/
  | pfetch (f : LaneL)
  /-- Prefetch, in J form (R227). -/
  | pfetchJ (f : LaneJ)
  /-- Lane atomic read-modify-write at the home, returning the old value (R229). -/
  | amo (f : LaneL)
  /-- Lane fire-and-forget remote update, sent as a remote-update tasklet (R230). -/
  | red (f : LaneL)
  /-- Multiplies activation quarters by a weight slot and adds the products into accumulator tiles (R234). -/
  | mma (f : LaneL)
  /-- Loads an accumulator tile from vector registers (R237). -/
  | accld (f : LaneL)
  /-- Reads an accumulator tile's columns into vector registers with conversion (R238). -/
  | accrd (f : LaneL)
  /-- Stores an accumulator tile to memory as a fused epilogue, optionally releasing it (R239). -/
  | accst (f : LaneL)
  /-- Limb add over segments, with carry masks (R243). -/
  | ladd (f : LaneL)
  /-- Limb subtract over segments, with borrow masks (R243). -/
  | lsub (f : LaneL)
  /-- Limb shift left of each segment's value (R243). -/
  | lshl (f : LaneL)
  /-- Limb logical or arithmetic shift right of each segment's value (R243). -/
  | lshr (f : LaneL)
  /-- Limb multiply-accumulate by a 32-bit multiplier, writing the overflow limb (R243). -/
  | lmac (f : LaneL)
  /-- Limb comparison of segment values into a mask (R243). -/
  | lcmp (f : LaneL)
  deriving DecidableEq, Repr

end Sys2Proof
end

