-- ==== Sys2Proof/WellFormed.lean ====
section
/-! DEFINITION. Well-formedness of a scalar instruction's fields: the ranges that the maps of 05 R122–R128 and 06 R144 state.
A scalar word whose fields break one raises illegal-instruction (05 R122). The fields of a lane instruction are checked when
it issues (05 R136), so every lane instruction is well-formed as syntax. -/
namespace Sys2Proof

/-- A mask operand names m0–m14 or EM, codes 0 to 15 (05 R124). -/
def maskField (r : Reg) : Bool := r.toNat < 16

/-- Whether the fields of a scalar instruction lie in the ranges of 05 R122; true for every other instruction. FENCE stands
for the words that are neither FENCE.TSO nor PAUSE (05 R129). -/
def Instr.wellFormed : Instr → Bool
  | .lrun n => (1 ≤ n.toNat && n.toNat ≤ 64 : Bool)
  | .mand rd ma mb => maskField rd && maskField ma && maskField mb
  | .mor rd ma mb => maskField rd && maskField ma && maskField mb
  | .mxor rd ma mb => maskField rd && maskField ma && maskField mb
  | .mandn rd ma mb => maskField rd && maskField ma && maskField mb
  | .mnot rd ma => maskField rd && maskField ma
  | .mmov rd ma => maskField rd && maskField ma
  | .mpush ma => maskField ma
  | .mpop rd => maskField rd
  | .mpeek rd e => maskField rd && e.toNat < 16
  | .mpoke e ma => e.toNat < 16 && maskField ma
  | .mcnt _ ma => maskField ma
  | .mfirst _ ma => maskField ma
  | .mgetx _ ma half => maskField ma && half.toNat < 2
  | .msetx rd _ half => maskField rd && half.toNat < 2
  | .bmany ma _ => maskField ma
  | .bmnone ma _ => maskField ma
  | .bmall ma _ => maskField ma
  | .fenceS kind scope => (kind != 0#2) && (scope != 7#3)
  | .barInit n _ => n.toNat < 16
  | .barArrive _ n => n.toNat < 16
  | .barWait n _ => n.toNat < 16
  | .barQuery _ n => n.toNat < 16
  | .gbarArrive _ n => n.toNat < 8
  | .gbarWait n _ => n.toNat < 8
  | .cpy bar _ _ _ => bar.toNat < 16
  | .cpyRs bar _ _ _ => bar.toNat < 16
  | .cpyPf bar _ _ => bar.toNat < 16
  | .mld slot _ _ => slot.toNat < 4
  | .accGet t => t.toNat < 16
  | .accPut t => t.toNat < 16
  | .accZero t => t.toNat < 16
  | .lbind s => [0, 2, 4, 8, 16, 32, 64, 128].contains s.toNat
  | .fence fm pred succ rs1 rd => !(fm == 8#4 && pred == 3#4 && succ == 3#4) && !(fm == 0#4 && pred == 1#4 && succ == 0#4 && rs1 == 0#5 && rd == 0#5)
  | .powerOn | .bringupStage .. | .recover | .bootGroupAdmit .. | .registerWrite .. | .mspWrite .. => true
  | .timerExpire .. | .imsicMessage .. | .trapEntry .. | .issuePick .. | .starvationBoost .. | .yieldExpire .. => true
  | .laneResultWrite .. | .admissionDecision .. | .easelRefill .. | .exitDrainDone .. | .workgroupRelease .. | .joinSatisfied .. => true
  | .launchCheck .. | .launchInitialPlacement .. | .launchComplete .. | .taskletArrive .. | .rotationSlotRefill .. | .runQueueRefill .. => true
  | .taskletMigrate .. | .lateReplyForward .. | .taskletTrap .. | .mboxHeaderWrite .. | .redUpdateExecute .. | .homeAccess .. => true
  | .feBounce .. | .feResend .. | .feWithdrawal .. | .lrwGrant .. | .lrwWaitRetry .. | .reservationRevoke .. => true
  | .lrHoldExpire .. | .recall .. | .leaseRenewalReply .. | .leaseSweep .. | .pageWalkComplete .. | .streamerRound .. => true
  | .copyOwnership .. | .copyFaultMessage .. | .copyComplete .. | .copyResume .. | .copyDiscard .. | .accstStoreFault .. => true
  | .accstStoresAcked .. | .park .. | .parkAndHold .. | .releaseHold .. | .terminate .. | .preemptGraceExpire .. => true
  | .energyMeterReport .. | .energyWindowStart | .thermalLimit .. | .thermalClear | .eolUpdate .. | .partitionCreate .. => true
  | .partitionFree .. | .partitionReset .. | .partitionResetFlush .. | .partitionResetComplete .. | .free .. | .flushl2 .. => true
  | .extend .. | .gessoInitComplete .. | .glazeStart .. | .glazePassStart .. | .glazeVisit .. | .varnishLoad .. => true
  | .varnishRevoke .. | .kdataRead .. | .kdataWrite .. | .ktrcWrite .. | .ksktWrite .. | .kstopStop .. => true
  | .debugStopTake .. | .kstopRelease .. | .sketchPulse | .mailboxHostWrite .. | .mailboxHostTake .. | .hostMemAccess .. => true
  | .farWriteReceive .. | .vfBindingWrite .. | .lockInterfaceRequest .. | .startInterfaceRequest .. | .stopInterfaceRequest .. | .getDeviceInterfaceReport .. => true
  | .getDeviceInterfaceState .. | .functionLevelReset .. | .ideStreamFailure .. | .getVersion .. | .getCapabilities .. | .negotiateAlgorithms .. => true
  | .getDigests .. | .getCertificate .. | .challenge .. | .getMeasurements .. | .keyExchange .. | .finish .. => true
  | .endSession .. | .vendorDefinedRequest .. | .unsupportedRequest .. | .farWriteAcknowledgement .. | .lrunr .. | .lpc .. => true
  | .ldfe .. | .ldff .. | .stef .. | .stff .. | .feclr .. | .lrwW .. => true
  | .lrwD .. | .schW .. | .schD .. | .launch .. | .fork .. | .join .. => true
  | .callat .. | .spawnat .. | .reply .. | .accQuery .. | .mark .. | .lui .. => true
  | .auipc .. | .jal .. | .jalr .. | .beq .. | .bne .. | .blt .. => true
  | .bge .. | .bltu .. | .bgeu .. | .lb .. | .lh .. | .lw .. => true
  | .ld .. | .lbu .. | .lhu .. | .lwu .. | .sb .. | .sh .. => true
  | .sw .. | .sd .. | .addi .. | .slti .. | .sltiu .. | .xori .. => true
  | .ori .. | .andi .. | .slli .. | .srli .. | .srai .. | .add .. => true
  | .sub .. | .sll .. | .slt .. | .sltu .. | .xor .. | .srl .. => true
  | .sra .. | .or .. | .and .. | .addiw .. | .slliw .. | .srliw .. => true
  | .sraiw .. | .addw .. | .subw .. | .sllw .. | .srlw .. | .sraw .. => true
  | .fenceTso .. | .mul .. | .mulh .. | .mulhsu .. | .mulhu .. | .div .. => true
  | .divu .. | .rem .. | .remu .. | .mulw .. | .divw .. | .divuw .. => true
  | .remw .. | .remuw .. | .lrW .. | .lrD .. | .scW .. | .scD .. => true
  | .amoswapW .. | .amoswapD .. | .amoaddW .. | .amoaddD .. | .amoxorW .. | .amoxorD .. => true
  | .amoandW .. | .amoandD .. | .amoorW .. | .amoorD .. | .csrrw .. | .csrrs .. => true
  | .csrrc .. | .csrrwi .. | .csrrsi .. | .csrrci .. | .fenceI .. | .sfenceVma .. => true
  | .amominW .. | .amominD .. | .amomaxW .. | .amomaxD .. | .amominuW .. | .amominuD .. => true
  | .amomaxuW .. | .amomaxuD .. | .hfenceVvma .. | .hfenceGvma .. | .hlvB .. | .hlvBu .. => true
  | .hlvH .. | .hlvHu .. | .hlvW .. | .hlvWu .. | .hlvD .. | .hlvxHu .. => true
  | .hlvxWu .. | .hsvB .. | .hsvH .. | .hsvW .. | .hsvD .. | .exit => true
  | .exitPark | .yield | .texit | .ecall | .ebreak | .pause => true
  | .sret | .mret | .wfi | .iadd .. | .iaddJ .. | .isub .. => true
  | .isubJ .. | .imul .. | .imulJ .. | .imulh .. | .imulhJ .. | .imad .. => true
  | .imin .. | .iminJ .. | .imax .. | .imaxJ .. | .iabs .. | .shl .. => true
  | .shlJ .. | .shr .. | .shrJ .. | .sar .. | .sarJ .. | .laneAnd .. => true
  | .laneAndJ .. | .laneOr .. | .laneOrJ .. | .laneXor .. | .laneXorJ .. | .lop3 .. => true
  | .popc .. | .clz .. | .bfe .. | .bfi .. | .fadd .. | .faddJ .. => true
  | .fsub .. | .fsubJ .. | .fmul .. | .fmulJ .. | .ffma .. | .fmin .. => true
  | .fminJ .. | .fmax .. | .fmaxJ .. | .frcp .. | .frsq .. | .fex2 .. => true
  | .flg2 .. | .cvt .. | .qnt .. | .dqt .. | .icmp .. | .icmpJ .. => true
  | .fcmp .. | .fcmpJ .. | .sel .. | .mov .. | .movi .. | .shfl .. => true
  | .bcst .. | .lred .. | .lscan .. | .disp .. | .nop .. | .laneLd .. => true
  | .laneLdJ .. | .laneSt .. | .laneStJ .. | .lds .. | .ldsJ .. | .sts .. => true
  | .stsJ .. | .laneLdfe .. | .laneLdfeJ .. | .laneLdff .. | .laneLdffJ .. | .laneStef .. => true
  | .laneStefJ .. | .laneStff .. | .laneStffJ .. | .pfetch .. | .pfetchJ .. | .amo .. => true
  | .red .. | .mma .. | .accld .. | .accrd .. | .accst .. | .ladd .. => true
  | .lsub .. | .lshl .. | .lshr .. | .lmac .. | .lcmp .. => true

end Sys2Proof
end

