-- ==== Sys2Proof/Decode.lean ====
section
/-! DEFINITION. Decoding of both instruction streams (05 R120–R135), total on every word and rejecting by name, and the encoder
written from the same maps. The standard encodings are those of RV64IMA, Zicsr, Zifencei, Zihintpause and the privileged and
hypervisor instructions that 05 R129 names. Decoders that build a constructor past the 245th are marked noncomputable, because Lean's
code generator takes no larger tag; the kernel evaluates them like any other definition. -/
namespace Sys2Proof

/-- Why a word is no instruction. -/
inductive DecodeError where
  /-- bits 1:0 are not 11: the C extension is absent (05 R120) -/
  | compressed
  /-- bits 4:2 are 111: the 48-bit and longer spaces (05 R120) -/
  | longEncoding
  /-- a major opcode of an absent extension or of none (05 R129, R130) -/
  | absentOpcode
  /-- a funct value that its major opcode does not list, or a field marked 0 that is not 0 (05 R122, R129) -/
  | reservedFields
  /-- a lane word whose OPC bits 6:0 are reserved (05 R136 check 1) -/
  | laneReserved
  /-- a lane word in J form of an operation without one (05 R136 check 2) -/
  | laneNoJForm
  deriving DecidableEq, Repr

section Fields
variable (w : BitVec 32)
def rdF : Reg := w.extractLsb' 7 5
def rs1F : Reg := w.extractLsb' 15 5
def rs2F : Reg := w.extractLsb' 20 5
def rs3F : Reg := w.extractLsb' 27 5
def opF : Nat := (w.extractLsb' 0 7).toNat
def f3 : Nat := (w.extractLsb' 12 3).toNat
def f7 : Nat := (w.extractLsb' 25 7).toNat
def f6 : Nat := (w.extractLsb' 26 6).toNat
def f5 : Nat := (w.extractLsb' 27 5).toNat
def fmF : Nat := (w.extractLsb' 28 4).toNat
def predF : Nat := (w.extractLsb' 24 4).toNat
def succF : Nat := (w.extractLsb' 20 4).toNat
def immI : BitVec 12 := w.extractLsb' 20 12
def immS : BitVec 12 := w.extractLsb' 25 7 ++ w.extractLsb' 7 5
/-- Bits 12:1 of a branch offset (05 R121, format XB and the standard B). -/
def immB : BitVec 12 := w.extractLsb' 31 1 ++ w.extractLsb' 7 1 ++ w.extractLsb' 25 6 ++ w.extractLsb' 8 4
/-- Bits 20:1 of a jump offset (the standard J format). -/
def immJ : BitVec 20 := w.extractLsb' 31 1 ++ w.extractLsb' 12 8 ++ w.extractLsb' 20 1 ++ w.extractLsb' 21 10
end Fields

section Formats
def encR (fn7 : BitVec 7) (rs2 rs1 : Reg) (fn3 : BitVec 3) (rd : Reg) (op : BitVec 7) : BitVec 32 :=
  fn7 ++ rs2 ++ rs1 ++ fn3 ++ rd ++ op
def encI (imm : BitVec 12) (rs1 : Reg) (fn3 : BitVec 3) (rd : Reg) (op : BitVec 7) : BitVec 32 :=
  imm ++ rs1 ++ fn3 ++ rd ++ op
def encS (imm : BitVec 12) (rs2 rs1 : Reg) (fn3 : BitVec 3) (op : BitVec 7) : BitVec 32 :=
  imm.extractLsb' 5 7 ++ rs2 ++ rs1 ++ fn3 ++ imm.extractLsb' 0 5 ++ op
def encB (off : BitVec 12) (rs2 rs1 : Reg) (fn3 : BitVec 3) (op : BitVec 7) : BitVec 32 :=
  off.extractLsb' 11 1 ++ off.extractLsb' 4 6 ++ rs2 ++ rs1 ++ fn3 ++ off.extractLsb' 0 4 ++ off.extractLsb' 10 1 ++ op
def encU (imm : BitVec 20) (rd : Reg) (op : BitVec 7) : BitVec 32 := imm ++ rd ++ op
def encJ (off : BitVec 20) (rd : Reg) (op : BitVec 7) : BitVec 32 :=
  off.extractLsb' 19 1 ++ off.extractLsb' 0 10 ++ off.extractLsb' 10 1 ++ off.extractLsb' 11 8 ++ rd ++ op
def encQ (rs3 : Reg) (fn2 : BitVec 2) (rs2 rs1 : Reg) (fn3 : BitVec 3) (rd : Reg) (op : BitVec 7) : BitVec 32 :=
  rs3 ++ fn2 ++ rs2 ++ rs1 ++ fn3 ++ rd ++ op
def bit (b : Bool) : BitVec 1 := BitVec.ofBool b
end Formats

/-- Major opcode 0x37. -/
def decodeLUI (w : BitVec 32) : Except DecodeError Instr :=
  .ok (.lui (rdF w) (w.extractLsb' 12 20))

/-- Major opcode 0x17. -/
def decodeAUIPC (w : BitVec 32) : Except DecodeError Instr :=
  .ok (.auipc (rdF w) (w.extractLsb' 12 20))

/-- Major opcode 0x6F. -/
def decodeJal (w : BitVec 32) : Except DecodeError Instr :=
  .ok (.jal (rdF w) (immJ w))

/-- Major opcode 0x67. -/
def decodeJalr (w : BitVec 32) : Except DecodeError Instr :=
  if f3 w == 0 then .ok (.jalr (rdF w) (rs1F w) (immI w)) else
  .error .reservedFields

/-- Major opcode 0x63. -/
def decodeBranch (w : BitVec 32) : Except DecodeError Instr :=
  if f3 w == 0 then .ok (.beq (rs1F w) (rs2F w) (immB w)) else
  if f3 w == 1 then .ok (.bne (rs1F w) (rs2F w) (immB w)) else
  if f3 w == 4 then .ok (.blt (rs1F w) (rs2F w) (immB w)) else
  if f3 w == 5 then .ok (.bge (rs1F w) (rs2F w) (immB w)) else
  if f3 w == 6 then .ok (.bltu (rs1F w) (rs2F w) (immB w)) else
  if f3 w == 7 then .ok (.bgeu (rs1F w) (rs2F w) (immB w)) else
  .error .reservedFields

/-- Major opcode 0x03. -/
def decodeLoad (w : BitVec 32) : Except DecodeError Instr :=
  if f3 w == 0 then .ok (.lb (rdF w) (rs1F w) (immI w)) else
  if f3 w == 1 then .ok (.lh (rdF w) (rs1F w) (immI w)) else
  if f3 w == 2 then .ok (.lw (rdF w) (rs1F w) (immI w)) else
  if f3 w == 3 then .ok (.ld (rdF w) (rs1F w) (immI w)) else
  if f3 w == 4 then .ok (.lbu (rdF w) (rs1F w) (immI w)) else
  if f3 w == 5 then .ok (.lhu (rdF w) (rs1F w) (immI w)) else
  if f3 w == 6 then .ok (.lwu (rdF w) (rs1F w) (immI w)) else
  .error .reservedFields

/-- Major opcode 0x23. -/
def decodeStore (w : BitVec 32) : Except DecodeError Instr :=
  if f3 w == 0 then .ok (.sb (rs1F w) (rs2F w) (immS w)) else
  if f3 w == 1 then .ok (.sh (rs1F w) (rs2F w) (immS w)) else
  if f3 w == 2 then .ok (.sw (rs1F w) (rs2F w) (immS w)) else
  if f3 w == 3 then .ok (.sd (rs1F w) (rs2F w) (immS w)) else
  .error .reservedFields

/-- Major opcode 0x13. -/
def decodeOpImm (w : BitVec 32) : Except DecodeError Instr :=
  if f3 w == 0 then .ok (.addi (rdF w) (rs1F w) (immI w)) else
  if f3 w == 2 then .ok (.slti (rdF w) (rs1F w) (immI w)) else
  if f3 w == 3 then .ok (.sltiu (rdF w) (rs1F w) (immI w)) else
  if f3 w == 4 then .ok (.xori (rdF w) (rs1F w) (immI w)) else
  if f3 w == 6 then .ok (.ori (rdF w) (rs1F w) (immI w)) else
  if f3 w == 7 then .ok (.andi (rdF w) (rs1F w) (immI w)) else
  if f3 w == 1 && f6 w == 0 then .ok (.slli (rdF w) (rs1F w) (w.extractLsb' 20 6)) else
  if f3 w == 5 && f6 w == 0 then .ok (.srli (rdF w) (rs1F w) (w.extractLsb' 20 6)) else
  if f3 w == 5 && f6 w == 16 then .ok (.srai (rdF w) (rs1F w) (w.extractLsb' 20 6)) else
  .error .reservedFields

/-- Major opcode 0x1B. -/
def decodeOpImm32 (w : BitVec 32) : Except DecodeError Instr :=
  if f3 w == 0 then .ok (.addiw (rdF w) (rs1F w) (immI w)) else
  if f3 w == 1 && f7 w == 0 then .ok (.slliw (rdF w) (rs1F w) (rs2F w)) else
  if f3 w == 5 && f7 w == 0 then .ok (.srliw (rdF w) (rs1F w) (rs2F w)) else
  if f3 w == 5 && f7 w == 32 then .ok (.sraiw (rdF w) (rs1F w) (rs2F w)) else
  .error .reservedFields

/-- Major opcode 0x33. -/
def decodeOp (w : BitVec 32) : Except DecodeError Instr :=
  if f3 w == 0 && f7 w == 0 then .ok (.add (rdF w) (rs1F w) (rs2F w)) else
  if f3 w == 0 && f7 w == 32 then .ok (.sub (rdF w) (rs1F w) (rs2F w)) else
  if f3 w == 1 && f7 w == 0 then .ok (.sll (rdF w) (rs1F w) (rs2F w)) else
  if f3 w == 2 && f7 w == 0 then .ok (.slt (rdF w) (rs1F w) (rs2F w)) else
  if f3 w == 3 && f7 w == 0 then .ok (.sltu (rdF w) (rs1F w) (rs2F w)) else
  if f3 w == 4 && f7 w == 0 then .ok (.xor (rdF w) (rs1F w) (rs2F w)) else
  if f3 w == 5 && f7 w == 0 then .ok (.srl (rdF w) (rs1F w) (rs2F w)) else
  if f3 w == 5 && f7 w == 32 then .ok (.sra (rdF w) (rs1F w) (rs2F w)) else
  if f3 w == 6 && f7 w == 0 then .ok (.or (rdF w) (rs1F w) (rs2F w)) else
  if f3 w == 7 && f7 w == 0 then .ok (.and (rdF w) (rs1F w) (rs2F w)) else
  if f3 w == 0 && f7 w == 1 then .ok (.mul (rdF w) (rs1F w) (rs2F w)) else
  if f3 w == 1 && f7 w == 1 then .ok (.mulh (rdF w) (rs1F w) (rs2F w)) else
  if f3 w == 2 && f7 w == 1 then .ok (.mulhsu (rdF w) (rs1F w) (rs2F w)) else
  if f3 w == 3 && f7 w == 1 then .ok (.mulhu (rdF w) (rs1F w) (rs2F w)) else
  if f3 w == 4 && f7 w == 1 then .ok (.div (rdF w) (rs1F w) (rs2F w)) else
  if f3 w == 5 && f7 w == 1 then .ok (.divu (rdF w) (rs1F w) (rs2F w)) else
  if f3 w == 6 && f7 w == 1 then .ok (.rem (rdF w) (rs1F w) (rs2F w)) else
  if f3 w == 7 && f7 w == 1 then .ok (.remu (rdF w) (rs1F w) (rs2F w)) else
  .error .reservedFields

/-- Major opcode 0x3B. -/
def decodeOp32 (w : BitVec 32) : Except DecodeError Instr :=
  if f3 w == 0 && f7 w == 0 then .ok (.addw (rdF w) (rs1F w) (rs2F w)) else
  if f3 w == 0 && f7 w == 32 then .ok (.subw (rdF w) (rs1F w) (rs2F w)) else
  if f3 w == 1 && f7 w == 0 then .ok (.sllw (rdF w) (rs1F w) (rs2F w)) else
  if f3 w == 5 && f7 w == 0 then .ok (.srlw (rdF w) (rs1F w) (rs2F w)) else
  if f3 w == 5 && f7 w == 32 then .ok (.sraw (rdF w) (rs1F w) (rs2F w)) else
  if f3 w == 0 && f7 w == 1 then .ok (.mulw (rdF w) (rs1F w) (rs2F w)) else
  if f3 w == 4 && f7 w == 1 then .ok (.divw (rdF w) (rs1F w) (rs2F w)) else
  if f3 w == 5 && f7 w == 1 then .ok (.divuw (rdF w) (rs1F w) (rs2F w)) else
  if f3 w == 6 && f7 w == 1 then .ok (.remw (rdF w) (rs1F w) (rs2F w)) else
  if f3 w == 7 && f7 w == 1 then .ok (.remuw (rdF w) (rs1F w) (rs2F w)) else
  .error .reservedFields

/-- Major opcode 0x0F. -/
def decodeMiscMem (w : BitVec 32) : Except DecodeError Instr :=
  if f3 w == 0 && fmF w == 8 && predF w == 3 && succF w == 3 then .ok (.fenceTso (rs1F w) (rdF w)) else
  if w == 0x0100000F#32 then .ok (.pause) else
  if f3 w == 0 then .ok (.fence (w.extractLsb' 28 4) (w.extractLsb' 24 4) (w.extractLsb' 20 4) (rs1F w) (rdF w)) else
  if f3 w == 1 then .ok (.fenceI (immI w) (rs1F w) (rdF w)) else
  .error .reservedFields

/-- Major opcode 0x2F. -/
noncomputable def decodeAmo (w : BitVec 32) : Except DecodeError Instr :=
  if f3 w == 2 && f5 w == 2 && rs2F w == 0#5 then .ok (.lrW (rdF w) (rs1F w) (w.getLsbD 26) (w.getLsbD 25)) else
  if f3 w == 3 && f5 w == 2 && rs2F w == 0#5 then .ok (.lrD (rdF w) (rs1F w) (w.getLsbD 26) (w.getLsbD 25)) else
  if f3 w == 2 && f5 w == 3 then .ok (.scW (rdF w) (rs1F w) (rs2F w) (w.getLsbD 26) (w.getLsbD 25)) else
  if f3 w == 3 && f5 w == 3 then .ok (.scD (rdF w) (rs1F w) (rs2F w) (w.getLsbD 26) (w.getLsbD 25)) else
  if f3 w == 2 && f5 w == 1 then .ok (.amoswapW (rdF w) (rs1F w) (rs2F w) (w.getLsbD 26) (w.getLsbD 25)) else
  if f3 w == 3 && f5 w == 1 then .ok (.amoswapD (rdF w) (rs1F w) (rs2F w) (w.getLsbD 26) (w.getLsbD 25)) else
  if f3 w == 2 && f5 w == 0 then .ok (.amoaddW (rdF w) (rs1F w) (rs2F w) (w.getLsbD 26) (w.getLsbD 25)) else
  if f3 w == 3 && f5 w == 0 then .ok (.amoaddD (rdF w) (rs1F w) (rs2F w) (w.getLsbD 26) (w.getLsbD 25)) else
  if f3 w == 2 && f5 w == 4 then .ok (.amoxorW (rdF w) (rs1F w) (rs2F w) (w.getLsbD 26) (w.getLsbD 25)) else
  if f3 w == 3 && f5 w == 4 then .ok (.amoxorD (rdF w) (rs1F w) (rs2F w) (w.getLsbD 26) (w.getLsbD 25)) else
  if f3 w == 2 && f5 w == 12 then .ok (.amoandW (rdF w) (rs1F w) (rs2F w) (w.getLsbD 26) (w.getLsbD 25)) else
  if f3 w == 3 && f5 w == 12 then .ok (.amoandD (rdF w) (rs1F w) (rs2F w) (w.getLsbD 26) (w.getLsbD 25)) else
  if f3 w == 2 && f5 w == 8 then .ok (.amoorW (rdF w) (rs1F w) (rs2F w) (w.getLsbD 26) (w.getLsbD 25)) else
  if f3 w == 3 && f5 w == 8 then .ok (.amoorD (rdF w) (rs1F w) (rs2F w) (w.getLsbD 26) (w.getLsbD 25)) else
  if f3 w == 2 && f5 w == 16 then .ok (.amominW (rdF w) (rs1F w) (rs2F w) (w.getLsbD 26) (w.getLsbD 25)) else
  if f3 w == 3 && f5 w == 16 then .ok (.amominD (rdF w) (rs1F w) (rs2F w) (w.getLsbD 26) (w.getLsbD 25)) else
  if f3 w == 2 && f5 w == 20 then .ok (.amomaxW (rdF w) (rs1F w) (rs2F w) (w.getLsbD 26) (w.getLsbD 25)) else
  if f3 w == 3 && f5 w == 20 then .ok (.amomaxD (rdF w) (rs1F w) (rs2F w) (w.getLsbD 26) (w.getLsbD 25)) else
  if f3 w == 2 && f5 w == 24 then .ok (.amominuW (rdF w) (rs1F w) (rs2F w) (w.getLsbD 26) (w.getLsbD 25)) else
  if f3 w == 3 && f5 w == 24 then .ok (.amominuD (rdF w) (rs1F w) (rs2F w) (w.getLsbD 26) (w.getLsbD 25)) else
  if f3 w == 2 && f5 w == 28 then .ok (.amomaxuW (rdF w) (rs1F w) (rs2F w) (w.getLsbD 26) (w.getLsbD 25)) else
  if f3 w == 3 && f5 w == 28 then .ok (.amomaxuD (rdF w) (rs1F w) (rs2F w) (w.getLsbD 26) (w.getLsbD 25)) else
  .error .reservedFields

/-- Major opcode 0x73. -/
noncomputable def decodeSystem (w : BitVec 32) : Except DecodeError Instr :=
  if w == 0x00000073#32 then .ok (.ecall) else
  if w == 0x00100073#32 then .ok (.ebreak) else
  if w == 0x10200073#32 then .ok (.sret) else
  if w == 0x30200073#32 then .ok (.mret) else
  if w == 0x10500073#32 then .ok (.wfi) else
  if f3 w == 0 && f7 w == 9 && rdF w == 0#5 then .ok (.sfenceVma (rs1F w) (rs2F w)) else
  if f3 w == 0 && f7 w == 17 && rdF w == 0#5 then .ok (.hfenceVvma (rs1F w) (rs2F w)) else
  if f3 w == 0 && f7 w == 49 && rdF w == 0#5 then .ok (.hfenceGvma (rs1F w) (rs2F w)) else
  if f3 w == 4 && f7 w == 48 && rs2F w == 0#5 then .ok (.hlvB (rdF w) (rs1F w)) else
  if f3 w == 4 && f7 w == 48 && rs2F w == 1#5 then .ok (.hlvBu (rdF w) (rs1F w)) else
  if f3 w == 4 && f7 w == 50 && rs2F w == 0#5 then .ok (.hlvH (rdF w) (rs1F w)) else
  if f3 w == 4 && f7 w == 50 && rs2F w == 1#5 then .ok (.hlvHu (rdF w) (rs1F w)) else
  if f3 w == 4 && f7 w == 50 && rs2F w == 3#5 then .ok (.hlvxHu (rdF w) (rs1F w)) else
  if f3 w == 4 && f7 w == 52 && rs2F w == 0#5 then .ok (.hlvW (rdF w) (rs1F w)) else
  if f3 w == 4 && f7 w == 52 && rs2F w == 1#5 then .ok (.hlvWu (rdF w) (rs1F w)) else
  if f3 w == 4 && f7 w == 52 && rs2F w == 3#5 then .ok (.hlvxWu (rdF w) (rs1F w)) else
  if f3 w == 4 && f7 w == 54 && rs2F w == 0#5 then .ok (.hlvD (rdF w) (rs1F w)) else
  if f3 w == 4 && f7 w == 49 && rdF w == 0#5 then .ok (.hsvB (rs1F w) (rs2F w)) else
  if f3 w == 4 && f7 w == 51 && rdF w == 0#5 then .ok (.hsvH (rs1F w) (rs2F w)) else
  if f3 w == 4 && f7 w == 53 && rdF w == 0#5 then .ok (.hsvW (rs1F w) (rs2F w)) else
  if f3 w == 4 && f7 w == 55 && rdF w == 0#5 then .ok (.hsvD (rs1F w) (rs2F w)) else
  if f3 w == 1 then .ok (.csrrw (rdF w) (rs1F w) (immI w)) else
  if f3 w == 2 then .ok (.csrrs (rdF w) (rs1F w) (immI w)) else
  if f3 w == 3 then .ok (.csrrc (rdF w) (rs1F w) (immI w)) else
  if f3 w == 5 then .ok (.csrrwi (rdF w) (rs1F w) (immI w)) else
  if f3 w == 6 then .ok (.csrrsi (rdF w) (rs1F w) (immI w)) else
  if f3 w == 7 then .ok (.csrrci (rdF w) (rs1F w) (immI w)) else
  .error .reservedFields

/-- Major opcode 0x0B. -/
def decodeCustom0 (w : BitVec 32) : Except DecodeError Instr :=
  if f3 w == 0 && rdF w == 0#5 && rs1F w == 0#5 then .ok (.lrun (immI w)) else
  if f3 w == 1 && f7 w == 0 && rdF w == 0#5 && rs2F w == 0#5 then .ok (.lrunr (rs1F w)) else
  if f3 w == 2 && rdF w == 0#5 then .ok (.lpc (immI w) (rs1F w)) else
  if f3 w == 3 && f7 w == 0 then .ok (.mand (rdF w) (rs1F w) (rs2F w)) else
  if f3 w == 3 && f7 w == 1 then .ok (.mor (rdF w) (rs1F w) (rs2F w)) else
  if f3 w == 3 && f7 w == 2 then .ok (.mxor (rdF w) (rs1F w) (rs2F w)) else
  if f3 w == 3 && f7 w == 3 then .ok (.mandn (rdF w) (rs1F w) (rs2F w)) else
  if f3 w == 3 && f7 w == 4 && rs2F w == 0#5 then .ok (.mnot (rdF w) (rs1F w)) else
  if f3 w == 3 && f7 w == 5 && rs2F w == 0#5 then .ok (.mmov (rdF w) (rs1F w)) else
  if f3 w == 3 && f7 w == 6 && rdF w == 0#5 && rs2F w == 0#5 then .ok (.mpush (rs1F w)) else
  if f3 w == 3 && f7 w == 7 && rs1F w == 0#5 && rs2F w == 0#5 then .ok (.mpop (rdF w)) else
  if f3 w == 3 && f7 w == 8 && rs1F w == 0#5 then .ok (.mpeek (rdF w) (rs2F w)) else
  if f3 w == 3 && f7 w == 9 && rdF w == 0#5 then .ok (.mpoke (rs2F w) (rs1F w)) else
  if f3 w == 3 && f7 w == 10 && rs2F w == 0#5 then .ok (.mcnt (rdF w) (rs1F w)) else
  if f3 w == 3 && f7 w == 11 && rs2F w == 0#5 then .ok (.mfirst (rdF w) (rs1F w)) else
  if f3 w == 3 && f7 w == 12 then .ok (.mgetx (rdF w) (rs1F w) (rs2F w)) else
  if f3 w == 3 && f7 w == 13 then .ok (.msetx (rdF w) (rs1F w) (rs2F w)) else
  if f3 w == 4 && rs2F w == 0#5 then .ok (.bmany (rs1F w) (immB w)) else
  if f3 w == 5 && rs2F w == 0#5 then .ok (.bmnone (rs1F w) (immB w)) else
  if f3 w == 6 && rs2F w == 0#5 then .ok (.bmall (rs1F w) (immB w)) else
  .error .reservedFields

/-- Major opcode 0x2B. -/
def decodeCustom1 (w : BitVec 32) : Except DecodeError Instr :=
  if f3 w == 0 then .ok (.ldfe (rdF w) (rs1F w) (immI w)) else
  if f3 w == 1 then .ok (.ldff (rdF w) (rs1F w) (immI w)) else
  if f3 w == 2 then .ok (.stef (rs1F w) (rs2F w) (immS w)) else
  if f3 w == 3 then .ok (.stff (rs1F w) (rs2F w) (immS w)) else
  if f3 w == 4 && f7 w == 0 && rdF w == 0#5 then .ok (.feclr (rs1F w) (rs2F w)) else
  if f3 w == 5 && f7 w == 0 && rs2F w == 0#5 then .ok (.lrwW (rdF w) (rs1F w)) else
  if f3 w == 5 && f7 w == 1 && rs2F w == 0#5 then .ok (.lrwD (rdF w) (rs1F w)) else
  if f3 w == 5 && f7 w == 2 then .ok (.schW (rdF w) (rs1F w) (rs2F w)) else
  if f3 w == 5 && f7 w == 3 then .ok (.schD (rdF w) (rs1F w) (rs2F w)) else
  if f3 w == 6 && rdF w == 0#5 && rs1F w == 0#5 && w.extractLsb' 25 7 == 0#7 then .ok (.fenceS (w.extractLsb' 23 2) (w.extractLsb' 20 3)) else
  if f3 w == 7 && f7 w == 0 && rdF w == 0#5 then .ok (.barInit (rs2F w) (rs1F w)) else
  if f3 w == 7 && f7 w == 1 && rs1F w == 0#5 then .ok (.barArrive (rdF w) (rs2F w)) else
  if f3 w == 7 && f7 w == 2 && rdF w == 0#5 then .ok (.barWait (rs2F w) (rs1F w)) else
  if f3 w == 7 && f7 w == 3 && rs1F w == 0#5 then .ok (.barQuery (rdF w) (rs2F w)) else
  if f3 w == 7 && f7 w == 4 && rs1F w == 0#5 then .ok (.gbarArrive (rdF w) (rs2F w)) else
  if f3 w == 7 && f7 w == 5 && rdF w == 0#5 then .ok (.gbarWait (rs2F w) (rs1F w)) else
  .error .reservedFields

/-- Major opcode 0x5B. -/
def decodeCustom2 (w : BitVec 32) : Except DecodeError Instr :=
  if f3 w == 0 && f7 w == 0 && rs2F w == 0#5 then .ok (.launch (rdF w) (rs1F w)) else
  if f3 w == 1 then .ok (.fork (rdF w) (rs1F w) (rs2F w) (w.extractLsb' 25 7)) else
  if f3 w == 2 && rdF w == 0#5 then .ok (.join (immI w) (rs1F w)) else
  if w == 0x0000305B#32 then .ok (.exit) else
  if w == 0x0010305B#32 then .ok (.exitPark) else
  if w == 0x0200305B#32 then .ok (.yield) else
  if w == 0x0200505B#32 then .ok (.texit) else
  if f3 w == 4 && w.extractLsb' 25 2 == 0#2 && rdF w == 0#5 then .ok (.callat (rs1F w) (rs2F w) (rs3F w)) else
  if f3 w == 4 && w.extractLsb' 25 2 == 1#2 && rs3F w == 0#5 && rdF w == 0#5 then .ok (.spawnat (rs1F w) (rs2F w)) else
  if f3 w == 5 && f7 w == 0 && rdF w == 0#5 && rs2F w == 0#5 then .ok (.reply (rs1F w)) else
  .error .reservedFields

/-- Major opcode 0x7B. -/
def decodeCustom3 (w : BitVec 32) : Except DecodeError Instr :=
  if f3 w == 0 && w.extractLsb' 25 2 == 0#2 then .ok (.cpy (rdF w) (rs1F w) (rs2F w) (rs3F w)) else
  if f3 w == 0 && w.extractLsb' 25 2 == 1#2 then .ok (.cpyRs (rdF w) (rs1F w) (rs2F w) (rs3F w)) else
  if f3 w == 0 && w.extractLsb' 25 2 == 2#2 && rs2F w == 0#5 then .ok (.cpyPf (rdF w) (rs1F w) (rs3F w)) else
  if f3 w == 1 then .ok (.mld (rdF w) (immI w) (rs1F w)) else
  if f3 w == 2 && f7 w == 0 && rdF w == 0#5 && rs1F w == 0#5 then .ok (.accGet (rs2F w)) else
  if f3 w == 2 && f7 w == 1 && rdF w == 0#5 && rs1F w == 0#5 then .ok (.accPut (rs2F w)) else
  if f3 w == 2 && f7 w == 2 && rdF w == 0#5 && rs1F w == 0#5 then .ok (.accZero (rs2F w)) else
  if f3 w == 2 && f7 w == 3 && rs1F w == 0#5 && rs2F w == 0#5 then .ok (.accQuery (rdF w)) else
  if f3 w == 3 && rdF w == 0#5 && rs1F w == 0#5 then .ok (.lbind (immI w)) else
  if f3 w == 4 && rdF w == 0#5 && rs1F w == 0#5 then .ok (.mark (immI w)) else
  .error .reservedFields

/-- A word of the scalar stream (05 R120–R130). -/
noncomputable def decodeScalar (w : BitVec 32) : Except DecodeError Instr :=
  if w.extractLsb' 0 2 != 3#2 then .error .compressed
  else if w.extractLsb' 2 3 == 7#3 then .error .longEncoding
  else match opF w with
  | 0x37 => decodeLUI w
  | 0x17 => decodeAUIPC w
  | 0x6F => decodeJal w
  | 0x67 => decodeJalr w
  | 0x63 => decodeBranch w
  | 0x03 => decodeLoad w
  | 0x23 => decodeStore w
  | 0x13 => decodeOpImm w
  | 0x1B => decodeOpImm32 w
  | 0x33 => decodeOp w
  | 0x3B => decodeOp32 w
  | 0x0F => decodeMiscMem w
  | 0x2F => decodeAmo w
  | 0x73 => decodeSystem w
  | 0x0B => decodeCustom0 w
  | 0x2B => decodeCustom1 w
  | 0x5B => decodeCustom2 w
  | 0x7B => decodeCustom3 w
  | _ => .error .absentOpcode

/-- The three words of a lane instruction, lowest first (05 R131). -/
abbrev LaneWords := BitVec 96

/-- Bits 63:8 of a lane word by field (05 R131). -/
def laneBase (w : LaneWords) : LaneBase :=
  { mod4 := w.extractLsb' 60 4, yl := w.extractLsb' 59 1, st := w.extractLsb' 55 4, mn := w.extractLsb' 54 1,
    ms := w.extractLsb' 50 4, kb := w.extractLsb' 48 2, ka := w.extractLsb' 46 2, sb := w.extractLsb' 36 10,
    sa := w.extractLsb' 26 10, vd := w.extractLsb' 16 10, ty := w.extractLsb' 12 4, fn := w.extractLsb' 8 4 }
def laneL (w : LaneWords) : LaneL :=
  { base := laneBase w, mod20 := w.extractLsb' 76 20, kc := w.extractLsb' 74 2, sc := w.extractLsb' 64 10 }
def laneJ (w : LaneWords) : LaneJ := { base := laneBase w, imm := w.extractLsb' 64 32 }

def encBase (b : LaneBase) (opc : BitVec 8) : BitVec 64 :=
  b.mod4 ++ b.yl ++ b.st ++ b.mn ++ b.ms ++ b.kb ++ b.ka ++ b.sb ++ b.sa ++ b.vd ++ b.ty ++ b.fn ++ opc
def encLaneL (f : LaneL) (opc : BitVec 8) : LaneWords := f.mod20 ++ f.kc ++ f.sc ++ encBase f.base opc
def encLaneJ (f : LaneJ) (opc : BitVec 8) : LaneWords := f.imm ++ encBase f.base opc

/-- The three 32-bit words of a lane instruction, the first at the lowest address (05 R131). -/
def laneWordList (w : LaneWords) : List (BitVec 32) :=
  [w.extractLsb' 0 32, w.extractLsb' 32 32, w.extractLsb' 64 32]

/-- The lane operation of OPC in L form (05 R135). -/
noncomputable def decodeLaneL (opc : Nat) (f : LaneL) : Except DecodeError Instr :=
  match opc with
  | 0x00 => .ok (.iadd f)
  | 0x01 => .ok (.isub f)
  | 0x02 => .ok (.imul f)
  | 0x03 => .ok (.imulh f)
  | 0x04 => .ok (.imad f)
  | 0x05 => .ok (.imin f)
  | 0x06 => .ok (.imax f)
  | 0x07 => .ok (.iabs f)
  | 0x08 => .ok (.shl f)
  | 0x09 => .ok (.shr f)
  | 0x0A => .ok (.sar f)
  | 0x0B => .ok (.laneAnd f)
  | 0x0C => .ok (.laneOr f)
  | 0x0D => .ok (.laneXor f)
  | 0x0E => .ok (.lop3 f)
  | 0x0F => .ok (.popc f)
  | 0x10 => .ok (.clz f)
  | 0x11 => .ok (.bfe f)
  | 0x12 => .ok (.bfi f)
  | 0x20 => .ok (.fadd f)
  | 0x21 => .ok (.fsub f)
  | 0x22 => .ok (.fmul f)
  | 0x23 => .ok (.ffma f)
  | 0x24 => .ok (.fmin f)
  | 0x25 => .ok (.fmax f)
  | 0x26 => .ok (.frcp f)
  | 0x27 => .ok (.frsq f)
  | 0x28 => .ok (.fex2 f)
  | 0x29 => .ok (.flg2 f)
  | 0x30 => .ok (.cvt f)
  | 0x31 => .ok (.qnt f)
  | 0x32 => .ok (.dqt f)
  | 0x38 => .ok (.icmp f)
  | 0x39 => .ok (.fcmp f)
  | 0x3A => .ok (.sel f)
  | 0x40 => .ok (.mov f)
  | 0x41 => .ok (.shfl f)
  | 0x42 => .ok (.bcst f)
  | 0x43 => .ok (.lred f)
  | 0x44 => .ok (.lscan f)
  | 0x45 => .ok (.disp f)
  | 0x50 => .ok (.laneLd f)
  | 0x51 => .ok (.laneSt f)
  | 0x52 => .ok (.lds f)
  | 0x53 => .ok (.sts f)
  | 0x54 => .ok (.laneLdfe f)
  | 0x55 => .ok (.laneLdff f)
  | 0x56 => .ok (.laneStef f)
  | 0x57 => .ok (.laneStff f)
  | 0x58 => .ok (.pfetch f)
  | 0x60 => .ok (.amo f)
  | 0x61 => .ok (.red f)
  | 0x68 => .ok (.mma f)
  | 0x69 => .ok (.accld f)
  | 0x6A => .ok (.accrd f)
  | 0x6B => .ok (.accst f)
  | 0x70 => .ok (.ladd f)
  | 0x71 => .ok (.lsub f)
  | 0x72 => .ok (.lshl f)
  | 0x73 => .ok (.lshr f)
  | 0x74 => .ok (.lmac f)
  | 0x75 => .ok (.lcmp f)
  | 0x78 => .ok (.nop f)
  | _ => .error .laneReserved

/-- The lane operation of OPC bits 6:0 in J form (05 R135); OPC without a J opcode is refused as such. -/
noncomputable def decodeLaneJ (opc : Nat) (f : LaneJ) : Except DecodeError Instr :=
  match opc with
  | 0x00 => .ok (.iaddJ f)
  | 0x01 => .ok (.isubJ f)
  | 0x02 => .ok (.imulJ f)
  | 0x03 => .ok (.imulhJ f)
  | 0x05 => .ok (.iminJ f)
  | 0x06 => .ok (.imaxJ f)
  | 0x08 => .ok (.shlJ f)
  | 0x09 => .ok (.shrJ f)
  | 0x0A => .ok (.sarJ f)
  | 0x0B => .ok (.laneAndJ f)
  | 0x0C => .ok (.laneOrJ f)
  | 0x0D => .ok (.laneXorJ f)
  | 0x20 => .ok (.faddJ f)
  | 0x21 => .ok (.fsubJ f)
  | 0x22 => .ok (.fmulJ f)
  | 0x24 => .ok (.fminJ f)
  | 0x25 => .ok (.fmaxJ f)
  | 0x38 => .ok (.icmpJ f)
  | 0x39 => .ok (.fcmpJ f)
  | 0x40 => .ok (.movi f)
  | 0x50 => .ok (.laneLdJ f)
  | 0x51 => .ok (.laneStJ f)
  | 0x52 => .ok (.ldsJ f)
  | 0x53 => .ok (.stsJ f)
  | 0x54 => .ok (.laneLdfeJ f)
  | 0x55 => .ok (.laneLdffJ f)
  | 0x56 => .ok (.laneStefJ f)
  | 0x57 => .ok (.laneStffJ f)
  | 0x58 => .ok (.pfetchJ f)
  | _ => .error .laneNoJForm

/-- A lane instruction word; checks 1 and 2 of 05 R136 refuse here, the others when it issues. -/
noncomputable def decodeLane (w : LaneWords) : Except DecodeError Instr :=
  let opc := (w.extractLsb' 0 7).toNat
  match decodeLaneL opc (laneL w) with
  | .error e => .error e
  | .ok i => if w.getLsbD 7 then decodeLaneJ opc (laneJ w) else .ok i

/-- The words of a scalar or lane instruction, the first at the lowest address; no words for an operation that is fetched
from no stream. -/
def encode : Instr → List (BitVec 32)
  | .lrun n => [encI n 0#5 0#3 0#5 0x0B#7]
  | .lrunr rs1 => [encR 0#7 0#5 rs1 1#3 0#5 0x0B#7]
  | .lpc imm rs1 => [encI imm rs1 2#3 0#5 0x0B#7]
  | .mand rd ma mb => [encR 0#7 mb ma 3#3 rd 0x0B#7]
  | .mor rd ma mb => [encR 1#7 mb ma 3#3 rd 0x0B#7]
  | .mxor rd ma mb => [encR 2#7 mb ma 3#3 rd 0x0B#7]
  | .mandn rd ma mb => [encR 3#7 mb ma 3#3 rd 0x0B#7]
  | .mnot rd ma => [encR 4#7 0#5 ma 3#3 rd 0x0B#7]
  | .mmov rd ma => [encR 5#7 0#5 ma 3#3 rd 0x0B#7]
  | .mpush ma => [encR 6#7 0#5 ma 3#3 0#5 0x0B#7]
  | .mpop rd => [encR 7#7 0#5 0#5 3#3 rd 0x0B#7]
  | .mpeek rd e => [encR 8#7 e 0#5 3#3 rd 0x0B#7]
  | .mpoke e ma => [encR 9#7 e ma 3#3 0#5 0x0B#7]
  | .mcnt rd ma => [encR 10#7 0#5 ma 3#3 rd 0x0B#7]
  | .mfirst rd ma => [encR 11#7 0#5 ma 3#3 rd 0x0B#7]
  | .mgetx rd ma half => [encR 12#7 half ma 3#3 rd 0x0B#7]
  | .msetx rd rs1 half => [encR 13#7 half rs1 3#3 rd 0x0B#7]
  | .bmany ma off => [encB off 0#5 ma 4#3 0x0B#7]
  | .bmnone ma off => [encB off 0#5 ma 5#3 0x0B#7]
  | .bmall ma off => [encB off 0#5 ma 6#3 0x0B#7]
  | .ldfe rd rs1 imm => [encI imm rs1 0#3 rd 0x2B#7]
  | .ldff rd rs1 imm => [encI imm rs1 1#3 rd 0x2B#7]
  | .stef rs1 rs2 imm => [encS imm rs2 rs1 2#3 0x2B#7]
  | .stff rs1 rs2 imm => [encS imm rs2 rs1 3#3 0x2B#7]
  | .feclr rs1 rs2 => [encR 0#7 rs2 rs1 4#3 0#5 0x2B#7]
  | .lrwW rd rs1 => [encR 0#7 0#5 rs1 5#3 rd 0x2B#7]
  | .lrwD rd rs1 => [encR 1#7 0#5 rs1 5#3 rd 0x2B#7]
  | .schW rd rs1 rs2 => [encR 2#7 rs2 rs1 5#3 rd 0x2B#7]
  | .schD rd rs1 rs2 => [encR 3#7 rs2 rs1 5#3 rd 0x2B#7]
  | .fenceS kind scope => [encI (0#7 ++ kind ++ scope) 0#5 6#3 0#5 0x2B#7]
  | .barInit n rs1 => [encR 0#7 n rs1 7#3 0#5 0x2B#7]
  | .barArrive rd n => [encR 1#7 n 0#5 7#3 rd 0x2B#7]
  | .barWait n rs1 => [encR 2#7 n rs1 7#3 0#5 0x2B#7]
  | .barQuery rd n => [encR 3#7 n 0#5 7#3 rd 0x2B#7]
  | .gbarArrive rd n => [encR 4#7 n 0#5 7#3 rd 0x2B#7]
  | .gbarWait n rs1 => [encR 5#7 n rs1 7#3 0#5 0x2B#7]
  | .launch rd rs1 => [encR 0#7 0#5 rs1 0#3 rd 0x5B#7]
  | .fork rd rs1 rs2 k => [encR k rs2 rs1 1#3 rd 0x5B#7]
  | .join imm rs1 => [encI imm rs1 2#3 0#5 0x5B#7]
  | .callat rs1 rs2 rs3 => [encQ rs3 0#2 rs2 rs1 4#3 0#5 0x5B#7]
  | .spawnat rs1 rs2 => [encQ 0#5 1#2 rs2 rs1 4#3 0#5 0x5B#7]
  | .reply rs1 => [encR 0#7 0#5 rs1 5#3 0#5 0x5B#7]
  | .cpy bar rs1 rs2 rs3 => [encQ rs3 0#2 rs2 rs1 0#3 bar 0x7B#7]
  | .cpyRs bar rs1 rs2 rs3 => [encQ rs3 1#2 rs2 rs1 0#3 bar 0x7B#7]
  | .cpyPf bar rs1 rs3 => [encQ rs3 2#2 0#5 rs1 0#3 bar 0x7B#7]
  | .mld slot imm rs1 => [encI imm rs1 1#3 slot 0x7B#7]
  | .accGet t => [encR 0#7 t 0#5 2#3 0#5 0x7B#7]
  | .accPut t => [encR 1#7 t 0#5 2#3 0#5 0x7B#7]
  | .accZero t => [encR 2#7 t 0#5 2#3 0#5 0x7B#7]
  | .accQuery rd => [encR 3#7 0#5 0#5 2#3 rd 0x7B#7]
  | .lbind s => [encI s 0#5 3#3 0#5 0x7B#7]
  | .mark n => [encI n 0#5 4#3 0#5 0x7B#7]
  | .lui rd imm => [encU imm rd 0x37#7]
  | .auipc rd imm => [encU imm rd 0x17#7]
  | .jal rd off => [encJ off rd 0x6F#7]
  | .jalr rd rs1 imm => [encI imm rs1 0#3 rd 0x67#7]
  | .beq rs1 rs2 off => [encB off rs2 rs1 0#3 0x63#7]
  | .bne rs1 rs2 off => [encB off rs2 rs1 1#3 0x63#7]
  | .blt rs1 rs2 off => [encB off rs2 rs1 4#3 0x63#7]
  | .bge rs1 rs2 off => [encB off rs2 rs1 5#3 0x63#7]
  | .bltu rs1 rs2 off => [encB off rs2 rs1 6#3 0x63#7]
  | .bgeu rs1 rs2 off => [encB off rs2 rs1 7#3 0x63#7]
  | .lb rd rs1 imm => [encI imm rs1 0#3 rd 0x03#7]
  | .lh rd rs1 imm => [encI imm rs1 1#3 rd 0x03#7]
  | .lw rd rs1 imm => [encI imm rs1 2#3 rd 0x03#7]
  | .ld rd rs1 imm => [encI imm rs1 3#3 rd 0x03#7]
  | .lbu rd rs1 imm => [encI imm rs1 4#3 rd 0x03#7]
  | .lhu rd rs1 imm => [encI imm rs1 5#3 rd 0x03#7]
  | .lwu rd rs1 imm => [encI imm rs1 6#3 rd 0x03#7]
  | .sb rs1 rs2 imm => [encS imm rs2 rs1 0#3 0x23#7]
  | .sh rs1 rs2 imm => [encS imm rs2 rs1 1#3 0x23#7]
  | .sw rs1 rs2 imm => [encS imm rs2 rs1 2#3 0x23#7]
  | .sd rs1 rs2 imm => [encS imm rs2 rs1 3#3 0x23#7]
  | .addi rd rs1 imm => [encI imm rs1 0#3 rd 0x13#7]
  | .slti rd rs1 imm => [encI imm rs1 2#3 rd 0x13#7]
  | .sltiu rd rs1 imm => [encI imm rs1 3#3 rd 0x13#7]
  | .xori rd rs1 imm => [encI imm rs1 4#3 rd 0x13#7]
  | .ori rd rs1 imm => [encI imm rs1 6#3 rd 0x13#7]
  | .andi rd rs1 imm => [encI imm rs1 7#3 rd 0x13#7]
  | .slli rd rs1 sh => [encI (0#6 ++ sh) rs1 1#3 rd 0x13#7]
  | .srli rd rs1 sh => [encI (0#6 ++ sh) rs1 5#3 rd 0x13#7]
  | .srai rd rs1 sh => [encI (16#6 ++ sh) rs1 5#3 rd 0x13#7]
  | .add rd rs1 rs2 => [encR 0#7 rs2 rs1 0#3 rd 0x33#7]
  | .sub rd rs1 rs2 => [encR 32#7 rs2 rs1 0#3 rd 0x33#7]
  | .sll rd rs1 rs2 => [encR 0#7 rs2 rs1 1#3 rd 0x33#7]
  | .slt rd rs1 rs2 => [encR 0#7 rs2 rs1 2#3 rd 0x33#7]
  | .sltu rd rs1 rs2 => [encR 0#7 rs2 rs1 3#3 rd 0x33#7]
  | .xor rd rs1 rs2 => [encR 0#7 rs2 rs1 4#3 rd 0x33#7]
  | .srl rd rs1 rs2 => [encR 0#7 rs2 rs1 5#3 rd 0x33#7]
  | .sra rd rs1 rs2 => [encR 32#7 rs2 rs1 5#3 rd 0x33#7]
  | .or rd rs1 rs2 => [encR 0#7 rs2 rs1 6#3 rd 0x33#7]
  | .and rd rs1 rs2 => [encR 0#7 rs2 rs1 7#3 rd 0x33#7]
  | .addiw rd rs1 imm => [encI imm rs1 0#3 rd 0x1B#7]
  | .slliw rd rs1 sh => [encR 0#7 sh rs1 1#3 rd 0x1B#7]
  | .srliw rd rs1 sh => [encR 0#7 sh rs1 5#3 rd 0x1B#7]
  | .sraiw rd rs1 sh => [encR 32#7 sh rs1 5#3 rd 0x1B#7]
  | .addw rd rs1 rs2 => [encR 0#7 rs2 rs1 0#3 rd 0x3B#7]
  | .subw rd rs1 rs2 => [encR 32#7 rs2 rs1 0#3 rd 0x3B#7]
  | .sllw rd rs1 rs2 => [encR 0#7 rs2 rs1 1#3 rd 0x3B#7]
  | .srlw rd rs1 rs2 => [encR 0#7 rs2 rs1 5#3 rd 0x3B#7]
  | .sraw rd rs1 rs2 => [encR 32#7 rs2 rs1 5#3 rd 0x3B#7]
  | .fence fm pred succ rs1 rd => [encI (fm ++ pred ++ succ) rs1 0#3 rd 0x0F#7]
  | .fenceTso rs1 rd => [encI (8#4 ++ 3#4 ++ 3#4) rs1 0#3 rd 0x0F#7]
  | .mul rd rs1 rs2 => [encR 1#7 rs2 rs1 0#3 rd 0x33#7]
  | .mulh rd rs1 rs2 => [encR 1#7 rs2 rs1 1#3 rd 0x33#7]
  | .mulhsu rd rs1 rs2 => [encR 1#7 rs2 rs1 2#3 rd 0x33#7]
  | .mulhu rd rs1 rs2 => [encR 1#7 rs2 rs1 3#3 rd 0x33#7]
  | .div rd rs1 rs2 => [encR 1#7 rs2 rs1 4#3 rd 0x33#7]
  | .divu rd rs1 rs2 => [encR 1#7 rs2 rs1 5#3 rd 0x33#7]
  | .rem rd rs1 rs2 => [encR 1#7 rs2 rs1 6#3 rd 0x33#7]
  | .remu rd rs1 rs2 => [encR 1#7 rs2 rs1 7#3 rd 0x33#7]
  | .mulw rd rs1 rs2 => [encR 1#7 rs2 rs1 0#3 rd 0x3B#7]
  | .divw rd rs1 rs2 => [encR 1#7 rs2 rs1 4#3 rd 0x3B#7]
  | .divuw rd rs1 rs2 => [encR 1#7 rs2 rs1 5#3 rd 0x3B#7]
  | .remw rd rs1 rs2 => [encR 1#7 rs2 rs1 6#3 rd 0x3B#7]
  | .remuw rd rs1 rs2 => [encR 1#7 rs2 rs1 7#3 rd 0x3B#7]
  | .lrW rd rs1 aq rl => [encR (2#5 ++ bit aq ++ bit rl) 0#5 rs1 2#3 rd 0x2F#7]
  | .lrD rd rs1 aq rl => [encR (2#5 ++ bit aq ++ bit rl) 0#5 rs1 3#3 rd 0x2F#7]
  | .scW rd rs1 rs2 aq rl => [encR (3#5 ++ bit aq ++ bit rl) rs2 rs1 2#3 rd 0x2F#7]
  | .scD rd rs1 rs2 aq rl => [encR (3#5 ++ bit aq ++ bit rl) rs2 rs1 3#3 rd 0x2F#7]
  | .amoswapW rd rs1 rs2 aq rl => [encR (1#5 ++ bit aq ++ bit rl) rs2 rs1 2#3 rd 0x2F#7]
  | .amoswapD rd rs1 rs2 aq rl => [encR (1#5 ++ bit aq ++ bit rl) rs2 rs1 3#3 rd 0x2F#7]
  | .amoaddW rd rs1 rs2 aq rl => [encR (0#5 ++ bit aq ++ bit rl) rs2 rs1 2#3 rd 0x2F#7]
  | .amoaddD rd rs1 rs2 aq rl => [encR (0#5 ++ bit aq ++ bit rl) rs2 rs1 3#3 rd 0x2F#7]
  | .amoxorW rd rs1 rs2 aq rl => [encR (4#5 ++ bit aq ++ bit rl) rs2 rs1 2#3 rd 0x2F#7]
  | .amoxorD rd rs1 rs2 aq rl => [encR (4#5 ++ bit aq ++ bit rl) rs2 rs1 3#3 rd 0x2F#7]
  | .amoandW rd rs1 rs2 aq rl => [encR (12#5 ++ bit aq ++ bit rl) rs2 rs1 2#3 rd 0x2F#7]
  | .amoandD rd rs1 rs2 aq rl => [encR (12#5 ++ bit aq ++ bit rl) rs2 rs1 3#3 rd 0x2F#7]
  | .amoorW rd rs1 rs2 aq rl => [encR (8#5 ++ bit aq ++ bit rl) rs2 rs1 2#3 rd 0x2F#7]
  | .amoorD rd rs1 rs2 aq rl => [encR (8#5 ++ bit aq ++ bit rl) rs2 rs1 3#3 rd 0x2F#7]
  | .csrrw rd rs1 csr => [encI csr rs1 1#3 rd 0x73#7]
  | .csrrs rd rs1 csr => [encI csr rs1 2#3 rd 0x73#7]
  | .csrrc rd rs1 csr => [encI csr rs1 3#3 rd 0x73#7]
  | .csrrwi rd uimm csr => [encI csr uimm 5#3 rd 0x73#7]
  | .csrrsi rd uimm csr => [encI csr uimm 6#3 rd 0x73#7]
  | .csrrci rd uimm csr => [encI csr uimm 7#3 rd 0x73#7]
  | .fenceI imm rs1 rd => [encI imm rs1 1#3 rd 0x0F#7]
  | .sfenceVma rs1 rs2 => [encR 9#7 rs2 rs1 0#3 0#5 0x73#7]
  | .amominW rd rs1 rs2 aq rl => [encR (16#5 ++ bit aq ++ bit rl) rs2 rs1 2#3 rd 0x2F#7]
  | .amominD rd rs1 rs2 aq rl => [encR (16#5 ++ bit aq ++ bit rl) rs2 rs1 3#3 rd 0x2F#7]
  | .amomaxW rd rs1 rs2 aq rl => [encR (20#5 ++ bit aq ++ bit rl) rs2 rs1 2#3 rd 0x2F#7]
  | .amomaxD rd rs1 rs2 aq rl => [encR (20#5 ++ bit aq ++ bit rl) rs2 rs1 3#3 rd 0x2F#7]
  | .amominuW rd rs1 rs2 aq rl => [encR (24#5 ++ bit aq ++ bit rl) rs2 rs1 2#3 rd 0x2F#7]
  | .amominuD rd rs1 rs2 aq rl => [encR (24#5 ++ bit aq ++ bit rl) rs2 rs1 3#3 rd 0x2F#7]
  | .amomaxuW rd rs1 rs2 aq rl => [encR (28#5 ++ bit aq ++ bit rl) rs2 rs1 2#3 rd 0x2F#7]
  | .amomaxuD rd rs1 rs2 aq rl => [encR (28#5 ++ bit aq ++ bit rl) rs2 rs1 3#3 rd 0x2F#7]
  | .hfenceVvma rs1 rs2 => [encR 17#7 rs2 rs1 0#3 0#5 0x73#7]
  | .hfenceGvma rs1 rs2 => [encR 49#7 rs2 rs1 0#3 0#5 0x73#7]
  | .hlvB rd rs1 => [encR 48#7 0#5 rs1 4#3 rd 0x73#7]
  | .hlvBu rd rs1 => [encR 48#7 1#5 rs1 4#3 rd 0x73#7]
  | .hlvH rd rs1 => [encR 50#7 0#5 rs1 4#3 rd 0x73#7]
  | .hlvHu rd rs1 => [encR 50#7 1#5 rs1 4#3 rd 0x73#7]
  | .hlvW rd rs1 => [encR 52#7 0#5 rs1 4#3 rd 0x73#7]
  | .hlvWu rd rs1 => [encR 52#7 1#5 rs1 4#3 rd 0x73#7]
  | .hlvD rd rs1 => [encR 54#7 0#5 rs1 4#3 rd 0x73#7]
  | .hlvxHu rd rs1 => [encR 50#7 3#5 rs1 4#3 rd 0x73#7]
  | .hlvxWu rd rs1 => [encR 52#7 3#5 rs1 4#3 rd 0x73#7]
  | .hsvB rs1 rs2 => [encR 49#7 rs2 rs1 4#3 0#5 0x73#7]
  | .hsvH rs1 rs2 => [encR 51#7 rs2 rs1 4#3 0#5 0x73#7]
  | .hsvW rs1 rs2 => [encR 53#7 rs2 rs1 4#3 0#5 0x73#7]
  | .hsvD rs1 rs2 => [encR 55#7 rs2 rs1 4#3 0#5 0x73#7]
  | .exit  => [0x0000305B#32]
  | .exitPark  => [0x0010305B#32]
  | .yield  => [0x0200305B#32]
  | .texit  => [0x0200505B#32]
  | .ecall  => [0x00000073#32]
  | .ebreak  => [0x00100073#32]
  | .pause  => [0x0100000F#32]
  | .sret  => [0x10200073#32]
  | .mret  => [0x30200073#32]
  | .wfi  => [0x10500073#32]
  | .iadd f => laneWordList (encLaneL f 0x00#8)
  | .iaddJ f => laneWordList (encLaneJ f 0x80#8)
  | .isub f => laneWordList (encLaneL f 0x01#8)
  | .isubJ f => laneWordList (encLaneJ f 0x81#8)
  | .imul f => laneWordList (encLaneL f 0x02#8)
  | .imulJ f => laneWordList (encLaneJ f 0x82#8)
  | .imulh f => laneWordList (encLaneL f 0x03#8)
  | .imulhJ f => laneWordList (encLaneJ f 0x83#8)
  | .imad f => laneWordList (encLaneL f 0x04#8)
  | .imin f => laneWordList (encLaneL f 0x05#8)
  | .iminJ f => laneWordList (encLaneJ f 0x85#8)
  | .imax f => laneWordList (encLaneL f 0x06#8)
  | .imaxJ f => laneWordList (encLaneJ f 0x86#8)
  | .iabs f => laneWordList (encLaneL f 0x07#8)
  | .shl f => laneWordList (encLaneL f 0x08#8)
  | .shlJ f => laneWordList (encLaneJ f 0x88#8)
  | .shr f => laneWordList (encLaneL f 0x09#8)
  | .shrJ f => laneWordList (encLaneJ f 0x89#8)
  | .sar f => laneWordList (encLaneL f 0x0A#8)
  | .sarJ f => laneWordList (encLaneJ f 0x8A#8)
  | .laneAnd f => laneWordList (encLaneL f 0x0B#8)
  | .laneAndJ f => laneWordList (encLaneJ f 0x8B#8)
  | .laneOr f => laneWordList (encLaneL f 0x0C#8)
  | .laneOrJ f => laneWordList (encLaneJ f 0x8C#8)
  | .laneXor f => laneWordList (encLaneL f 0x0D#8)
  | .laneXorJ f => laneWordList (encLaneJ f 0x8D#8)
  | .lop3 f => laneWordList (encLaneL f 0x0E#8)
  | .popc f => laneWordList (encLaneL f 0x0F#8)
  | .clz f => laneWordList (encLaneL f 0x10#8)
  | .bfe f => laneWordList (encLaneL f 0x11#8)
  | .bfi f => laneWordList (encLaneL f 0x12#8)
  | .fadd f => laneWordList (encLaneL f 0x20#8)
  | .faddJ f => laneWordList (encLaneJ f 0xA0#8)
  | .fsub f => laneWordList (encLaneL f 0x21#8)
  | .fsubJ f => laneWordList (encLaneJ f 0xA1#8)
  | .fmul f => laneWordList (encLaneL f 0x22#8)
  | .fmulJ f => laneWordList (encLaneJ f 0xA2#8)
  | .ffma f => laneWordList (encLaneL f 0x23#8)
  | .fmin f => laneWordList (encLaneL f 0x24#8)
  | .fminJ f => laneWordList (encLaneJ f 0xA4#8)
  | .fmax f => laneWordList (encLaneL f 0x25#8)
  | .fmaxJ f => laneWordList (encLaneJ f 0xA5#8)
  | .frcp f => laneWordList (encLaneL f 0x26#8)
  | .frsq f => laneWordList (encLaneL f 0x27#8)
  | .fex2 f => laneWordList (encLaneL f 0x28#8)
  | .flg2 f => laneWordList (encLaneL f 0x29#8)
  | .cvt f => laneWordList (encLaneL f 0x30#8)
  | .qnt f => laneWordList (encLaneL f 0x31#8)
  | .dqt f => laneWordList (encLaneL f 0x32#8)
  | .icmp f => laneWordList (encLaneL f 0x38#8)
  | .icmpJ f => laneWordList (encLaneJ f 0xB8#8)
  | .fcmp f => laneWordList (encLaneL f 0x39#8)
  | .fcmpJ f => laneWordList (encLaneJ f 0xB9#8)
  | .sel f => laneWordList (encLaneL f 0x3A#8)
  | .mov f => laneWordList (encLaneL f 0x40#8)
  | .movi f => laneWordList (encLaneJ f 0xC0#8)
  | .shfl f => laneWordList (encLaneL f 0x41#8)
  | .bcst f => laneWordList (encLaneL f 0x42#8)
  | .lred f => laneWordList (encLaneL f 0x43#8)
  | .lscan f => laneWordList (encLaneL f 0x44#8)
  | .disp f => laneWordList (encLaneL f 0x45#8)
  | .nop f => laneWordList (encLaneL f 0x78#8)
  | .laneLd f => laneWordList (encLaneL f 0x50#8)
  | .laneLdJ f => laneWordList (encLaneJ f 0xD0#8)
  | .laneSt f => laneWordList (encLaneL f 0x51#8)
  | .laneStJ f => laneWordList (encLaneJ f 0xD1#8)
  | .lds f => laneWordList (encLaneL f 0x52#8)
  | .ldsJ f => laneWordList (encLaneJ f 0xD2#8)
  | .sts f => laneWordList (encLaneL f 0x53#8)
  | .stsJ f => laneWordList (encLaneJ f 0xD3#8)
  | .laneLdfe f => laneWordList (encLaneL f 0x54#8)
  | .laneLdfeJ f => laneWordList (encLaneJ f 0xD4#8)
  | .laneLdff f => laneWordList (encLaneL f 0x55#8)
  | .laneLdffJ f => laneWordList (encLaneJ f 0xD5#8)
  | .laneStef f => laneWordList (encLaneL f 0x56#8)
  | .laneStefJ f => laneWordList (encLaneJ f 0xD6#8)
  | .laneStff f => laneWordList (encLaneL f 0x57#8)
  | .laneStffJ f => laneWordList (encLaneJ f 0xD7#8)
  | .pfetch f => laneWordList (encLaneL f 0x58#8)
  | .pfetchJ f => laneWordList (encLaneJ f 0xD8#8)
  | .amo f => laneWordList (encLaneL f 0x60#8)
  | .red f => laneWordList (encLaneL f 0x61#8)
  | .mma f => laneWordList (encLaneL f 0x68#8)
  | .accld f => laneWordList (encLaneL f 0x69#8)
  | .accrd f => laneWordList (encLaneL f 0x6A#8)
  | .accst f => laneWordList (encLaneL f 0x6B#8)
  | .ladd f => laneWordList (encLaneL f 0x70#8)
  | .lsub f => laneWordList (encLaneL f 0x71#8)
  | .lshl f => laneWordList (encLaneL f 0x72#8)
  | .lshr f => laneWordList (encLaneL f 0x73#8)
  | .lmac f => laneWordList (encLaneL f 0x74#8)
  | .lcmp f => laneWordList (encLaneL f 0x75#8)
  | .powerOn | .bringupStage .. | .recover | .bootGroupAdmit .. | .registerWrite .. | .mspWrite .. => []
  | .timerExpire .. | .imsicMessage .. | .trapEntry .. | .issuePick .. | .starvationBoost .. | .yieldExpire .. => []
  | .laneResultWrite .. | .admissionDecision .. | .easelRefill .. | .exitDrainDone .. | .workgroupRelease .. | .joinSatisfied .. => []
  | .launchCheck .. | .launchInitialPlacement .. | .launchComplete .. | .taskletArrive .. | .rotationSlotRefill .. | .runQueueRefill .. => []
  | .taskletMigrate .. | .lateReplyForward .. | .taskletTrap .. | .mboxHeaderWrite .. | .redUpdateExecute .. | .homeAccess .. => []
  | .feBounce .. | .feResend .. | .feWithdrawal .. | .lrwGrant .. | .lrwWaitRetry .. | .reservationRevoke .. => []
  | .lrHoldExpire .. | .recall .. | .leaseRenewalReply .. | .leaseSweep .. | .pageWalkComplete .. | .streamerRound .. => []
  | .copyOwnership .. | .copyFaultMessage .. | .copyComplete .. | .copyResume .. | .copyDiscard .. | .accstStoreFault .. => []
  | .accstStoresAcked .. | .park .. | .parkAndHold .. | .releaseHold .. | .terminate .. | .preemptGraceExpire .. => []
  | .energyMeterReport .. | .energyWindowStart | .thermalLimit .. | .thermalClear | .eolUpdate .. | .partitionCreate .. => []
  | .partitionFree .. | .partitionReset .. | .partitionResetFlush .. | .partitionResetComplete .. | .free .. | .flushl2 .. => []
  | .extend .. | .gessoInitComplete .. | .glazeStart .. | .glazePassStart .. | .glazeVisit .. | .varnishLoad .. => []
  | .varnishRevoke .. | .kdataRead .. | .kdataWrite .. | .ktrcWrite .. | .ksktWrite .. | .kstopStop .. => []
  | .debugStopTake .. | .kstopRelease .. | .sketchPulse | .mailboxHostWrite .. | .mailboxHostTake .. | .hostMemAccess .. => []
  | .farWriteReceive .. | .vfBindingWrite .. | .lockInterfaceRequest .. | .startInterfaceRequest .. | .stopInterfaceRequest .. | .getDeviceInterfaceReport .. => []
  | .getDeviceInterfaceState .. | .functionLevelReset .. | .ideStreamFailure .. | .getVersion .. | .getCapabilities .. | .negotiateAlgorithms .. => []
  | .getDigests .. | .getCertificate .. | .challenge .. | .getMeasurements .. | .keyExchange .. | .finish .. => []
  | .endSession .. | .vendorDefinedRequest .. | .unsupportedRequest .. | .farWriteAcknowledgement .. => []

/-- Whether an instruction belongs to the lane stream. -/
def Instr.isLane (i : Instr) : Bool := (encode i).length == 3

/-- The instruction our decoder reads from the words of either stream: one word of the scalar stream, three of the lane
stream. -/
noncomputable def decodeWords : List (BitVec 32) → Except DecodeError Instr
  | [w] => decodeScalar w
  | [a, b, c] => decodeLane (c ++ b ++ a)
  | _ => .error .absentOpcode

/-- The opcode table's numbering: bit 0 is the least significant bit of the first word, and a later word's bits count on. -/
noncomputable def decodeTableWord (nbits w : Nat) : Option Instr :=
  if nbits ≤ 32 then (decodeScalar (BitVec.ofNat 32 w)).toOption else (decodeLane (BitVec.ofNat 96 w)).toOption

end Sys2Proof
end

