-- ==== Sys2Proof/Machine/Table.lean ====
section
/-! DEFINITION. Sparse tables as sorted lists of key and value, in one canonical form: keys strictly rising and, for a table
of values with a default, no entry equal to it. Memory and every indexed part of the state are such lists. -/
namespace Sys2Proof.Machine

/-- A sparse table: keys strictly rising. -/
abbrev Table (α : Type) := List (Nat × α)

section Ops
variable {α : Type}

/-- The value at key `k`, `d` where none is listed. -/
def tget (d : α) : Table α → Nat → α
  | [], _ => d
  | (j, a) :: r, k => if j = k then a else tget d r k

/-- The value at key `k`, if one is listed. -/
def tfind : Table α → Nat → Option α
  | [], _ => none
  | (j, a) :: r, k => if j = k then some a else tfind r k

/-- Lists `a` at key `k`. -/
def tput : Table α → Nat → α → Table α
  | [], k, a => [(k, a)]
  | (j, b) :: r, k, a =>
    if k < j then (k, a) :: (j, b) :: r else if k = j then (k, a) :: r else (j, b) :: tput r k a

/-- Lists nothing at key `k`. -/
def tdel : Table α → Nat → Table α
  | [], _ => []
  | (j, b) :: r, k => if j = k then tdel r k else (j, b) :: tdel r k

/-- Writes `a` at key `k` of a table whose unlisted keys read `d`: writing `d` removes the entry. -/
def tset [DecidableEq α] (d : α) (t : Table α) (k : Nat) (a : α) : Table α :=
  if a = d then tdel t k else tput t k a

/-- The canonical form: keys strictly rising and no value equal to `d`. -/
def twf [DecidableEq α] (d : α) : Table α → Bool
  | [] => true
  | [(_, a)] => a != d
  | (j, a) :: (k, b) :: r => a != d && decide (j < k) && twf d ((k, b) :: r)

/-- Only the entries whose keys pass. -/
def tfilter (p : Nat → Bool) (t : Table α) : Table α := t.filter (fun e => p e.1)

/-- Every listed value changed by a function of its key. -/
def tmap (f : Nat → α → α) (t : Table α) : Table α := t.map (fun e => (e.1, f e.1 e.2))

end Ops

/-- `l` with its `i`-th element taken out. -/
def eraseAt {α : Type} (l : List α) (i : Nat) : List α := l.take i ++ l.drop (i + 1)

/-- `l` without the first `n` of its elements that pass. -/
def dropFirst {α : Type} (p : α → Bool) : Nat → List α → List α
  | 0, l => l
  | _, [] => []
  | n + 1, a :: r => if p a then dropFirst p n r else a :: dropFirst p (n + 1) r

/-- `l` with its `i`-th element changed. -/
def modAt {α : Type} (l : List α) (i : Nat) (f : α → α) : List α :=
  (l.take i) ++ (match l.drop i with | [] => [] | a :: r => f a :: r)

end Sys2Proof.Machine
end

