-- ==== Sys2Proof/Machine/State.lean ====
section
/-! DEFINITION. The state of the package as plain data, the reasons a step can stop, and the state at power-on. Every part
names the rule of spec/ that gives it; INVENTORY.md lists them with their reset values. -/
namespace Sys2Proof.Machine

/-- Privilege modes with the virtualization bit beside them (12 R266). -/
inductive Priv where
  | u
  | s
  | m
  deriving DecidableEq, Repr

/-- Run states of a group slot, codes 0 to 6 in this order (01 R18). -/
inductive Run where
  | empty
  | fetch
  | ready
  | waitDep
  | waitSync
  | stopped
  | exited
  deriving DecidableEq, Repr

/-- Where an access goes (04 R86, R90; 14 R308). -/
inductive Loc where
  /-- physical address of local main memory -/
  | mem (pa : Nat)
  /-- offset in the remote scratch window: tile, bank and byte (04 R90) -/
  | win (off : Nat)
  /-- mailbox byte: (function × 64 + slot) × 4 + byte -/
  | mbox (b : Nat)
  /-- interrupt file region offset -/
  | irq (off : Nat)
  /-- partition control pages offset -/
  | ctl (off : Nat)
  /-- host memory address -/
  | host (a : Nat)
  /-- far address: package and address there -/
  | far (pkg a : Nat)
  deriving DecidableEq, Repr

/-- What a waiting agent waits for (01 R18, R34). -/
inductive WaitOn where
  | nothing
  /-- JOIN on the join word at this virtual address (06 R158) -/
  | join (va : DWord)
  /-- BAR.WAIT for the phase bit of barrier k to leave this value (07 R176) -/
  | bar (k : Nat) (phase : Bool)
  /-- GBAR.WAIT likewise on wire barrier k -/
  | gbar (k : Nat) (phase : Bool)
  /-- a full-empty access parked or bounced (04 R91, 07 R167) -/
  | fullEmpty
  /-- a lane full-empty instruction with lanes outstanding (09 R226) -/
  | laneFullEmpty
  /-- a place in a bank reservation queue (07 R172) -/
  | lrw
  /-- a LAUNCH in its partition's sequencer; its destination register (06 R152) -/
  | launch (rd : Reg)
  /-- a LAUNCH whose checks passed and whose workgroups are being placed (13 R295) -/
  | placing (l : Nat) (rd : Reg)
  /-- a CPY whose copy k has not yet taken ownership (07 R182) -/
  | copyOwn (k : Nat)
  /-- an LRUN waiting for this many lane queue entries (06 R144) -/
  | laneSpace (n : Nat)
  /-- the agent's earlier writes, or those its acquires obtained, which have not all entered home order (04 R105) -/
  | writes
  /-- an access held at its place: that of n bytes at l, a write or a read (04 R106; 14 R318, R321) -/
  | place (l : Loc) (n : Nat) (write : Bool)
  /-- a CPY at a full streamer queue (07 R182; 13 R305) -/
  | copyQueue
  /-- room at a home core's run queues for a tasklet sent there (06 R162; 13 R302) -/
  | room (home : Nat)
  /-- an accumulator tile that is PINNED (07 R188; 02 R50) -/
  | tile (n : Nat)
  /-- WFI (12 R279) -/
  | wfi
  /-- EXIT or EXIT park draining (06 R159) -/
  | exit (park : Bool)
  /-- a member of a terminated workgroup draining (01 R23) -/
  | drain
  /-- a translation fence whose covered writes have not all been performed (14 R317) -/
  | fence
  deriving DecidableEq, Repr

/-- A trap about to be taken: an exception cause or interrupt number, stval, the guest-physical address of a guest-page
fault, htinst, and the lane record of 09 R219–R222. -/
structure Trap where
  cause : Nat := 0
  intr : Bool := false
  tval : DWord := 0
  gpa : DWord := 0
  /-- tval is a guest virtual address -/
  gva : Bool := false
  inst : DWord := 0
  lane : Option Nat := none
  detail : Option Nat := none
  stm : Option Mask := none
  deriving DecidableEq, Repr

/-- A lane instruction in the lane queue with its captured x operands (06 R144). -/
structure LaneEntry where
  word : BitVec 96 := 0
  /-- x values captured for SA, SB and SC -/
  capA : DWord := 0
  capB : DWord := 0
  capC : DWord := 0
  lpc : DWord := 0
  /-- pc of the LRUN or LRUNR that appended it -/
  pc : DWord := 0
  /-- instructions of its batch from this one to the end -/
  rem : Nat := 0
  /-- lanes a resume must not perform again, that this entry is such a resume, and whether the VS copies hold its record
  (09 R221; 12 R270) -/
  skip : Mask := 0
  resumed : Bool := false
  resVs : Bool := false
  /-- the count of the LRUNR that appended it, which the trace reports when that retires (16 R370) -/
  cnt : Option Nat := none
  /-- the fetch of this entry faulted (06 R145) -/
  bad : Option Trap := none
  deriving DecidableEq, Repr

/-- A result of an issued lane instruction that has not been written yet (05 R137). -/
structure Pending where
  /-- scoreboarded (true) or of fixed latency -/
  board : Bool := false
  /-- already written; kept while its issue distance still matters to STCHK -/
  landed : Bool := false
  /-- the registers it writes: v numbers, and 1,024 + n for mask n -/
  wr : List Nat := []
  latency : Nat := 0
  /-- clk at which a fixed-latency result is written -/
  due : Nat := 0
  /-- issue distance from the producer so far -/
  dist : Nat := 0
  /-- vector register words: register number, lane, value -/
  vs : List (Nat × Nat × Word) := []
  /-- a mask register, the lanes written and their bits -/
  mask : Option (Nat × Mask × Mask) := none
  /-- a scalar register written by LRED or DISP (08 R194) -/
  x : Option (Reg × DWord) := none
  /-- flags accrued into LFFLAGS (03 R66) -/
  flags : BitVec 5 := 0
  deriving DecidableEq, Repr

/-- A cached S copy of a line (14 R323); `holder` is tile × 16 + sub-core for a hart cache, tile × 16 + 8 for L1. -/
structure SCopy where
  holder : Nat := 0
  line : Nat := 0
  words : List Word := []
  grant : BitVec 16 := 0
  expiry : BitVec 16 := 0
  vers : List (BitVec 8) := []
  deriving DecidableEq, Repr

/-- A consuming load and what followed it up to the next one: the state of the group before it (14 R326). -/
structure Spec where
  v : Table Word := []
  m : Table Mask := []
  pend : List Pending := []
  lfflags : DWord := 0
  /-- the load and its followers, oldest first -/
  issued : List LaneEntry := []
  /-- the copies it consumed whose renewals have not returned, and whether one that returned did not match (14 R325) -/
  lines : List SCopy := []
  mismatch : Bool := false
  deriving DecidableEq, Repr

/-- An interrupt file of the IMSIC subset (12 R278). -/
structure IrqFile where
  delivery : DWord := 0
  threshold : DWord := 0
  eip : BitVec 64 := 0
  eie : BitVec 64 := 0
  deriving DecidableEq, Repr

/-- A failed ACCST awaiting its trap: element address, lane, kind and tile name (09 R240). -/
structure AccFail where
  addr : DWord := 0
  lane : Nat := 0
  kind : Nat := 0
  name : Nat := 0
  deriving DecidableEq, Repr

/-- Where a tasklet is (01 R34). -/
inductive Place where
  | flight (tile : Nat)
  | hwQueue (tile : Nat)
  | memQueue (tile : Nat)
  | slot (tile slot : Nat)
  deriving DecidableEq, Repr

/-- A lane full-empty instruction in progress (09 R226). -/
structure LaneFe where
  entry : LaneEntry := {}
  todo : Mask := 0
  done : Mask := 0
  vals : List (Nat × Word) := []
  vd : Nat := 0
  load : Bool := false
  deriving DecidableEq, Repr

/-- A load that a tasklet has left outstanding (01 R36): its register, what it reads, the home core its reply is at, and the value
once it has been read. -/
structure PendLoad where
  rd : Reg := 0
  loc : Loc := .mem 0
  size : Nat := 8
  signed : Bool := false
  tile : Nat := 0
  value : Option DWord := none
  deriving DecidableEq, Repr

/-- A group or a tasklet: the scalar and lane state of one agent (02; 12 R266–R278; 01 R33). Tasklets use pc, x1–x10 and
PW only. -/
structure Hart where
  tasklet : Bool := false
  run : Run := .empty
  prior : Run := .ready
  wait : WaitOn := .nothing
  -- identity and placement (02 R59)
  tile : Nat := 0
  slot : Nat := 0
  wg : Nat := 0
  rank : Nat := 0
  lkey : Nat := 0
  pid : Nat := 15
  -- scalar state (02 R42)
  pc : DWord := 0
  x : Table DWord := []
  priv : Priv := .m
  virt : Bool := false
  csr : Table DWord := []
  instret : DWord := 0
  irqS : IrqFile := {}
  irqG : IrqFile := {}
  -- lane state (02 R44–R50)
  lpc : DWord := 0
  vcnt : Nat := 32
  v : Table Word := []
  em : Mask := BitVec.allOnes 128
  m : Table Mask := []
  msp : Nat := 0
  mstk : Table Mask := []
  limbs : Nat := 0
  accQuota : Nat := 0
  accState : Table Nat := []
  acc : Table Word := []
  -- lane issue (05 R137, 06 R143)
  laneQ : List LaneEntry := []
  iss : LaneEntry := {}
  pend : List Pending := []
  /-- earliest clk of its next lane issue (05 R137) -/
  nextLane : Nat := 0
  /-- its consuming loads whose renewals are outstanding, and what each has issued since, oldest first (14 R326) -/
  spec : List Spec := []
  /-- what holds the lane instruction it has issued last, which is under way (13 R299) -/
  laneWait : WaitOn := .nothing
  laneFe : Option LaneFe := none
  -- synchronisation
  av : Bool := false
  acqTick : BitVec 16 := 0
  preempt : Bool := false
  accFails : List AccFail := []
  /-- 0 running, 1 ended by EXIT, 2 by EXIT park -/
  ended : Nat := 0
  -- issue ranking (13 R299–R301)
  prio : Nat := 0
  sweight : Nat := 1
  starve : Nat := 0
  boost : Option Nat := none
  yieldTo : Option Nat := none
  yieldFor : List Nat := []
  ylMark : Bool := false
  pauseTo : Nat := 0
  /-- bounces of a refused LRW so far (07 R172) -/
  bounces : Nat := 0
  stopReq : Bool := false
  /-- addresses of its posted stores that met a poisoned granule at their homes, not yet taken (15 R342) -/
  lateFaults : List DWord := []
  /-- an indivisible instruction is under way (06 R165) -/
  indiv : Bool := false
  -- tasklet (01 R33–R36)
  creatorTile : Nat := 0
  creatorSlot : Nat := 0
  reply : Option DWord := none
  place : Place := .flight 0
  migrateTo : Option Nat := none
  loads : List PendLoad := []
  deriving DecidableEq, Repr

/-- A workgroup or wire barrier (02 R53). For a wire barrier `copies` is unused. -/
structure Bar where
  expected : Nat := 1
  arrived : Nat := 0
  phase : Bool := false
  copies : Nat := 0
  /-- wire barriers: groups of each workgroup that arrived in this phase -/
  groups : Table Nat := []
  deriving DecidableEq, Repr

/-- A kernel metadata record (17 R388). -/
structure Kernel where
  sentry : DWord := 0
  lentry : DWord := 0
  vcnt : Nat := 32
  groups : Nat := 1
  scratch : Nat := 0
  acc : Nat := 0
  wslots : BitVec 8 := 0
  barriers : Nat := 0
  prio : Nat := 0
  sweight : Nat := 1
  pal : List DWord := []
  deriving DecidableEq, Repr

/-- A workgroup (01 R19). -/
structure Wg where
  lkey : Nat := 0
  pid : Nat := 15
  wgid : Nat := 0
  tile : Nat := 0
  size : Nat := 1
  kernel : Kernel := {}
  arg : DWord := 0
  joinWord : DWord := 0
  bankFirst : Nat := 0
  bankCount : Nat := 0
  bars : Table Bar := []
  nbars : Nat := 0
  /-- hart key of each rank; a member that has been parked or freed is not listed -/
  members : Table Nat := []
  /-- members that ended by plain EXIT, and by EXIT park (06 R160) -/
  endedPlain : Nat := 0
  endedPark : Nat := 0
  /-- parked members' harts, by rank -/
  saved : Table Hart := []
  parked : Bool := false
  parkSeq : Nat := 0
  held : Bool := false
  marked : Bool := false
  terminated : Bool := false
  deriving DecidableEq, Repr

/-- The trap record of a tasklet that ended, while the page it goes to is held (12 R288; 04 R106). -/
structure TrapRec where
  cause : Nat := 0
  pc : DWord := 0
  tval : DWord := 0
  tile : Nat := 0
  creatorTile : Nat := 0
  creatorSlot : Nat := 0
  pid : Nat := 15
  deriving DecidableEq, Repr

/-- A running launch (01 R24–R27; 06 R153; 12 R267). -/
structure Launch where
  pid : Nat := 15
  lid : Nat := 0
  colo : Nat := 0
  rowo : Nat := 0
  width : Nat := 1
  height : Nat := 1
  kernels : List Kernel := []
  kidx : Nat := 0
  p : Nat := 1
  l1cnt : Nat := 1
  arg : DWord := 0
  /-- completion word, supervisor mailbox word and copy command word, as placed by the checks of the LAUNCH (06 R153) -/
  compl : Loc := .mbox 0
  mbox : Loc := .mbox 0
  cmdw : Loc := .mbox 0
  sctx : DWord := 0
  ctxsz : Nat := 1
  gbars : Table Bar := []
  gbarn : Nat := 0
  /-- CSR values and HPART.PID captured from the issuer (12 R267) -/
  caps : Table DWord := []
  hpid : Nat := 15
  virt : Bool := false
  swbase : DWord := 0
  issuerWg : Nat := 0
  issuerLkey : Nat := 0
  wgidCtr : Nat := 0
  liveWgs : Nat := 0
  liveTasks : Nat := 0
  placed : Bool := false
  /-- complete; kept while headers wait for the MBOX word -/
  done : Bool := false
  ttrap : Bool := false
  cdisc : Bool := false
  splost : Bool := false
  jdrop : Bool := false
  term : Nat := 0
  /-- trap records not yet written, and tasklet trap headers waiting for the MBOX word with the order in which they came (12 R288; 07
  R184) -/
  records : List TrapRec := []
  headers : List (Nat × Word) := []
  deriving DecidableEq, Repr

/-- A workgroup descriptor in an easel (01 R28, R29); `ring` is its place in the spill ring while it is spilled. -/
structure EaselEntry where
  lkey : Nat := 0
  kidx : Nat := 0
  arg : DWord := 0
  joinWord : DWord := 0
  wgid : Nat := 0
  ring : Nat := 0
  deriving DecidableEq, Repr

/-- An easel: resident entries, bottom first, and spilled entries, bottom first, logically above them (01 R29). -/
structure Easel where
  resident : List EaselEntry := []
  spilled : List EaselEntry := []
  /-- next victim offset of this core's steal probes (13 R297) -/
  probe : Nat := 0
  deriving DecidableEq, Repr

/-- A LAUNCH in a partition's sequencer (13 R294). -/
structure SeqEntry where
  hart : Nat := 0
  desc : DWord := 0
  rd : Reg := 0
  deriving DecidableEq, Repr

/-- Read-modify-write operations of atomics and remote updates (09 R228; 05 R129). -/
inductive Rmw where
  | add
  | min
  | max
  | minu
  | maxu
  | and
  | or
  | xor
  | swap
  | cas
  | fadd
  deriving DecidableEq, Repr

/-- A write on its way to its home (04 R103, R105): a buffered store, a remote store, a far store or a RED. -/
structure Req where
  agent : Nat := 0
  loc : Loc := .mem 0
  size : Nat := 4
  data : DWord := 0
  /-- a remote update's operation (01 R37); none for a store -/
  red : Option Rmw := none
  lkey : Nat := 0
  pid : Nat := 15
  /-- an ACCST store of this tile name (09 R239) -/
  accName : Option Nat := none
  /-- page mode U, S or D: 2, 1 or 0 -/
  mode : Nat := 0
  /-- a remote update's order of arrival at its home core's update unit (13 R303); 0 while it travels -/
  arr : Nat := 0
  /-- tile it left from, and the hub channel it travels on outside its partition's rectangle (15 R335) -/
  src : Nat := 0
  hub : Option Nat := none
  /-- the lane instruction it is part of (09 R223); 0 for none -/
  group : Nat := 0
  /-- a remote update that the first of its instruction's updates of its location has gone before (09 R223) -/
  begun : Bool := false
  /-- a release of its agent, or of one that obtained it, has covered it; the agents whose acquires obtained it since (04 R99, R100) -/
  released : Bool := false
  covers : List Nat := []
  /-- virtual address of a store, which its late fault names (15 R342) -/
  va : DWord := 0
  /-- a CXL.mem read that waits at its home (04 R106; 18 R394) -/
  read : Bool := false
  /-- a set-full write of a mailbox slot (04 R111) -/
  full : Bool := false
  deriving DecidableEq, Repr

/-- Full-empty operations (04 R89). -/
inductive FeOp where
  | ldfe
  | ldff
  | stef
  | stff
  deriving DecidableEq, Repr

/-- A parked or bounced full-empty access (04 R91). -/
structure Park where
  agent : Nat := 0
  lane : Option Nat := none
  op : FeOp := .ldfe
  loc : Loc := .win 0
  va : DWord := 0
  data : Word := 0
  rd : Reg := 0
  /-- clk at which it parked, or at which it bounced -/
  since : Nat := 0
  bounced : Bool := false
  retries : Nat := 0
  deriving DecidableEq, Repr

/-- A place in a bank reservation queue (07 R172); for the holder `since` is the clk it became holder and `broken` records a
write by another agent to its span. -/
structure Resv where
  agent : Nat := 0
  addr : Nat := 0
  width : Nat := 4
  rd : Reg := 0
  since : Nat := 0
  retries : Nat := 0
  broken : Bool := false
  va : DWord := 0
  deriving DecidableEq, Repr

/-- A bank reservation queue, bound to one aligned dword (07 R172). -/
structure ResvQ where
  dword : Nat := 0
  holder : Option Resv := none
  waiters : List Resv := []
  deriving DecidableEq, Repr

/-- An LR reservation: a directory mark on a D page, an LR table entry otherwise (14 R321). -/
structure LrRes where
  hart : Nat := 0
  addr : Nat := 0
  size : Nat := 4
  clk : Nat := 0
  table : Bool := false
  deriving DecidableEq, Repr

/-- A cached translation (14 R315) and the leaf bits its checks use. `tile` is the core that holds it, 256 + c for cluster c's streamer,
512 + t for tile t's home core; the last two tag theirs by launch. -/
structure Tlb where
  tile : Nat := 0
  lkey : Nat := 0
  virt : Bool := false
  vmid : Nat := 0
  asid : Nat := 0
  glob : Bool := false
  /-- the access used the VS or S stage, the G-stage -/
  stage1 : Bool := false
  stage2 : Bool := false
  vpage : Nat := 0
  gpage : Nat := 0
  ppage : Nat := 0
  leaf1 : BitVec 64 := 0
  leaf2 : BitVec 64 := 0
  /-- levels of the leaves, 0 for 4 KiB to 3 for 512 GiB; the translation covers the smaller -/
  lvl1 : Nat := 0
  lvl2 : Nat := 0
  deriving DecidableEq, Repr

/-- A walk in flight (14 R316); an invalidation that reaches it keeps its result from being installed (14 R317). -/
structure Walk where
  entry : Tlb := {}
  /-- the non-leaf entries on its way, for the walk cache -/
  path : List Tlb := []
  killed : Bool := false
  deriving DecidableEq, Repr

/-- A streamer copy (07 R180–R186), keyed by cluster × 64 + queue entry. -/
structure Copy where
  /-- 0 CPY, 1 CPY.RS, 2 CPY.PF -/
  form : Nat := 0
  src : DWord := 0
  dst : DWord := 0
  shape : DWord := 0
  stride : DWord := 0
  wg : Nat := 0
  bar : Nat := 0
  hart : Nat := 0
  tile : Nat := 0
  lkey : Nat := 0
  pid : Nat := 15
  weight : Nat := 1
  seq : Nat := 0
  /-- the row being moved, the source bytes of it moved so far, and the rows whose destination is owned or written -/
  row : Nat := 0
  pos : Nat := 0
  ownRow : Nat := 0
  /-- destination bytes owned and not yet written: row, offset in the row, place, length (04 R106, 07 R182) -/
  segs : List (Nat × Nat × Loc × Nat) := []
  started : Bool := false
  pals : Table DWord := []
  parked : Bool := false
  cause : Nat := 0
  msgSent : Bool := false
  /-- order in which it parked (07 R184) -/
  parkSeq : Nat := 0
  deriving DecidableEq, Repr

/-- Weight slot of a sub-core, keyed (tile × 8 + sub-core) × 4 + slot (02 R51). Column j holds 128 integers along K, sixteen
block multipliers 2^e × m and poison flags, and a band scale (03 R82). -/
structure WSlot where
  owner : Nat := 0
  loaded : Bool := false
  fmt : Nat := 0
  ints : List (List Int) := []
  mults : List (List (Nat × Int)) := []
  poison : List (List Bool) := []
  bands : List (BitVec 16) := []
  deriving DecidableEq, Repr

/-- A home core's queues and slots (01 R34–R36). -/
structure Home where
  slots : Table Nat := []
  hwQ : List Nat := []
  memQ : List Nat := []
  /-- place in the memory ring of its head (13 R302) -/
  memHead : Nat := 0
  /-- forwarding entries: tasklet, tile it moved to, late replies still due -/
  fwd : List (Nat × Nat × Nat) := []
  deriving DecidableEq, Repr

/-- A pre-emption request in progress (12 R282–R285). -/
structure PReq where
  word : DWord := 0
  busy : Bool := false
  result : Nat := 0
  count : Nat := 0
  since : Nat := 0
  deriving DecidableEq, Repr

/-- A key slot's keys (15 R343). -/
structure KeyPair where
  data : BitVec 256
  tag : BitVec 256
  deriving DecidableEq, Repr

/-- A line of an L2 slice (15 R339): its main-memory line number and the partition that allocated it. Its content is the home's (00
R5), and what is written to it is written through (15 R348; notes/assumptions/64). -/
structure L2Line where
  line : Nat := 0
  part : Nat := 15
  deriving DecidableEq, Repr

/-- A partition's registers and keys (15; 16 R364; 13; 12 R282–R288). -/
structure Part where
  valid : Bool := false
  resetting : Bool := false
  freeing : Bool := false
  refused : Bool := false
  resetClk : Nat := 0
  flushed : Bool := false
  rect : BitVec 32 := 0
  /-- MPARTWAYS, and its value in force for allocations of this clk (15 R340) -/
  ways : DWord := BitVec.allOnes 64
  waysNow : DWord := BitVec.allOnes 64
  keyOperand : BitVec 39 := 0
  keyCmd : BitVec 4 := 0
  keyResult : BitVec 3 := 0
  pass : Bool := false
  kv : Bool := false
  passes : BitVec 32 := 0
  passStart : Nat := 0
  keyBusy : Bool := false
  keySlot0 : Option KeyPair := none
  keySlot1 : Option KeyPair := none
  varnBase : DWord := 0
  varnResult : BitVec 3 := 0
  varnCmd : BitVec 4 := 0
  varnKey : Option (List Byte) := none
  varnSeq : DWord := 0
  varnInForce : Bool := false
  varnBusy : Bool := false
  /-- the grant bytes in force, and those of the table loaded or revoked in this clk (16 R364) -/
  grants : Table (BitVec 8) := []
  grantsNext : Table (BitVec 8) := []
  routeCfg : DWord := 0
  gmax : BitVec 4 := 8
  pceil : Nat := 3
  swcap : Nat := 16
  allow : Word := 0xFFFFFFFF
  used : Nat := 0
  /-- the allowance was spent when this clk began (13 R307) -/
  spent : Bool := false
  spillBase : DWord := 0
  spillLen : Nat := 0
  hmbox : DWord := 0
  preempt : PReq := {}
  /-- PCOH.LEASE, and the length of leases granted in this clk (14 R310) -/
  lease : Nat := 64
  leaseNow : Nat := 64
  lidCtr : Nat := 1
  seqQ : List SeqEntry := []
  deriving DecidableEq, Repr

/-- The traced events (16 R370). -/
inductive TraceEv where
  | br (taken : Bool)
  | ind (target : DWord)
  | mask (em : Mask)
  | lpc (v : DWord)
  | cnt (n : Nat)
  | mark (n : Nat)
  | trap (intr : Bool) (cause : Nat) (tval : DWord)
  | exit (arg : Nat)
  deriving DecidableEq, Repr

/-- An event of this clk on its way to the trace rings: tile and slot byte of its source, the source's partition and pc. -/
structure Traced where
  tile : Nat := 0
  slot : Nat := 0
  part : Nat := 15
  pc : DWord := 0
  ev : TraceEv
  deriving DecidableEq, Repr

/-- A trace ring's stream (16 R372, R373). -/
structure Stream where
  opened : Bool := false
  syncTime : Nat := 0
  sinceSync : Nat := 0
  lastTime : Nat := 0
  lastSrc : Option (Nat × Nat) := none
  loss : Bool := false
  lost : Nat := 0
  /-- sketch ring: a record was dropped since the last one written (16 R367) -/
  drop : Bool := false
  deriving DecidableEq, Repr

/-- A Kiwiow register block (16 R360). -/
structure Kiwiow where
  trc : DWord := 0
  trcWr : Word := 0
  trcRd : Word := 0
  skt : DWord := 0
  sktWr : Word := 0
  sktRd : Word := 0
  sel : DWord := 0
  stop : DWord := 0
  stopBusy : Bool := false
  stopResult : BitVec 3 := 0
  stat : DWord := 0
  stream : Stream := {}
  deriving DecidableEq, Repr

/-- TDISP states, codes 0 to 3 in this order (15 R353). -/
inductive TState where
  | unlocked
  | locked
  | run
  | error
  deriving DecidableEq, Repr

/-- A virtual function (15 R353, R354). -/
structure Vf where
  en : Bool := false
  tstate : TState := .unlocked
  pid : Nat := 0
  mlen : Nat := 0
  mbase : Nat := 0
  deriving DecidableEq, Repr

/-- A far-table entry (18 R396). -/
structure FarEntry where
  valid : Bool := false
  part : Nat := 0
  port : Nat := 0
  deriving DecidableEq, Repr

/-- Algorithms that Iawick negotiates (15 R356). -/
inductive SpdmAlg where
  | baseHashSha3
  | measHashSha3
  | extAsymMldsa44
  | dheSecp384r1
  | aeadAes256Gcm
  deriving DecidableEq, Repr

/-- Iawick's SPDM connection (15 R358). -/
structure Spdm where
  versionDone : Bool := false
  capsDone : Bool := false
  algsDone : Bool := false
  certDone : Bool := false
  session : Bool := false
  keyExchanged : Bool := false
  /-- what NEGOTIATE_ALGORITHMS has chosen -/
  algs : List SpdmAlg := []
  /-- the messages of the running transcript, requests and responses, oldest first: the exchanges of version, capabilities, algorithms, digests
  and certificate, and apart from them the measurement requests since the last signed one -/
  transcript : List (List Byte) := []
  measured : List (List Byte) := []
  deriving DecidableEq, Repr

/-- What the package last answered to the outside (model's own record of replies). -/
inductive Reply where
  | none
  /-- a value read from a register or from memory -/
  | value (v : DWord)
  /-- a CXL.mem read that returned poison (15 R354) -/
  | poison
  /-- an SPDM response code, with its payload bytes -/
  | spdm (code : BitVec 8) (payload : List Byte)
  /-- an SPDM ERROR with its error code -/
  | spdmError (code : BitVec 8)
  /-- TDISP report: binding register, rectangle, measurement register -/
  | tdisp (bind : DWord) (rect : BitVec 32) (meas : List Byte)
  /-- TDISP error INVALID_INTERFACE_STATE -/
  | tdispError
  /-- a far write performed or refused for its sender -/
  | farWrite (performed : Bool)
  deriving DecidableEq, Repr

/-- A write that left for another package (18 R396). -/
structure FarWrite where
  req : Req := {}
  port : Nat := 0
  part : Nat := 0
  /-- the copy that sent it and its row; none for a store -/
  copy : Option (Nat × Nat) := none
  deriving DecidableEq, Repr

/-- Firmware in flash, as bring-up reads it (18 R397): entry, version, whether its signature verifies, and its bytes. -/
structure Flash where
  entry : DWord := 0
  version : Word := 0
  valid : Bool := true
  image : List (Nat × Byte) := []
  deriving DecidableEq, Repr

/-- The hub's registers (18 R392–R400; 15 R357; 12 R269). -/
structure Hub where
  powered : Bool := false
  ready : Bool := false
  recov : Bool := false
  therm : Bool := false
  hotDies : List Nat := []
  fwerr : BitVec 8 := 0
  stage : Nat := 0
  imgver : Word := 0
  /-- PFCTL.PKG, and the number in force for packets sent in this clk (18 R393) -/
  pkg : BitVec 8 := 0
  pkgNow : BitVec 8 := 0
  recBase : DWord := 0
  recLen : Word := 0
  flash : Flash := {}
  hostImage : Flash := {}
  eolPredict : Table Word := []
  eolHours : Table Word := []
  far : Table FarEntry := []
  meas : Table (List Byte) := []
  spdm : Spdm := {}
  reply : Reply := .none
  kpulse : Word := 0
  -- machine CSRs held once for the package (15 R331, R349; 12 R269)
  partSel : BitVec 4 := 15
  glazeEn : Bool := true
  glazeChan : BitVec 8 := 0
  boot : DWord := 0xF0200000#64
  bootResult : BitVec 3 := 0
  bootPc : DWord := 0
  bootArg : DWord := 0
  energyWindows : Nat := 0
  deriving DecidableEq, Repr

/-- A turn that an issue pick grants (13 R299). -/
inductive Turn where
  | scalar (h : Nat)
  | lane (h : Nat)
  deriving DecidableEq, Repr

/-- Memories and everything that stands between an access and them. -/
structure Mem where
  /-- local main memory; an unlisted address reads 0 -/
  bytes : List Host.Cell := []
  /-- chunks whose gesso bit is clear (15 R344) -/
  open_ : Table Bool := []
  /-- chunks being zero-initialised (15 R344) -/
  inits : Table Bool := []
  /-- granules stored under key version 1; the stored integrity tag of a granule against the tag of its content, as their exclusive or;
  poisoned granules (15 R341, R342) -/
  ver1 : Table Bool := []
  tagXor : Table Word := []
  poison : Table Bool := []
  frontier : Table Nat := []
  tagErr : Table Nat := []
  /-- L2 lines, keyed (slice × 16,384 + set) × 16 + way, and lines evicted whose recalls are not complete (14 R320; 15 R339) -/
  l2 : Table L2Line := []
  recalls : List Nat := []
  /-- scratchpads, keyed by window offset; an unlisted byte reads 0 -/
  scratch : List Host.Cell := []
  /-- scratchpad words whose full-empty bit is empty, keyed by window offset / 4 -/
  empty : Table Bool := []
  /-- mailbox slots: data, and full bits -/
  mbox : Table Word := []
  mboxFull : Table Bool := []
  host : List Host.Cell := []
  net : List Req := []
  parks : List Park := []
  resvs : List ResvQ := []
  lrs : List LrRes := []
  /-- directory: words of a line that a holder has, keyed line × 4096 + holder (14 R319): a sub-core's hart cache, or 2,048 + tile and
  2,304 + tile for a core's scalar and lane instruction cache (17 R390) -/
  dir : Table (BitVec 16) := []
  copies : List SCopy := []
  vers : Table (BitVec 8) := []
  tlbs : List Tlb := []
  /-- the walk caches: non-leaf entries of one stage each, with the entry as its leaf (14 R315) -/
  walkCache : List Tlb := []
  walks : List Walk := []
  farOut : List FarWrite := []
  deriving DecidableEq, Repr

/-- The package. -/
structure State where
  -- the model's own bookkeeping
  inputs : List Instr := []
  turns : List Turn := []
  cur : Nat := 0
  free : Nat := 0
  seqNo : Nat := 0
  clk : Nat := 0
  -- agents and work
  harts : Table Hart := []
  nextTask : Nat := 32768
  wgs : Table Wg := []
  nextWg : Nat := 1
  launches : Table Launch := []
  nextLaunch : Nat := 1
  easels : Table Easel := []
  homes : Table Home := []
  copies : Table Copy := []
  -- cores and engines
  bankOwner : Table Nat := []
  pal : Table DWord := []
  wslots : Table WSlot := []
  lastPick : Table Nat := []
  /-- clk from which a pipe of a sub-core is free, keyed sub-core × 8 + pipe (05 R135, R137) -/
  pipes : Table Nat := []
  routers : Table (List Byte) := []
  -- memory
  mem : Mem := {}
  -- partitions, functions, hub, debug
  parts : Table Part := []
  vfs : Table Vf := []
  hub : Hub := {}
  kiwiow : Table Kiwiow := []
  /-- the traced events of this clk (16 R372) -/
  traced : List Traced := []
  counters : Table DWord := []
  /-- the counters as the last 1,024-clk report latched them (16 R365) -/
  latched : Table DWord := []
  deriving DecidableEq, Repr

/-- Why a step stops: no step of this machine does. Every trap of the spec is taken, and a turn left over for an agent that is gone
is dropped. Safe: there is nothing to raise. -/
inductive Fault where
  deriving DecidableEq, Repr

/-- Why an instruction has no meaning. -/
inductive Refusal where
  /-- `exec` alone: an instruction this model has not reached yet, by its mnemonic. Safe. -/
  | notModelled (mnemonic : String)
  deriving DecidableEq, Repr

/-- The package at power-on, before bring-up (18 R397): nothing runs, nothing is listed. -/
def State.reset : State := {}

end Sys2Proof.Machine
end

