-- ==== Sys2Proof/Machine/Base.lean ====
section
/-! DEFINITION. Bit fields, the geometry of the mesh (00 R1–R5), and the accessors of a hart's registers: the one place where
x0 reads 0 (02 R42), where masks are named (02 R46) and where CSR storage is keyed. -/
namespace Sys2Proof.Machine

/-- What a meaning answers. -/
abbrev Out := Host.Outcome State Fault Refusal

section Bits
/-- Bits (lo + w − 1):lo of a number. -/
def field (n lo w : Nat) : Nat := n / 2 ^ lo % 2 ^ w
/-- Bits (lo + w − 1):lo of a dword. -/
def bitsOf (v : DWord) (lo w : Nat) : Nat := field v.toNat lo w
def bitAt (v : DWord) (i : Nat) : Bool := v.getLsbD i
/-- `v` with bits (lo + w − 1):lo replaced by n. -/
def setBits (v : DWord) (lo w n : Nat) : DWord :=
  let m : DWord := BitVec.ofNat 64 ((2 ^ w - 1) * 2 ^ lo)
  (v &&& ~~~m) ||| (BitVec.ofNat 64 (n % 2 ^ w * 2 ^ lo))
def setBitAt (v : DWord) (i : Nat) (b : Bool) : DWord := setBits v i 1 (if b then 1 else 0)
def dw (n : Nat) : DWord := BitVec.ofNat 64 n
def wd (n : Nat) : Word := BitVec.ofNat 32 n
/-- Sign extension of the low `n` bits. -/
def sextFrom (n : Nat) (v : Nat) : DWord := ((BitVec.ofNat n v).signExtend 64)
def sext12 (imm : BitVec 12) : DWord := imm.signExtend 64
/-- The little-endian bytes of a number (00 R9). -/
def leBytes : Nat → Nat → List Byte
  | 0, _ => []
  | n + 1, v => BitVec.ofNat 8 v :: leBytes n (v / 256)
/-- The number that little-endian bytes spell. -/
def leNat : List Byte → Nat
  | [] => 0
  | b :: r => b.toNat + 256 * leNat r
/-- A natural number from the first element that passes, counting from 0. -/
def firstIdx {α : Type} (p : α → Bool) : List α → Nat → Option Nat
  | [], _ => none
  | a :: r, i => if p a then some i else firstIdx p r (i + 1)
def Mask.bitB (m : Mask) (l : Nat) : Bool := m.getLsbD l
def countOnes (m : Mask) : Nat := (List.range 128).foldl (fun n l => if m.getLsbD l then n + 1 else n) 0
def lowestOne (m : Mask) : Option Nat := (List.range 128).find? (fun l => m.getLsbD l)
end Bits

section Geometry
def tileCol (t : Nat) : Nat := t % 16
def tileRow (t : Nat) : Nat := t / 16
/-- Cluster of a tile (R4). -/
def clusterOf (t : Nat) : Nat := tileRow t / 2 * 8 + tileCol t / 2
/-- Die of a tile (R2). -/
def dieOf (t : Nat) : Nat := tileRow t / 8 * 2 + tileCol t / 8
/-- Home of a local main-memory address (R5). -/
def homeOf (pa : Nat) : Nat := pa / 2 ^ 31 % 256
/-- Whether a rectangle laid out as the RECT CSR (02 R59) contains a tile. -/
def rectHas (r : BitVec 32) (t : Nat) : Bool :=
  let c := field r.toNat 0 8; let w := field r.toNat 16 8
  let y := field r.toNat 8 8; let h := field r.toNat 24 8
  decide (c ≤ tileCol t ∧ tileCol t < c + w ∧ y ≤ tileRow t ∧ tileRow t < y + h)
/-- A rectangle of tiles within the mesh, each extent 1 to 16. -/
def rectOk (r : BitVec 32) : Bool :=
  let c := field r.toNat 0 8; let w := field r.toNat 16 8
  let y := field r.toNat 8 8; let h := field r.toNat 24 8
  decide (1 ≤ w ∧ 1 ≤ h ∧ c + w ≤ 16 ∧ y + h ≤ 16)
def rectTiles (r : BitVec 32) : List Nat := (List.range 256).filter (rectHas r)
def mkRect (c y w h : Nat) : BitVec 32 := BitVec.ofNat 32 (c + 256 * y + 65536 * w + 16777216 * h)
def partAt (s : State) (p : Nat) : Part := tget {} s.parts p
def modPart (s : State) (p : Nat) (f : Part → Part) : State := { s with parts := tput s.parts p (f (partAt s p)) }
/-- The partition whose rectangle contains a tile (15 R334). -/
def partOf (s : State) (t : Nat) : Option Nat :=
  (s.parts.find? (fun e => e.2.valid && rectHas e.2.rect t)).map Prod.fst
/-- Whether a tile lies in partition p's rectangle. -/
def inPart (s : State) (p t : Nat) : Bool := (partAt s p).valid && rectHas (partAt s p).rect t
end Geometry

section Harts
/-- Hart key of a group slot; tasklets have keys from 32,768. -/
def hartKey (tile slot : Nat) : Nat := tile * 96 + slot
def hartAt (s : State) (k : Nat) : Hart := tget {} s.harts k
def curHart (s : State) : Hart := hartAt s s.cur
def setHart (s : State) (k : Nat) (h : Hart) : State := { s with harts := tput s.harts k h }
def modHart (s : State) (k : Nat) (f : Hart → Hart) : State := setHart s k (f (hartAt s k))
def setCur (s : State) (h : Hart) : State := setHart s s.cur h
def modCur (s : State) (f : Hart → Hart) : State := modHart s s.cur f
/-- Sub-core of a group slot (02 R59). -/
def subcoreOf (slot : Nat) : Nat := slot / 12
/-- Package-wide number of a sub-core. -/
def subcoreKey (tile slot : Nat) : Nat := tile * 8 + subcoreOf slot

/-- x[r]; x0 reads 0 (R42). -/
def Hart.getX (h : Hart) (r : Reg) : DWord := if r = 0 then 0 else tget 0 h.x r.toNat
/-- Writes x[r]; a write of x0 is discarded (R42). -/
def Hart.setX (h : Hart) (r : Reg) (v : DWord) : Hart := if r = 0 then h else { h with x := tset 0 h.x r.toNat v }
/-- A CSR's stored value. -/
def Hart.getC (h : Hart) (n : Nat) : DWord := tget 0 h.csr n
def Hart.setC (h : Hart) (n : Nat) (v : DWord) : Hart := { h with csr := tset 0 h.csr n v }
/-- Mask n: 0–14 name m0–m14 and 15 names EM (R46). -/
def Hart.getM (h : Hart) (n : Nat) : Mask := if n = 15 then h.em else tget 0 h.m n
def Hart.setM (h : Hart) (n : Nat) (v : Mask) : Hart := if n = 15 then { h with em := v } else { h with m := tset 0 h.m n v }
/-- Lane l of vector register r (R44). -/
def Hart.getV (h : Hart) (r l : Nat) : Word := tget 0 h.v (r * 128 + l)
def Hart.setV (h : Hart) (r l : Nat) (w : Word) : Hart := { h with v := tset 0 h.v (r * 128 + l) w }
/-- Mask stack entry e (R47). -/
def Hart.getS (h : Hart) (e : Nat) : Mask := tget 0 h.mstk e
def Hart.setS (h : Hart) (e : Nat) (v : Mask) : Hart := { h with mstk := tset 0 h.mstk e v }

/-- The number under which a copy of 0x5C0–0x5C8 is stored: the HS copy under its own number, the VS copy from 0x1000
(12 R270). -/
def bankKey (vs : Bool) (n : Nat) : Nat := if vs then 0x1000 + (n - 0x5C0) else n
/-- The value hardware uses while the hart executes (R270). -/
def Hart.getB (h : Hart) (n : Nat) : DWord := h.getC (bankKey h.virt n)
/-- SFERETRY as a retry limit: 0 acts as 1 (R61). -/
def Hart.feLimit (h : Hart) : Nat := if h.tasklet then 1024 else max 1 (bitsOf (h.getB 0x5C7) 0 16)

def launchAt (s : State) (l : Nat) : Launch := tget {} s.launches l
def modLaunch (s : State) (l : Nat) (f : Launch → Launch) : State := { s with launches := tput s.launches l (f (launchAt s l)) }
def wgAt (s : State) (w : Nat) : Wg := tget {} s.wgs w
def modWg (s : State) (w : Nat) (f : Wg → Wg) : State := { s with wgs := tput s.wgs w (f (wgAt s w)) }
def Launch.rect (l : Launch) : BitVec 32 := mkRect l.colo l.rowo l.width l.height
/-- A launch that is still running. -/
def running (l : Launch) : Bool := !l.done
/-- The L1 split of a core while a launch runs on it (01 R27; 04 R87). -/
def l1Of (s : State) (tile : Nat) : Option Nat :=
  (s.launches.find? (fun e => running e.2 && rectHas e.2.rect tile)).map (fun e => e.2.l1cnt)
/-- A boot group runs outside any launch (12 R269). -/
def Hart.boot (h : Hart) : Bool := h.lkey == 0
/-- The partition an agent acts for (15 R330). -/
def Hart.actsFor (h : Hart) : Nat := if h.tasklet || h.virt then h.pid else 15
/-- The partition an agent belongs to: that of its launch, or of the boot command that admitted it (06 R152; 12 R269). -/
def ownerOf (s : State) (h : Hart) : Nat := if h.tasklet then h.pid else (wgAt s h.wg).pid
def copyAt (s : State) (k : Nat) : Copy := tget {} s.copies k
def homeAt (s : State) (t : Nat) : Home := tget {} s.homes t
def modHome (s : State) (t : Nat) (f : Home → Home) : State := { s with homes := tput s.homes t (f (homeAt s t)) }
def easelAt (s : State) (t : Nat) : Easel := tget {} s.easels t
def modEasel (s : State) (t : Nat) (f : Easel → Easel) : State := { s with easels := tput s.easels t (f (easelAt s t)) }
/-- A named field change of the hub's registers. -/
def modHub (s : State) (f : Hub → Hub) : State := { s with hub := f s.hub }
def modMem (s : State) (f : Mem → Mem) : State := { s with mem := f s.mem }
/-- The lease tick (14 R322): clk divided by 16, of which leases use the low 16 bits. -/
def leaseTick (s : State) : BitVec 16 := BitVec.ofNat 16 (s.clk / 16)
/-- The time CSR advances by 1 every 12 clk (12 R277). -/
def timeOf (s : State) : Nat := s.clk / 12
/-- Sets a hart's acquire tick (14 R323). -/
def acquire (s : State) (k : Nat) : State := modHart s k (fun h => { h with av := true, acqTick := leaseTick s })
/-- The next order stamp. -/
def bumpSeq (s : State) : State := { s with seqNo := s.seqNo + 1 }
/-- Key of an event counter (16 R362). -/
def counterKey (cls tile unit ev : Nat) : Nat := ((cls * 256 + tile) * 16 + unit) * 16 + ev
/-- Advances a counter, which wraps at 64 bits (16 R362). -/
def count (s : State) (cls tile unit ev n : Nat) : State :=
  let k := counterKey cls tile unit ev
  { s with counters := tset 0 s.counters k (tget 0 s.counters k + dw n) }
/-- The instruction bits of a scalar instruction. -/
def insnBits (i : Instr) : DWord := ((encode i).headD 0).setWidth 64
end Harts

end Sys2Proof.Machine
end

