-- ==== Sys2Proof/Machine/Flags.lean ====
section
/-! DEFINITION. The floating-point flags of LFFLAGS (03 R66; 02 R58) and their accrual. -/
namespace Sys2Proof.Machine

/-- A set of flags, laid out as LFFLAGS: NV, DZ, OF, UF, NX from bit 4 down (02 R58). -/
abbrev Flags := BitVec 5
def flNV : Flags := 16
def flDZ : Flags := 8
def flOF : Flags := 4
def flUF : Flags := 2
def flNX : Flags := 1
/-- The flags of several lanes or elements together: each active lane accrues its own (03 R66). -/
def flAll (l : List Flags) : Flags := l.foldl (fun a f => a ||| f) 0
/-- Accrual into a group's LFFLAGS, CSR 0x803. -/
def accrue (h : Hart) (fl : Flags) : Hart := if fl = 0 then h else h.setC 0x803 (h.getC 0x803 ||| fl.setWidth 64)

end Sys2Proof.Machine
end

