-- ==== Sys2Proof/Machine/Float.lean ====
section
/-! DEFINITION. Floating-point arithmetic (03 R65–R72): every value as an exact number, every result rounded once. A finite value
is m × 2^e with a sign; an inexact intermediate carries an odd last bit below every rounding position, so one rounding decides
as the exact value would. -/
namespace Sys2Proof.Machine

/-- A floating-point format (R68). -/
structure Fmt where
  ebits : Nat
  mbits : Nat
  bias : Nat
  infs : Bool := true
  deriving DecidableEq, Repr
def fmtF32 : Fmt := { ebits := 8, mbits := 23, bias := 127 }
def fmtBF16 : Fmt := { ebits := 8, mbits := 7, bias := 127 }
def fmtF16 : Fmt := { ebits := 5, mbits := 10, bias := 15 }
def fmtE5M2 : Fmt := { ebits := 5, mbits := 2, bias := 15 }
def fmtE4M3 : Fmt := { ebits := 4, mbits := 3, bias := 7, infs := false }

/-- A value: NaN, an infinity, or (−1)^neg × m × 2^e. -/
inductive Fv where
  | nan
  | inf (neg : Bool)
  | fin (neg : Bool) (m : Nat) (e : Int)
  deriving DecidableEq, Repr

def Fmt.width (f : Fmt) : Nat := 1 + f.ebits + f.mbits
def Fmt.expMax (f : Fmt) : Nat := 2 ^ f.ebits - 1
/-- The canonical NaN (R67, R68). -/
def Fmt.canonNan (f : Fmt) : Nat :=
  if f.infs then f.expMax * 2 ^ f.mbits + 2 ^ (f.mbits - 1) else f.expMax * 2 ^ f.mbits + (2 ^ f.mbits - 1)
def Fmt.signBit (f : Fmt) (neg : Bool) : Nat := if neg then 2 ^ (f.ebits + f.mbits) else 0
def Fmt.infBits (f : Fmt) (neg : Bool) : Nat := f.signBit neg + f.expMax * 2 ^ f.mbits
/-- The largest finite magnitude: significand and exponent of its unit. -/
def Fmt.maxSig (f : Fmt) : Nat := if f.infs then 2 ^ (f.mbits + 1) - 1 else 2 ^ (f.mbits + 1) - 2
def Fmt.maxExp (f : Fmt) : Int := if f.infs then (f.bias : Int) - f.mbits else (f.bias : Int) + 1 - f.mbits
def Fmt.maxBits (f : Fmt) (neg : Bool) : Nat :=
  f.signBit neg + (if f.infs then (f.expMax - 1) * 2 ^ f.mbits + (2 ^ f.mbits - 1) else f.expMax * 2 ^ f.mbits + (2 ^ f.mbits - 2))
/-- Exponent of the last place of subnormals. -/
def Fmt.minExp (f : Fmt) : Int := 1 - (f.bias : Int) - f.mbits

/-- The value a pattern encodes (R68, R69). -/
def fDecode (f : Fmt) (b : Nat) : Fv :=
  let neg := b.testBit (f.ebits + f.mbits)
  let e := field b f.mbits f.ebits; let m := field b 0 f.mbits
  if f.infs && e == f.expMax then (if m == 0 then .inf neg else .nan)
  else if !f.infs && e == f.expMax && m == 2 ^ f.mbits - 1 then .nan
  else if e == 0 then .fin neg m f.minExp else .fin neg (m + 2 ^ f.mbits) (f.minExp + (e - 1))
/-- A signalling NaN; the e4m3 NaN is always quiet (R67). -/
def fSnan (f : Fmt) (b : Nat) : Bool := f.infs && fDecode f b == .nan && !b.testBit (f.mbits - 1)

/-- Rounds m × 2^e (scaled so that the unit is 1 after a right shift by k) to an integer: the integer and whether it differs. -/
def roundShift (mode : Nat) (neg : Bool) (m k : Nat) : Nat × Bool :=
  let n := m / 2 ^ k; let r := m % 2 ^ k; let half := 2 ^ (k - 1)
  let inexact := r != 0
  let up := match mode with
    | 0 => decide (k ≠ 0 ∧ (half < r ∨ (r = half ∧ n % 2 = 1)))
    | 1 => false
    | 2 => neg && inexact
    | 3 => !neg && inexact
    | _ => decide (k ≠ 0 ∧ half ≤ r)
  (if up then n + 1 else n, inexact)
/-- Rounds m × 2^e to a multiple of 2^q. -/
def roundAt (mode : Nat) (neg : Bool) (m : Nat) (e q : Int) : Nat × Bool :=
  if q ≤ e then (m * 2 ^ (e - q).toNat, false) else roundShift mode neg m (q - e).toNat
/-- Bit length. -/
def bitLen (m : Nat) : Nat := if m = 0 then 0 else Nat.log2 m + 1

/-- What an overflow delivers (R69, R70). -/
def fOverflow (f : Fmt) (mode : Nat) (sat neg : Bool) : Nat :=
  if sat then f.maxBits neg
  else if !f.infs then f.canonNan
  else match mode with
    | 1 => f.maxBits neg
    | 2 => if neg then f.infBits true else f.maxBits false
    | 3 => if neg then f.maxBits true else f.infBits false
    | _ => f.infBits neg

/-- A non-zero m × 2^e rounded once to a format (R66, R69, R70). Tininess is detected after rounding with unbounded
exponent. -/
def fRound (f : Fmt) (mode : Nat) (sat neg : Bool) (m : Nat) (e : Int) : Nat × Flags :=
  let p : Int := f.mbits + 1
  let top := e + (bitLen m : Int)
  let qu := top - p
  let q := max qu f.minExp
  let (n, ix) := roundAt mode neg m e q
  let (nu, _) := roundAt mode neg m e qu
  -- the unbounded result's exponent lies below the smallest normal
  let tiny := decide (qu + (bitLen nu : Int) ≤ f.minExp + f.mbits)
  let (n', q') := if n = 2 ^ (f.mbits + 1) then (2 ^ f.mbits, q + 1) else (n, q)
  if n' ≠ 0 ∧ (q' > f.maxExp ∨ (q' = f.maxExp ∧ n' > f.maxSig)) then (fOverflow f mode sat neg, flOF ||| flNX)
  else
    let bits := if n' < 2 ^ f.mbits then n' else (q' - f.minExp + 1).toNat * 2 ^ f.mbits + (n' - 2 ^ f.mbits)
    (f.signBit neg + bits, if ix then (if tiny then flUF ||| flNX else flNX) else 0)

/-- Delivers a value in a format. -/
def fEncode (f : Fmt) (mode : Nat) (sat : Bool) : Fv → Nat × Flags
  | .nan => (f.canonNan, 0)
  | .inf neg => if f.infs then (if sat then (f.maxBits neg, flNX) else (f.infBits neg, 0))
                else ((if sat then f.maxBits neg else f.canonNan), flNX)
  | .fin neg m e => if m = 0 then (f.signBit neg, 0) else fRound f mode sat neg m e

/-- The exact sum; an exact zero from operands that are not both −0 is +0, or −0 under RDN. -/
def fvAdd (mode : Nat) : Fv → Fv → Fv × Flags
  | .nan, _ => (.nan, 0)
  | _, .nan => (.nan, 0)
  | .inf a, .inf b => if a == b then (.inf a, 0) else (.nan, flNV)
  | .inf a, .fin .. => (.inf a, 0)
  | .fin .., .inf b => (.inf b, 0)
  | .fin na ma ea, .fin nb mb eb =>
    let e := min ea eb
    let v : Int → Bool → Nat → Int := fun x n m => (if n then -(m : Int) else (m : Int)) * 2 ^ (x - e).toNat
    let sum := v ea na ma + v eb nb mb
    if sum = 0 then
      (.fin (if ma = 0 ∧ mb = 0 ∧ na = nb then na else mode == 2) 0 0, 0)
    else (.fin (decide (sum < 0)) sum.natAbs e, 0)
def fvNeg : Fv → Fv
  | .nan => .nan
  | .inf n => .inf (!n)
  | .fin n m e => .fin (!n) m e
def fvMul : Fv → Fv → Fv × Flags
  | .nan, _ => (.nan, 0)
  | _, .nan => (.nan, 0)
  | .inf a, .inf b => (.inf (a != b), 0)
  | .inf a, .fin n m _ => if m = 0 then (.nan, flNV) else (.inf (a != n), 0)
  | .fin n m _, .inf b => if m = 0 then (.nan, flNV) else (.inf (n != b), 0)
  | .fin na ma ea, .fin nb mb eb => (.fin (na != nb) (ma * mb) (ea + eb), 0)

/-- NV for a signalling operand (R66). -/
def nvOf (f : Fmt) (bs : List Nat) : Flags := if bs.any (fSnan f) then flNV else 0
def fAdd (f : Fmt) (mode : Nat) (sat : Bool) (a b : Nat) : Nat × Flags :=
  let (v, fl) := fvAdd mode (fDecode f a) (fDecode f b)
  let (r, fl') := fEncode f mode sat v
  (r, fl ||| fl' ||| nvOf f [a, b])
/-- a with its sign inverted. -/
def fNegBits (f : Fmt) (a : Nat) : Nat := Nat.xor a (2 ^ (f.ebits + f.mbits))
def fSub (f : Fmt) (mode : Nat) (sat : Bool) (a b : Nat) : Nat × Flags :=
  let (v, fl) := fvAdd mode (fDecode f a) (fvNeg (fDecode f b))
  let (r, fl') := fEncode f mode sat v
  (r, fl ||| fl' ||| nvOf f [a, b])
def fMul (f : Fmt) (mode : Nat) (sat : Bool) (a b : Nat) : Nat × Flags :=
  let (v, fl) := fvMul (fDecode f a) (fDecode f b)
  let (r, fl') := fEncode f mode sat v
  (r, fl ||| fl' ||| nvOf f [a, b])
/-- a × b + c rounded once. -/
def fFma (f : Fmt) (mode : Nat) (sat : Bool) (a b c : Nat) : Nat × Flags :=
  let (p, fl) := fvMul (fDecode f a) (fDecode f b)
  let (v, fl2) := fvAdd mode p (fDecode f c)
  let (r, fl') := fEncode f mode sat v
  (r, fl ||| fl2 ||| fl' ||| nvOf f [a, b, c])

/-- Ordering of two values that are not NaN: −1, 0 or 1; zeros of either sign are equal. -/
def fvCmp (a b : Fv) : Int :=
  let key : Fv → Int × Nat × Int := fun v => match v with
    | .nan => (0, 0, 0)
    | .inf n => (if n then -2 else 2, 0, 0)
    | .fin n m e => (if m = 0 then 0 else if n then -1 else 1, m, e)
  let (sa, ma, ea) := key a; let (sb, mb, eb) := key b
  if sa ≠ sb then (if sa < sb then -1 else 1)
  else if sa = 0 ∨ sa = 2 ∨ sa = -2 then 0
  else
    let e := min ea eb
    let x := ma * 2 ^ (ea - e).toNat; let y := mb * 2 ^ (eb - e).toNat
    if x = y then 0 else if (x < y) = (sa = 1) then -1 else 1

/-- A value rounded to an integer, and whether it differs; nothing for NaN or an infinity. -/
def fvToInt (mode : Nat) : Fv → Option (Int × Bool)
  | .nan => none
  | .inf _ => none
  | .fin n m e =>
    let (k, ix) := roundAt mode n m e 0
    some (if n then -(k : Int) else (k : Int), ix)
/-- The value of an integer. -/
def fvOfInt (i : Int) : Fv := .fin (decide (i < 0)) i.natAbs 0

section Elementary
/-- 1 / (m × 2^e), with an odd last bit where the quotient is inexact. -/
def recipDyadic (m : Nat) (e : Int) : Nat × Int :=
  let k := bitLen m + 64
  let q := 2 ^ k / m
  (2 * q + (if 2 ^ k % m = 0 then 0 else 1), -e - k - 1)
/-- The integer square root below 2^k, bit by bit. -/
def isqrtFrom : Nat → Nat → Nat → Nat
  | 0, _, r => r
  | k + 1, n, r => let t := r + 2 ^ k; isqrtFrom k n (if t * t ≤ n then t else r)
/-- 1 / sqrt(m × 2^e). -/
def rsqrtDyadic (m : Nat) (e : Int) : Nat × Int :=
  let (m, e) := if e % 2 = 0 then (m, e) else (2 * m, e - 1)
  let n := 2 ^ 160 / m
  let r := isqrtFrom 81 n 0
  (2 * r + (if r * r * m = 2 ^ 160 then 0 else 1), -(e / 2) - 81)
/-- ln 2 × 2^200, truncated. -/
def ln2Fix : Nat := 0xb17217f7d1cf79abc9e3b39803f2f6af40f343267298b62d8a
/-- Terms of exp on 200-bit fixed point: acc + term + …, the n-th step dividing by i. -/
def expTerms : Nat → Nat → Nat → Nat → Nat → Nat
  | 0, _, _, _, acc => acc
  | n + 1, i, x, term, acc =>
    let term' := term * x / 2 ^ 200 / i
    expTerms n (i + 1) x term' (acc + term')
/-- 2^f × 2^200 for f in 200-bit fixed point below 1. -/
def exp2Frac (f : Nat) : Nat := expTerms 60 1 (f * ln2Fix / 2 ^ 200) (2 ^ 200) (2 ^ 200)
/-- Terms of the inverse hyperbolic tangent. -/
def atanhTerms : Nat → Nat → Nat → Nat → Nat → Nat
  | 0, _, _, _, acc => acc
  | n + 1, i, z2, p, acc => atanhTerms n (i + 2) z2 (p * z2 / 2 ^ 200) (acc + p / i)
/-- log2(x) × 2^200 for x = num / 2^k in [1, 2). -/
def log2Frac (num k : Nat) : Nat :=
  let z := (num - 2 ^ k) * 2 ^ 200 / (num + 2 ^ k)
  2 * atanhTerms 70 1 (z * z / 2 ^ 200) z 0 * 2 ^ 200 / ln2Fix
/-- 2^x for x = ±m × 2^e, m ≠ 0 (R201): exact for an integer x, otherwise within 2^−180 of the exact value, with an odd last
bit (notes/assumptions/14). -/
def exp2Dyadic (neg : Bool) (m : Nat) (e : Int) : Nat × Int :=
  let big := decide ((e + (bitLen m : Int)) > 12)
  if big then (if neg then (3, -4096) else (3, 4096))
  else if decide ((e + (bitLen m : Int)) < -120) then
    (if neg then (2 ^ 140 - 1, -140) else (2 ^ 140 + 1, -140))
  else
    let x : Int := if 0 ≤ e + 200 then (m : Int) * 2 ^ (e + 200).toNat else (m : Int) / 2 ^ (-(e + 200)).toNat
    let x := if neg then -x else x
    let i := x / 2 ^ 200
    let f := (x - i * 2 ^ 200).toNat
    if f = 0 then (1, i) else (2 * (exp2Frac f / 2 ^ 10) + 1, i - 191)
/-- log2(m × 2^e) for m ≠ 0, as a value (R201). -/
def log2Fv (m : Nat) (e : Int) : Fv :=
  let k := bitLen m - 1
  if m = 2 ^ k then fvOfInt (e + k)
  else
    let v : Int := (e + k) * 2 ^ 200 + (log2Frac m k : Int)
    .fin (decide (v < 0)) (2 * (v.natAbs / 2 ^ 8) + 1) (-193)
end Elementary

end Sys2Proof.Machine
end

