-- ==== Sys2Proof/Machine/Memory.lean ====
section
/-! DEFINITION. Memory at its home: bytes little-endian in one place (00 R9), the home order of writes (04 R103), what a write
does to reservations, directory and versions (14 R319–R325), what holds an access back (04 R106; 14 R321; 15 R344), the
writes of an agent that have not entered home order (14 R318) and the full-empty operations at their owner (04 R89). -/
namespace Sys2Proof.Machine

section Bytes
/-- Writes bytes at rising addresses of a table whose unlisted bytes read 0. -/
def putBytes : Table Byte → Nat → List Byte → Table Byte
  | t, _, [] => t
  | t, a, b :: r => putBytes (tset 0 t a b) (a + 1) r
def getBytes (t : Table Byte) (a n : Nat) : List Byte := (List.range n).map (fun i => tget 0 t (a + i))

/-- Byte b of the mailbox words. -/
def mboxByte (m : Mem) (b : Nat) : Byte := (tget 0 m.mbox (b / 4)).extractLsb' (b % 4 * 8) 8
def mboxPut : Mem → Nat → List Byte → Mem
  | m, _, [] => m
  | m, b, x :: r =>
    let w := tget 0 m.mbox (b / 4); let sh := b % 4 * 8
    let w' := (w &&& ~~~((0xFF : Word) <<< sh)) ||| (x.setWidth 32 <<< sh)
    mboxPut { m with mbox := tset 0 m.mbox (b / 4) w' } (b + 1) r

/-- The bytes at a place. Interrupt files read 0 (14 R308). -/
def readBytes (m : Mem) (l : Loc) (n : Nat) : List Byte :=
  match l with
  | .mem pa => getBytes m.bytes pa n
  | .win o => getBytes m.scratch o n
  | .mbox b => (List.range n).map (fun i => mboxByte m (b + i))
  | .host a => getBytes m.host a n
  | .irq _ => List.replicate n 0
  | .ctl _ => List.replicate n 0
  | .far _ _ => List.replicate n 0
/-- Changes the bytes at a place and nothing else. -/
def writeBytes (m : Mem) (l : Loc) (bs : List Byte) : Mem :=
  match l with
  | .mem pa => { m with bytes := putBytes m.bytes pa bs }
  | .win o => { m with scratch := putBytes m.scratch o bs }
  | .mbox b => mboxPut m b bs
  | .host a => { m with host := putBytes m.host a bs }
  | .irq _ => m
  | .ctl _ => m
  | .far _ _ => m
def readLoc (m : Mem) (l : Loc) (n : Nat) : DWord := dw (leNat (readBytes m l n))
def writeLoc (m : Mem) (l : Loc) (n : Nat) (v : DWord) : Mem := writeBytes m l (leBytes n v.toNat)
/-- A place some bytes further. -/
def Loc.add : Loc → Nat → Loc
  | .mem pa, i => .mem (pa + i)
  | .win o, i => .win (o + i)
  | .mbox b, i => .mbox (b + i)
  | .irq o, i => .irq (o + i)
  | .ctl o, i => .ctl (o + i)
  | .host a, i => .host (a + i)
  | .far p a, i => .far p (a + i)
def ranges (a n b k : Nat) : Bool := decide (a < b + k ∧ b < a + n)
/-- Whether two spans share a byte. -/
def overlaps (l : Loc) (n : Nat) (l' : Loc) (k : Nat) : Bool :=
  match l, l' with
  | .mem a, .mem b => ranges a n b k
  | .win a, .win b => ranges a n b k
  | .mbox a, .mbox b => ranges a n b k
  | .host a, .host b => ranges a n b k
  | .irq a, .irq b => ranges a n b k
  | .ctl a, .ctl b => ranges a n b k
  | .far p a, .far q b => p == q && ranges a n b k
  | _, _ => false
/-- The aligned word span that holds a span: locations are words (04 R94). -/
def wordSpan (l : Loc) (n : Nat) : Loc × Nat :=
  match l with
  | .mem a => (.mem (a / 4 * 4), (a + n + 3) / 4 * 4 - a / 4 * 4)
  | .win a => (.win (a / 4 * 4), (a + n + 3) / 4 * 4 - a / 4 * 4)
  | .mbox a => (.mbox (a / 4 * 4), (a + n + 3) / 4 * 4 - a / 4 * 4)
  | l => (l, n)
/-- The lines of main memory, or the words elsewhere, that a copy owns for a destination (R106). -/
def ownSpan (l : Loc) (n : Nat) : Loc × Nat :=
  match l with
  | .mem a => (.mem (a / 64 * 64), (a + n + 63) / 64 * 64 - a / 64 * 64)
  | l => wordSpan l n
end Bytes

section Held
/-- A copy has taken ownership of the span and has not written it yet (R106). -/
def ownedByCopy (s : State) (l : Loc) (n : Nat) : Bool :=
  s.copies.any (fun e =>
    e.2.segs.any (fun g => let o := ownSpan g.2.2.1 g.2.2.2; overlaps l n o.1 o.2))
/-- Chunk number of a local main-memory address (15 R344). -/
def chunkOf (a : Nat) : Nat := a / 65536
def granuleOf (a : Nat) : Nat := a / 64
/-- The gesso bit of a chunk is set. -/
def gesso (m : Mem) (a : Nat) : Bool := !(tget false m.open_ (chunkOf a))
def initBusy (m : Mem) (l : Loc) : Bool :=
  match l with
  | .mem a => tget false m.inits (chunkOf a)
  | _ => false
/-- An LR of another hart holds back a write to its span for 128 clk (14 R321). -/
def lrHolds (s : State) (agent : Nat) (l : Loc) (n : Nat) : Bool :=
  match l with
  | .mem a => s.mem.lrs.any (fun r => r.hart != agent && ranges a n r.addr r.size && decide (s.clk < r.clk + 128))
  | _ => false
def heldRead (s : State) (l : Loc) (n : Nat) : Bool := ownedByCopy s l n || initBusy s.mem l
/-- The remote updates of one instruction to a place are under way, and take consecutive places in home order (09 R223). -/
def updating (s : State) (l : Loc) (n : Nat) : Bool := s.mem.net.any (fun r => r.begun && overlaps r.loc r.size l n)
def heldWrite (s : State) (agent : Nat) (l : Loc) (n : Nat) : Bool := heldRead s l n || lrHolds s agent l n || updating s l n
/-- Key of a way of a line's set in its slice (15 R339; notes/assumptions/64). -/
def l2Key (line way : Nat) : Nat := (line / 2 ^ 25 % 256 * 16384 + line % 16384) * 16 + way
/-- The partition whose accesses reach a line: that of its home's rectangle, 15 outside every rectangle (15 R330, R334). -/
def lineOwner (s : State) (line : Nat) : Nat := (partOf s (line / 2 ^ 25 % 256)).getD 15
/-- A hit: the line, under the requester's partition id. -/
def l2Hit (m : Mem) (p line : Nat) : Bool := (List.range 16).any (fun w => tfind m.l2 (l2Key line w) == some { line := line, part := p })
/-- The keys that a granule's stored version names: the data and tag keys of its partition's slot (15 R341, R343); keys of zeros where the
slot holds none. -/
def granuleKeys (s : State) (g : Nat) : KeyPair :=
  let p := partAt s (lineOwner s g)
  ((if tget false s.mem.ver1 g then p.keySlot1 else p.keySlot0)).getD { data := 0, tag := 0 }
/-- What HBM4 holds of a granule: its 64 bytes under AES-256-XTS with PA bits 38:6 as the tweak (15 R341). -/
def granuleCipher (s : State) (g : Nat) : List Byte :=
  Config.aesXts (granuleKeys s g).data (g % 2 ^ 33) (getBytes s.mem.bytes (g * 64) 64)
/-- The tag that a granule's ciphertext has: the low 32 bits of KMAC256 over PA bits 38:6, the version bit and the ciphertext (15 R341). -/
def granuleTag (s : State) (g : Nat) : Word :=
  wd (leNat (Config.kmac256 (granuleKeys s g).tag
    (leBytes 5 (g % 2 ^ 33) ++ [if tget false s.mem.ver1 g then 1 else 0] ++ granuleCipher s g)))
/-- The tag stored beside a granule: what its ciphertext had when it was written, with the bits that have changed since. -/
def storedTag (s : State) (g : Nat) : Word := granuleTag s g ^^^ tget 0 s.mem.tagXor g
/-- The stored tag of a granule does not match its content (15 R341): some bit of it has changed. -/
def tagFails (m : Mem) (g : Nat) : Bool := tget 0 m.tagXor g != 0
/-- The check of a granule's tag, made when an access of its partition brings the granule from HBM4 (15 R341), would fail. -/
def badTag (s : State) (g : Nat) : Bool := tagFails s.mem g && !l2Hit s.mem (lineOwner s g) g
/-- A granule that a failed check has marked, or that would fail its check now, cannot be read (15 R342). -/
def badGranule (s : State) (g : Nat) : Bool := tget false s.mem.poison g || badTag s g
/-- Whether an access of at most 64 bytes meets such a granule. -/
def poisoned (s : State) (l : Loc) (n : Nat) : Bool :=
  match l with
  | .mem a => !gesso s.mem a && (badGranule s (granuleOf a) || badGranule s (granuleOf (a + n - 1)))
  | _ => false
/-- The granules, and the chunks, that a span of main memory touches. -/
def granulesOf (a n : Nat) : List Nat := (List.range ((a + n - 1) / 64 - a / 64 + 1)).map (fun i => a / 64 + i)
def spanChunks (a n : Nat) : List Nat := (List.range ((a + n - 1) / 65536 - a / 65536 + 1)).map (fun i => a / 65536 + i)
/-- A poisoned granule among a span's. -/
def anyPoison (s : State) (a n : Nat) : Bool := (granulesOf a n).any (fun g => poisoned s (.mem (g * 64)) 64)
/-- A failed tag check marks the granule and counts one failure of its channel (R342, R349). -/
def markGranule (s : State) (g : Nat) : State :=
  modMem s (fun m => { m with poison := tset false m.poison g true,
                              tagErr := tset 0 m.tagErr (homeOf (g * 64)) (min 0xFFFF (tget 0 m.tagErr (homeOf (g * 64)) + 1)) })
/-- The check of a granule that is read. -/
def noteGranule (s : State) (g : Nat) : State :=
  if badTag s g && !tget false s.mem.poison g && !gesso s.mem (g * 64) then markGranule s g else s
def notePoison (s : State) (l : Loc) : State :=
  match l with
  | .mem a => noteGranule s (granuleOf a)
  | _ => s
/-- The tag checks of every granule of a span that is read. -/
def notePoisonSpan (s : State) (a n : Nat) : State := (granulesOf a n).foldl noteGranule s
end Held

section L2
/-- Key of a holder of a line in the directory, and the line of a key (14 R319). -/
def dirKey (line holder : Nat) : Nat := line * 4096 + holder
def dirLine (k : Nat) : Nat := k / 4096
/-- The ways a partition may allocate in on a slice's die (15 R339, R340). -/
def wayMask (s : State) (p slice : Nat) : Nat := bitsOf (partAt s p).waysNow (16 * dieOf slice) 16
/-- The way an allocation takes among those of its mask: one that holds no line, else the lowest (R340; notes/assumptions/64). -/
def l2Victim (s : State) (p line : Nat) : Option Nat :=
  let ws := (List.range 16).filter (fun w => (wayMask s p (line / 2 ^ 25 % 256)).testBit w)
  match ws.find? (fun w => (tfind s.mem.l2 (l2Key line w)).isNone) with
  | some w => some w
  | none => ws.head?
/-- A line whose words hart caches hold is recalled when it leaves its slice (14 R320). -/
def evictLine (m : Mem) (k : Nat) : Mem :=
  match tfind m.l2 k with
  | none => m
  | some e => { m with l2 := tdel m.l2 k,
                       recalls := if m.dir.any (fun d => dirLine d.1 == e.line) then m.recalls ++ [e.line] else m.recalls }
/-- What a slice counts of an access (16 R362): a hit, or a miss and the 64 bytes it reads from HBM4, of which a chunk whose gesso bit is
set reads none (15 R344). -/
def l2Count (s : State) (line : Nat) (hit : Bool) : State :=
  let t := homeOf (line * 64)
  if hit then count s 2 t 0 0 1
  else if gesso s.mem (line * 64) then count s 2 t 0 1 1 else count (count s 2 t 0 1 1) 2 t 0 2 64
/-- An access that reaches a line's slice: a hit, an allocation, or neither where the mask is empty (R340). -/
def l2Touch (s0 : State) (line : Nat) : State :=
  let p := lineOwner s0 line
  let s := l2Count s0 line (l2Hit s0.mem p line)
  if l2Hit s.mem p line then s
  else match l2Victim s p line with
    | none => s
    | some w => modMem s (fun m => { evictLine m (l2Key line w) with
        l2 := tput (evictLine m (l2Key line w)).l2 (l2Key line w) { line := line, part := p } })
def l2Span (s : State) (a n : Nat) : State := (granulesOf a n).foldl l2Touch s
/-- An access that reaches its home. -/
def l2Loc (s : State) (l : Loc) (n : Nat) : State :=
  match l with
  | .mem a => l2Span s a n
  | _ => s
/-- A way that is held in a low-leakage state: it holds no line and its slice's owner may not allocate in it (R340). -/
def wayIdle (s : State) (slice way : Nat) : Bool :=
  !(List.range 16384).any (fun i => (tfind s.mem.l2 ((slice * 16384 + i) * 16 + way)).isSome) &&
    !(wayMask s ((partOf s slice).getD 15) slice).testBit way
/-- Invalidates the lines that pass, with the recalls their holders need (14 R320; 15 R345). -/
def l2Drop (m : Mem) (p : Nat → L2Line → Bool) : Mem := ((m.l2.filter (fun e => p e.1 e.2)).map Prod.fst).foldl evictLine m
end L2

section Form
/-- The canonical form of the package's contents: main memory, scratchpads, mailbox words and host memory list rising addresses and
nothing that an unlisted address reads as. -/
def Memory.wf (m : Mem) : Bool := twf 0 m.bytes && twf 0 m.scratch && twf 0 m.host && twf 0 m.mbox
end Form

section HomeOrder
/-- Every write increments the versions of its quarters (14 R325). -/
def bumpVers (m : Mem) (a n : Nat) : Mem :=
  (List.range ((a + n - 1) / 16 - a / 16 + 1)).foldl
    (fun m i => let q := a / 16 + i; { m with vers := tset 0 m.vers q (tget 0 m.vers q + 1) }) m
/-- Words of line `line` that a write to the span names, as a 16-bit mask. -/
def lineWords (line a n : Nat) : BitVec 16 :=
  (List.range 16).foldl (fun w i => if ranges a n (line * 64 + 4 * i) 4 then w ||| (1 <<< i) else w) 0
/-- Invalidates the written words in every hart cache but the writer's own sub-core (14 R319). -/
def dirInvalidate (m : Mem) (self a n : Nat) : Mem :=
  { m with dir := (m.dir.map (fun e =>
      if decide (a / 64 ≤ dirLine e.1 ∧ dirLine e.1 ≤ (a + n - 1) / 64) && e.1 % 4096 != self then
        (e.1, e.2 &&& ~~~(lineWords (dirLine e.1) a n)) else e)).filter (fun e => e.2 != 0) }
/-- Sub-core of an agent whose hart cache may hold lines; 4,095, which is no holder, for an agent without one. -/
def agentSubcore (s : State) (agent : Nat) : Nat :=
  let h := hartAt s agent
  if h.tasklet || agent ≥ 32768 then 4095 else subcoreKey h.tile h.slot
/-- What entering home order does besides storing bytes: kills other harts' LR reservations (R321), fails other agents' SCH
(07 R171), invalidates directory copies (R319), steps versions (R325), reaches the line's L2 slice (15 R339) and is written through to
HBM4 (15 R348; 16 R362). -/
def noteWrite (s : State) (agent : Nat) (l : Loc) (n : Nat) : State :=
  match l with
  | .mem a =>
    let m := s.mem
    let m := { m with
      lrs := m.lrs.filter (fun r => r.hart == agent || !ranges a n r.addr r.size),
      resvs := m.resvs.map (fun q => { q with holder := q.holder.map (fun h =>
        if h.agent != agent && ranges a n h.addr h.width then { h with broken := true } else h) }) }
    count (l2Span { s with mem := bumpVers (dirInvalidate m (agentSubcore s agent) a n) a n } a n) 2 (homeOf a) 0 3
      (64 * (granulesOf a n).length)
  | _ => s
/-- The version bit new writes to a granule are encrypted under (15 R348). -/
def writeVersion (s : State) (a : Nat) : Bool :=
  let t := homeOf a
  match partOf s t with
  | none => false
  | some p =>
    let q := partAt s p
    if q.pass then (if decide (granuleOf (a % 2 ^ 31) < tget 0 s.mem.frontier t) then q.kv else !q.kv) else q.kv
/-- The granules of a span are encrypted and tagged afresh by a write (15 R341, R348). -/
def tagWritten (s : State) (m : Mem) (a n : Nat) : Mem :=
  (granulesOf a n).foldl (fun (m : Mem) (g : Nat) =>
    { m with ver1 := tset false m.ver1 g (writeVersion s (g * 64)), tagXor := tset 0 m.tagXor g 0 }) m
/-- The end of a chunk's initialisation (15 R344): every granule is written as zero under the version R348 gives it, and the bit
clears. -/
def openChunk (s : State) (c : Nat) : State :=
  let fresh := ((List.range 1024).map (fun i => c * 1024 + i)).filter (fun g => writeVersion s (g * 64))
  count (count (modMem s (fun m => { m with
    open_ := tset false m.open_ c true, inits := tset false m.inits c false,
    ver1 := fresh.foldl (fun t g => tput t g true) (tfilter (fun g => g / 1024 != c) m.ver1) })) 2 (c / 32768) 0 6 1) 2 (c / 32768) 0 3 65536
/-- A posted store that meets a poisoned granule at its home performs nothing; its agent takes the store/AMO access fault at its next
boundary (R342; notes/assumptions/87). -/
def lateFault (s : State) (agent : Nat) (va : DWord) : State :=
  if (tfind s.harts agent).isSome then modHart s agent (fun h => { h with lateFaults := h.lateFaults ++ [va] }) else s
/-- Performs a write at its home. Answers false, with nothing written, while the write is held; the first write to a gesso
chunk starts the chunk's initialisation and is held until it ends (15 R344). A write that meets a poisoned granule and
does not cover it whole performs nothing (R342). -/
def homeWrite (s : State) (agent : Nat) (l : Loc) (bs : List Byte) : State × Bool :=
  let n := bs.length
  if heldWrite s agent l n then (s, false)
  else match l with
    | .mem a =>
      if gesso s.mem a then (modMem s (fun m => { m with inits := tset false m.inits (chunkOf a) true }), false)
      else if poisoned s l n then (notePoison s l, true)
      else
        (noteWrite (modMem s (fun m => tagWritten s (writeBytes m l bs) a n)) agent l n, true)
    | _ => (modMem s (fun m => writeBytes m l bs), true)
def homeWriteN (s : State) (agent : Nat) (l : Loc) (n : Nat) (v : DWord) : State × Bool :=
  homeWrite s agent l (leBytes n v.toNat)

/-- Minimum, maximum and the bitwise and arithmetic operations of an RMW on n-byte values (09 R228; 05 R129). `cmp` is the
compare value of CAS. -/
def rmwInt (o : Rmw) (n : Nat) (old v cmp : Nat) : Nat :=
  let w := 8 * n
  let sg (x : Nat) : Int := (BitVec.ofNat w x).toInt
  let old := old % 2 ^ w; let v := v % 2 ^ w
  match o with
  | .add => (old + v) % 2 ^ w
  | .min => if sg v < sg old then v else old
  | .max => if sg old < sg v then v else old
  | .minu => min old v
  | .maxu => max old v
  | .and => Nat.land old v
  | .or => Nat.lor old v
  | .xor => Nat.xor old v
  | .swap => v
  | .cas => if old = cmp % 2 ^ w then v else old
  | .fadd => v
end HomeOrder

section FullEmpty
/-- The full-empty bit of the word at a place is full (04 R89); unlisted scratchpad words are full, unlisted mailbox slots are
empty (R87; 18 R395). -/
def isFull (m : Mem) (l : Loc) : Bool :=
  match l with
  | .win o => !(tget false m.empty (o / 4))
  | .mbox b => tget false m.mboxFull (b / 4)
  | _ => false
def setFull (m : Mem) (l : Loc) (full : Bool) : Mem :=
  match l with
  | .win o => { m with empty := tset false m.empty (o / 4) (!full) }
  | .mbox b => { m with mboxFull := tset false m.mboxFull (b / 4) full }
  | _ => m
/-- One full-empty operation at its owner as one indivisible step; nothing while it must wait (R89). -/
def feTry (m : Mem) (op : FeOp) (l : Loc) (data : Word) : Option (Mem × Word) :=
  let w : Word := (readLoc m l 4).setWidth 32
  match op with
  | .ldfe => if isFull m l then some (setFull m l false, w) else none
  | .ldff => if isFull m l then some (m, w) else none
  | .stef => if isFull m l then none else some (setFull (writeLoc m l 4 (data.setWidth 64)) l true, w)
  | .stff => some (setFull (writeLoc m l 4 (data.setWidth 64)) l true, w)
end FullEmpty

end Sys2Proof.Machine
end

