-- ==== Sys2Proof/Machine/Trace.lean ====
section
/-! DEFINITION. The trace streams of Kiwiow (16 R359–R365, R370–R374): the packets of an event in the form each enabled ring
receives, and their writing into the ring. -/
namespace Sys2Proof.Machine

/-- A grant byte in force for a class (R362, R363): bits 7:6 the code, bits 5:0 the exponent. -/
def grantOf (p : Part) (c : Nat) : BitVec 8 := tget (if c = 5 then 0xC0 else 0) p.grants c
def grantCode (p : Part) (c : Nat) : Nat := field (grantOf p c).toNat 6 2
def grantK (p : Part) (c : Nat) : Nat := field (grantOf p c).toNat 0 6

/-- LEB128 of a number, least significant group first. -/
def leb : Nat → Nat → List Byte
  | 0, _ => []
  | f + 1, n => if n < 128 then [BitVec.ofNat 8 n] else BitVec.ofNat 8 (n % 128 + 128) :: leb f (n / 128)
def leb128 (n : Nat) : List Byte := leb 10 n

/-- The form of a reader (R374): program counters 0 exact, 1 region, 2 absent; times exact, coarse or withheld; fault details 0
exact, 1 page, 2 withheld. -/
structure Form where
  pc : Nat := 0
  dataOut : Bool := true
  coarse : Option Nat := some 0
  markers : Bool := true
  fault : Nat := 0
  deriving DecidableEq, Repr
def operatorForm (p : Part) : Form :=
  let three := fun c => match grantCode p c with
    | 1 => 0
    | 2 => 1
    | _ => 2
  { pc := three 9, dataOut := grantCode p 10 == 1,
    coarse := (match grantCode p 11 with
      | 1 => some 0
      | 2 => some (grantK p 11)
      | _ => none),
    markers := grantCode p 12 == 1, fault := three 13 }
def Form.time (f : Form) (t : Nat) : Nat :=
  match f.coarse with
  | none => 0
  | some k => t - t % 2 ^ k
def Form.pcBytes (f : Form) (pc : DWord) : List Byte :=
  match f.pc with
  | 0 => leb128 (pc.toNat / 4)
  | 1 => leb128 (pc.toNat / 4096)
  | _ => []
def hdr (ty arg : Nat) : Byte := BitVec.ofNat 8 (ty + 16 * arg)

/-- The bytes of a packet before its dt (R371), or nothing where the form drops it. -/
def packetBytes (f : Form) : TraceEv → Option (List Byte)
  | .br t => some [hdr 3 (if t then 1 else 0)]
  | .ind a => some (hdr 4 f.pc :: f.pcBytes a)
  | .mask em =>
    if !f.dataOut then some [hdr 5 15]
    else if em = 0 then some [hdr 5 0]
    else if em = BitVec.allOnes 128 then some [hdr 5 1]
    else
      let st := (lowestOne em).getD 0; let n := countOnes em
      if em = BitVec.ofNat 128 ((2 ^ n - 1) * 2 ^ st) then some [hdr 5 2, BitVec.ofNat 8 st, BitVec.ofNat 8 (n - 1)]
      else some (hdr 5 3 :: leBytes 16 em.toNat)
  | .lpc v => some (hdr 10 f.pc :: f.pcBytes v)
  | .cnt n => some (if f.dataOut then hdr 11 0 :: leb128 n else [hdr 11 15])
  | .mark n => if f.markers then some [hdr 6 (n / 256 % 16), BitVec.ofNat 8 n] else none
  | .trap intr c v =>
    some (match f.fault with
      | 0 => hdr 7 2 :: BitVec.ofNat 8 (c % 128 + (if intr then 128 else 0)) :: leb128 v.toNat
      | 1 => hdr 7 4 :: BitVec.ofNat 8 (c % 128 + (if intr then 128 else 0)) :: leb128 (v.toNat / 4096)
      | _ => [hdr 7 0])
  | .exit a => some [hdr 8 a]

/-- Bytes of a ring, its LEN in 64-byte units (R360). -/
def ringSize (cfg : DWord) : Nat := bitsOf cfg 1 15 * 64
def ringOn (cfg : DWord) : Bool := bitAt cfg 0 && ringSize cfg != 0
/-- Free space (R361). -/
def ringFree (size rd wr : Nat) : Nat := (rd + size - wr % size + size - 1) % size
/-- A write by hardware of its own record, performed at its home at once; each gesso chunk it touches is initialised first (15 R344). -/
def hwWrite (s : State) (agent : Nat) (l : Loc) (bs : List Byte) : State :=
  match l with
  | .mem a =>
    let s := (spanChunks a bs.length).foldl (fun s c => if gesso s.mem (c * 65536) then openChunk s c else s) s
    noteWrite (modMem s (fun m => tagWritten s (writeBytes m l bs) a bs.length)) agent l bs.length
  | _ => modMem s (fun m => writeBytes m l bs)
/-- Whether a ring may be written: every byte in local memory of the reader's partition (R360, R361). -/
def ringReach (s : State) (part base size : Nat) : Bool :=
  decide (base + size ≤ 2 ^ 39) && partOf s (homeOf base) == some part && partOf s (homeOf (base + size - 1)) == some part
/-- A ring write of n bytes from offset wr on meets a poisoned granule (15 R342). -/
def ringPoison (s : State) (base size wr n : Nat) : Bool :=
  anyPoison s (base + wr) (min n (size - wr)) || (decide (size - wr < n) && anyPoison s base (n - (size - wr)))
/-- Writes bytes into a ring from offset wr on, wrapping. -/
def ringWrite (s : State) (base size wr : Nat) (bs : List Byte) : State :=
  let k := size - wr
  let s := hwWrite s 0xFFFFFF (.mem (base + wr)) (bs.take k)
  if bs.length ≤ k then s else hwWrite s 0xFFFFFF (.mem base) (bs.drop k)

def kiwiowAt (s : State) (b : Nat) : Kiwiow := tget {} s.kiwiow b
def setKiwiow (s : State) (b : Nat) (k : Kiwiow) : State := { s with kiwiow := tput s.kiwiow b k }
/-- The partition whose memory a block's rings lie in: 15 for the physical function's blocks, which are numbered 0–15; block
64 + f belongs to virtual function f and its bound partition (R360). -/
def ringPart (s : State) (b : Nat) : Nat := if b < 64 then 15 else (tget {} s.vfs (b - 64)).pid

/-- Writes one packet into one block's trace ring, with the SYNC, CTX and LOSS it needs (R372, R373). A packet that does not fit is
dropped and counted with the SYNC and CTX it would have had (R376). -/
def ringPacket (s : State) (b : Nat) (f : Form) (src : Nat × Nat) (pc : DWord) (ev : TraceEv) : State :=
  let k := kiwiowAt s b
  let size := ringSize k.trc; let base := bitsOf k.trc 16 48 * 65536
  match packetBytes f ev with
  | none => s
  | some body =>
    if !ringOn k.trc then s
    else if !ringReach s (ringPart s b) base size then setKiwiow s b { k with trc := setBitAt k.trc 0 false }
    else
      let st := k.stream
      let t := f.time s.clk
      let sync : List Byte := hdr 1 0 :: leBytes 8 t
      let ctx : List Byte := hdr 2 f.pc :: BitVec.ofNat 8 src.1 :: BitVec.ofNat 8 src.2 :: f.pcBytes pc
      let free := ringFree size k.trcRd.toNat k.trcWr.toNat
      let formSync := !st.opened || decide (s.clk ≥ st.syncTime + 4096) || decide (st.sinceSync ≥ 64)
      let formCtx := formSync || st.lastSrc != some src
      let needSync := st.loss || formSync
      let needCtx := st.loss || formCtx
      let dt := if needSync then 0 else t - st.lastTime
      let lossB := if st.loss then hdr 9 0 :: leb128 st.lost else []
      let bs := lossB ++ (if needSync then sync else []) ++ (if needCtx then ctx else []) ++ body ++ leb128 dt
      if bs.length > free then
        setKiwiow s b { k with stream := { st with
          opened := true, loss := true, lost := st.lost + (if formSync then 1 else 0) + (if formCtx then 1 else 0) + 1, lastTime := t,
          lastSrc := some src, sinceSync := if formSync then 0 else st.sinceSync, syncTime := if formSync then s.clk else st.syncTime } }
      -- an access fault on a ring write clears EN and writes nothing more (R361)
      else if ringPoison s base size k.trcWr.toNat bs.length then
        setKiwiow (notePoisonSpan s (base + k.trcWr.toNat) bs.length) b { k with trc := setBitAt k.trc 0 false }
      else
        let s := ringWrite s base size k.trcWr.toNat bs
        let n := (if needSync then 0 else st.sinceSync) + (if needCtx then 1 else 0) + 1
        setKiwiow s b { k with
          trcWr := wd ((k.trcWr.toNat + bs.length) % size),
          stream := { st with opened := true, loss := false, lost := 0, lastTime := t, lastSrc := some src, sinceSync := n,
                              syncTime := if needSync then s.clk else st.syncTime } }

/-- The slot byte of a source: bit 7 for a rotation slot. -/
def slotByte (h : Hart) : Nat :=
  if h.tasklet then (match h.place with
    | .slot _ i => 128 + i
    | _ => 128) else h.slot

/-- An event of an agent's instruction at a pc joins those of its clk (R370). -/
def traceAt (s : State) (k : Nat) (pc : DWord) (ev : TraceEv) : State :=
  if s.kiwiow.isEmpty then s
  else
    let h := hartAt s k
    { s with traced := s.traced ++ [{ tile := h.tile, slot := slotByte h, part := (partOf s h.tile).getD 15, pc := pc, ev := ev }] }
def traceEvent (s : State) (k : Nat) (ev : TraceEv) : State := traceAt s k (hartAt s k).pc ev
/-- The last lane instruction of an LRUNR's batch has passed its fault point, and the LRUNR retires (06 R144; R370). -/
def traceBatch (s : State) (k : Nat) (e : LaneEntry) : State :=
  match e.cnt with
  | some n => if e.rem = 1 then traceAt s k e.pc (.cnt n) else s
  | none => s
/-- Writes an event's packet into every enabled ring of its partition: the exact form to the partition's own readers, the granted
form to the operator (R365, R370). -/
def ringsPacket (s : State) (x : Traced) : State :=
  let src := (x.tile, x.slot)
  s.kiwiow.foldl (fun s e =>
    let b := e.1
    if b ≥ 64 then
      let v := tget {} s.vfs (b - 64)
      if v.en && v.pid == x.part && v.tstate == .run then ringPacket s b {} src x.pc x.ev else s
    else if b == x.part then
      if x.part == 15 then ringPacket s b {} src x.pc x.ev
      else if grantCode (partAt s x.part) 8 == 1 then ringPacket s b (operatorForm (partAt s x.part)) src x.pc x.ev else s
    else s) s
/-- Packets of one clk appear in increasing tile index, then increasing slot; those of one agent in their own order (R372). -/
def insertTraced (x : Traced) : List Traced → List Traced
  | [] => [x]
  | y :: r => if x.tile * 256 + x.slot < y.tile * 256 + y.slot then x :: y :: r else y :: insertTraced x r
/-- The packets of a clk that ends. -/
def writeTraced (s : State) : State :=
  (s.traced.foldl (fun l x => insertTraced x l) []).foldl ringsPacket { s with traced := [] }

end Sys2Proof.Machine
end

