-- ==== Sys2Proof/Machine/Translate.lean ====
section
/-! DEFINITION. Two-stage Sv48 translation (14 R311–R316), the regions of the physical map (14 R308, R309), the remote scratch
window (04 R90) and ownership of memory (15 R334). -/
namespace Sys2Proof.Machine

/-- Kinds of access for translation. -/
inductive Acc where
  | fetch
  | load
  | store
  deriving DecidableEq, Repr

/-- What an access is, for the region rules of 09 R217, 05 R129 and 07 R170. -/
inductive Cls where
  | scalar
  | lane
  | amo
  | lrsc
  | fe
  | join
  | lrw
  | home
  | fetch
  | copy
  deriving DecidableEq, Repr

/-- The standard exception causes, by kind of access. -/
def causeMisaligned : Acc → Nat
  | .fetch => 0
  | .load => 4
  | .store => 6
def causeAccess : Acc → Nat
  | .fetch => 1
  | .load => 5
  | .store => 7
def causePage : Acc → Nat
  | .fetch => 12
  | .load => 13
  | .store => 15
def causeGuest : Acc → Nat
  | .fetch => 20
  | .load => 21
  | .store => 23

/-- The registers a translation uses. -/
structure Ctx where
  priv : Priv := .u
  virt : Bool := false
  satp : DWord := 0
  hgatp : DWord := 0
  sumB : Bool := false
  /-- MXR of the first stage, and of HS for the G-stage -/
  mxr1 : Bool := false
  mxr2 : Bool := false
  /-- HLVX: execute permission takes the place of read permission -/
  hlvx : Bool := false
  /-- the partition the access and its first-stage walk act for (15 R330) -/
  part : Nat := 15
  /-- the structure that caches its translations, numbered as `Tlb.tile`, and the launch that tags them there (14 R315) -/
  tile : Nat := 0
  lkey : Nat := 0
  deriving DecidableEq, Repr

/-- Why a walk fails. -/
inductive XErr where
  | page
  | access
  /-- a table entry whose granule is poisoned, or fails its tag check, at this physical address (15 R342) -/
  | tag (pa : Nat)
  /-- a table entry in a place that is held, at this physical address: the walk waits (14 R316; 04 R106) -/
  | held (pa : Nat)
  | guest (gpa : Nat) (implicit : Bool)
  deriving DecidableEq, Repr

/-- Whether an agent of a partition reaches local main memory at an address; memory homed in no rectangle is M mode's alone
(R334). -/
def mayReach (s : State) (part : Nat) (mMode : Bool) (pa : Nat) : Bool :=
  decide (pa < 2 ^ 39) &&
    (match partOf s (homeOf pa) with
     | some p => p == part
     | none => mMode)

/-- A PTE read by a walker: a coherent read at its home (R316), under R334, R342 and 04 R106. -/
def readPte (s : State) (part : Nat) (pa : Nat) : Except XErr Nat :=
  if !mayReach s part false pa then .error .access
  else if heldRead s (.mem pa) 8 then .error (.held pa)
  else if poisoned s (.mem pa) 8 then .error (.tag pa)
  else .ok (leNat (getBytes s.mem.bytes pa 8))

/-- A PTE's fields (R311). -/
def pteV (p : Nat) : Bool := p.testBit 0
def pteR (p : Nat) : Bool := p.testBit 1
def pteW (p : Nat) : Bool := p.testBit 2
def pteX (p : Nat) : Bool := p.testBit 3
def pteU (p : Nat) : Bool := p.testBit 4
def pteG (p : Nat) : Bool := p.testBit 5
def pteA (p : Nat) : Bool := p.testBit 6
def pteD (p : Nat) : Bool := p.testBit 7
def ptePpn (p : Nat) : Nat := field p 10 44
def pteMode (p : Nat) : Nat := field p 54 2

/-- What a walk finds: the leaf, its level, and the non-leaf entries on its way with their levels. -/
structure Leaf where
  pte : Nat
  lvl : Nat
  path : List (Nat × Nat) := []
  deriving DecidableEq, Repr

/-- A table entry: the walk cache's where it holds one, else the one that is read. -/
def walkRead (rd : Nat → Except XErr Nat) (hit : Option Nat) (a : Nat) : Except XErr Nat :=
  match hit with
  | some p => .ok p
  | none => rd a
/-- One walk: table `tbl` at level f − 1, where `hit` answers the entry of a level from the walk cache (R311, R315). -/
def walkFrom (rd : Nat → Except XErr Nat) (hit : Nat → Option Nat) (bad : XErr) (idx : Nat → Nat) : Nat → Nat → Except XErr Leaf
  | 0, _ => .error bad
  | f + 1, tbl =>
    match walkRead rd (hit f) (tbl + 8 * idx f) with
    | .error e => .error e
    | .ok p =>
      if !pteV p || (pteW p && !pteR p) || field p 61 3 != 0 then .error bad
      else if pteR p || pteX p then
        if field p 56 5 != 0 || pteMode p == 3 || field (ptePpn p) 0 (9 * f) != 0 then .error bad else .ok { pte := p, lvl := f }
      else if field p 54 7 != 0 || pteD p || pteA p || pteU p then .error bad
      else match walkFrom rd hit bad idx f (ptePpn p * 4096) with
        | .error e => .error e
        | .ok l => .ok { l with path := (f, p) :: l.path }

/-- The address a leaf at a level maps an address to. -/
def leafPa (p lvl va : Nat) : Nat := ptePpn p * 4096 + field va 0 (12 + 9 * lvl)

/-- Permission of a first-stage leaf (R313 and the standard rules). -/
def perm1 (c : Ctx) (acc : Acc) (p : Nat) : Bool :=
  let user := match c.priv with
    | .u => pteU p
    | _ => !pteU p || (c.sumB && acc != .fetch)
  let rwx := match acc with
    | .fetch => pteX p
    | .load => if c.hlvx then pteX p else pteR p || (pteX p && (c.mxr1 || c.mxr2))
    | .store => pteW p
  user && rwx && pteA p && (acc != .store || pteD p)
/-- Permission of a G-stage leaf: every access counts as a user access. -/
def perm2 (c : Ctx) (acc : Acc) (p : Nat) : Bool :=
  let rwx := match acc with
    | .fetch => pteX p
    | .load => if c.hlvx then pteX p else pteR p || (pteX p && c.mxr2)
    | .store => pteW p
  pteU p && rwx && pteA p && (acc != .store || pteD p)

def satpOn (v : DWord) : Bool := bitsOf v 60 4 == 9
def satpRoot (v : DWord) : Nat := bitsOf v 0 44 * 4096

def Ctx.asid (c : Ctx) : Nat := bitsOf c.satp 44 16
def Ctx.vmid (c : Ctx) : Nat := bitsOf c.hgatp 44 14
/-- Whether both stages are in force. -/
def Ctx.guest (c : Ctx) : Bool := c.virt && satpOn c.hgatp

/-- A non-leaf entry of a stage as the walk cache keeps it (R315). One of a guest's first stage was read through the G-stage, so that
any guest-physical address names it: its lvl2 is above every level. -/
def walkEntry1 (c : Ctx) (glob : Bool) (va : Nat) (e : Nat × Nat) : Tlb :=
  { tile := c.tile, virt := c.virt, vmid := c.vmid, asid := c.asid, glob := glob, stage1 := true, stage2 := c.guest,
    vpage := va / 4096, leaf1 := BitVec.ofNat 64 e.2, lvl1 := e.1, lvl2 := 5 }
def walkEntry2 (c : Ctx) (gpa : Nat) (e : Nat × Nat) : Tlb :=
  { tile := c.tile, virt := c.virt, vmid := c.vmid, asid := c.asid, stage2 := true, gpage := gpa / 4096, leaf2 := BitVec.ofNat 64 e.2,
    lvl2 := e.1 }
/-- The first-stage entry of a level that the walk cache of the core holds for an address. -/
def walkHit1 (s : State) (c : Ctx) (va lvl : Nat) : Option Nat :=
  (s.mem.walkCache.find? (fun t => t.stage1 && t.tile == c.tile && t.virt == c.virt && t.stage2 == c.guest && (t.asid == c.asid || t.glob) &&
    (!t.stage2 || t.vmid == c.vmid) && t.lvl1 == lvl && t.vpage / 512 ^ lvl == va / 4096 / 512 ^ lvl)).map (fun t => t.leaf1.toNat)
/-- The G-stage entry of a level that it holds for a guest-physical address. -/
def walkHit2 (s : State) (c : Ctx) (gpa lvl : Nat) : Option Nat :=
  (s.mem.walkCache.find? (fun t => !t.stage1 && t.tile == c.tile && t.vmid == c.vmid && t.lvl2 == lvl &&
    t.gpage / 512 ^ lvl == gpa / 4096 / 512 ^ lvl)).map (fun t => t.leaf2.toNat)
/-- The entries that a first-stage walk leaves for the walk cache: the G bit of one holds for all below it. -/
def walkPath1 (c : Ctx) (va : Nat) : Bool → List (Nat × Nat) → List Tlb
  | _, [] => []
  | g, e :: es => walkEntry1 c (g || pteG e.2) va e :: walkPath1 c va (g || pteG e.2) es

/-- The G-stage of a guest-physical address: Sv48x4 (R311; 05 R129). -/
def gStage (s : State) (c : Ctx) (acc : Acc) (implicit : Bool) (gpa : Nat) : Except XErr (Nat × Option Leaf) :=
  if !satpOn c.hgatp then .ok (gpa, none)
  else
    let bad := XErr.guest gpa implicit
    if gpa ≥ 2 ^ 50 then .error bad
    else
      let root := bitsOf c.hgatp 2 42 * 16384
      match walkFrom (readPte s 15) (walkHit2 s c gpa) bad (fun l => if l == 3 then field gpa 39 11 else field gpa (12 + 9 * l) 9)
          4 root with
      | .error e => .error e
      | .ok l => if perm2 c acc l.pte then .ok (leafPa l.pte l.lvl gpa, some l) else .error bad

/-- A translated address: physical address, coherence mode (R312; D 0, S 1, U 2) and the leaves a cache would keep. -/
structure Xlat where
  pa : Nat
  mode : Nat := 0
  entry : Option Walk := none
  deriving DecidableEq, Repr

def canonical48 (va : Nat) : Bool := field va 47 17 == 0 || field va 47 17 == 2 ^ 17 - 1

/-- The mode of an access from the leaves of both stages; a stage not in force contributes D (R312). -/
def modeOf (leaf1 leaf2 : Option Nat) : Nat :=
  let m := fun (o : Option Nat) => match o with
    | some p => pteMode p
    | none => 0
  if m leaf1 == 2 || m leaf2 == 2 then 2 else if m leaf1 == 1 && m leaf2 == 1 then 1 else 0

/-- 4 KiB pages that a cached translation covers: those of the smaller of its leaves (R315). -/
def Tlb.pages (t : Tlb) : Nat := 512 ^ (if t.stage1 && t.stage2 then min t.lvl1 t.lvl2 else if t.stage1 then t.lvl1 else t.lvl2)
/-- Whether a cached translation is the one an access would use (R315). -/
def tlbMatches (c : Ctx) (va : Nat) (t : Tlb) : Bool :=
  let st1 := satpOn c.satp; let st2 := c.virt && satpOn c.hgatp
  t.tile == c.tile && t.lkey == c.lkey && t.virt == c.virt && t.stage1 == st1 && t.stage2 == st2 &&
    (!st1 || t.asid == c.asid || t.glob) && (!st2 || t.vmid == c.vmid) && t.vpage / t.pages == va / 4096 / t.pages
/-- The cached translation an access would use, or that of a walk in flight, which a miss on its page joins (R316). -/
def tlbFind (s : State) (c : Ctx) (va : Nat) : Option Tlb :=
  match s.mem.tlbs.find? (tlbMatches c va) with
  | some t => some t
  | none => ((s.mem.walks.filter (fun w => !w.killed)).map (fun w => w.entry)).find? (tlbMatches c va)
/-- The page that a translation gives an address: `page` is that of the address it was walked for. -/
def Tlb.pageOf (t : Tlb) (page va : Nat) : Nat := page / t.pages * t.pages + va / 4096 % t.pages

/-- A full walk of both stages (R311–R314). The first stage's own PTE reads are reads whatever HLVX and MXR say. -/
def walkBoth (s : State) (c : Ctx) (acc : Acc) (va : Nat) : Except XErr Xlat :=
  let first : Except XErr (Nat × Option Leaf) :=
    if !satpOn c.satp then .ok (va, none)
    else if !canonical48 va then .error .page
    else
      let rd := fun a => match (if c.virt then gStage s { c with hlvx := false, mxr2 := false } .load true a else .ok (a, none)) with
        | .error e => .error e
        | .ok (pa, _) => readPte s c.part pa
      match walkFrom rd (walkHit1 s c va) .page (fun l => field va (12 + 9 * l) 9) 4 (satpRoot c.satp) with
      | .error e => .error e
      | .ok l => if perm1 c acc l.pte then .ok (leafPa l.pte l.lvl va, some l) else .error .page
  match first with
  | .error e => .error e
  | .ok (gpa, l1) =>
    match (if c.virt then gStage s c acc false gpa else .ok (gpa, none)) with
    | .error e => .error e
    | .ok (pa, l2) =>
      let e : Tlb := {
        tile := c.tile, lkey := c.lkey, virt := c.virt, vmid := c.vmid, asid := c.asid,
        glob := (match l1 with
          | some l => pteG l.pte || l.path.any (fun e => pteG e.2)
          | none => false),
        stage1 := l1.isSome, stage2 := l2.isSome, vpage := va / 4096, gpage := gpa / 4096, ppage := pa / 4096,
        leaf1 := BitVec.ofNat 64 ((l1.map Leaf.pte).getD 0), leaf2 := BitVec.ofNat 64 ((l2.map Leaf.pte).getD 0),
        lvl1 := (l1.map Leaf.lvl).getD 0, lvl2 := (l2.map Leaf.lvl).getD 0 }
      let path := walkPath1 c va false ((l1.map Leaf.path).getD []) ++ ((l2.map Leaf.path).getD []).map (walkEntry2 c gpa)
      .ok { pa := pa, mode := modeOf (l1.map Leaf.pte) (l2.map Leaf.pte),
            entry := if l1.isSome || l2.isSome then some { entry := e, path := if c.tile < 256 then path else [] } else none }

/-- Translates a virtual address: a cached translation where one matches, a walk otherwise. -/
def xlate (s : State) (c : Ctx) (acc : Acc) (va : Nat) : Except XErr Xlat :=
  if c.priv == .m then .ok { pa := va }
  else match tlbFind s c va with
    | none => walkBoth s c acc va
    | some t =>
      if t.stage1 && !perm1 c acc t.leaf1.toNat then .error .page
      else if t.stage2 && !perm2 c acc t.leaf2.toNat then .error (.guest (t.pageOf t.gpage va * 4096 + va % 4096) false)
      else .ok { pa := t.pageOf t.ppage va * 4096 + va % 4096,
                 mode := modeOf (if t.stage1 then some t.leaf1.toNat else none) (if t.stage2 then some t.leaf2.toNat else none) }

/-- The trap a failed walk raises (R314; 12 R274). An implicit access of the first stage writes the standard pseudo-instruction
to htinst. -/
def xTrap (c : Ctx) (acc : Acc) (va : DWord) : XErr → Trap
  | .page => { cause := causePage acc, tval := va, gva := c.virt }
  | .access => { cause := causeAccess acc, tval := va, gva := c.virt }
  | .tag _ | .held _ => { cause := causeAccess acc, tval := va, gva := c.virt }
  | .guest gpa implicit => { cause := causeGuest acc, tval := va, gva := c.virt, gpa := dw gpa,
                             inst := if implicit then 0x3000 else 0 }
def accTrap (c : Ctx) (acc : Acc) (va : DWord) : Trap := { cause := causeAccess acc, tval := va, gva := c.virt }

/-- Records a walk whose result may be installed (R316): an access that joined a walk in flight starts none, and the lanes of one
instruction start one for each distinct page. -/
def noteWalk (s : State) (x : Xlat) : State :=
  match x.entry with
  | none => s
  | some w => if s.mem.walks.any (fun v => !v.killed && v.entry == w.entry) then s
              else modMem s (fun m => { m with walks := m.walks ++ [w] })

/-- The window offset of an address within a launch's window (R90); a boot group has no window (notes/assumptions/13). -/
def windowOff (s : State) (lkey : Nat) (va : Nat) : Option Nat :=
  if lkey = 0 then none
  else
    let b := (launchAt s lkey).swbase.toNat
    if b ≤ va ∧ va < b + 2 ^ 29 then some (va - b) else none

/-- The held table entry that the walk of an access must wait for, if any (04 R106; 15 R344). -/
def walkHeld (s : State) (c : Ctx) (lkey : Nat) (acc : Acc) (va : DWord) : Option Loc :=
  if (windowOff s lkey va.toNat).isSome then none
  else match xlate s c acc va.toNat with
    | .error (.held pa) => some (.mem pa)
    | _ => none
/-- The walk of an access must wait. -/
def walkWaits (s : State) (c : Ctx) (lkey : Nat) (acc : Acc) (va : DWord) : Bool := (walkHeld s c lkey acc va).isSome
/-- What such an access waits for. -/
def walkWait (s : State) (c : Ctx) (lkey : Nat) (acc : Acc) (va : DWord) : WaitOn :=
  match walkHeld s c lkey acc va with
  | some l => .place l 8 false
  | none => .nothing
/-- A failed walk met a table entry whose tag fails: the granule is marked (15 R342). -/
def noteErr (s : State) : XErr → State
  | .tag pa => notePoison s (.mem pa)
  | _ => s
/-- The window's own checks (R90). -/
def windowOk (s : State) (lkey off n : Nat) : Bool :=
  let tile := field off 21 8; let bank := field off 17 4; let o := field off 0 17
  rectHas (launchAt s lkey).rect tile && decide (o + n ≤ 0x18000) &&
    (match tfind s.bankOwner (tile * 16 + bank) with
     | none => false
     | some w => (wgAt s w).lkey == lkey && (tfind s.wgs w).isSome)

/-- The partition a function's mailbox page belongs to (18 R395). -/
def mailboxPart (s : State) (f : Nat) : Option Nat :=
  if f = 0 then some 15
  else match tfind s.vfs f with
    | none => none
    | some v => if v.en then some v.pid else none

/-- The region of a physical address and the accesses it admits (R308, R309; 09 R217; 15 R334; 18 R396). -/
def place (s : State) (c : Ctx) (acc : Acc) (cls : Cls) (pa n : Nat) : Option Loc :=
  if pa < 2 ^ 39 then
    if mayReach s c.part (c.priv == .m) pa && cls != .fe then some (.mem pa) else none
  else if 0x8000000000 ≤ pa ∧ pa < 0x80000C1000 then
    let f := (pa - 0x8000000000) / 4096; let o := pa % 4096
    if o + n ≤ 0x100 && (cls == .scalar || cls == .lane || cls == .fe) && mailboxPart s f == some c.part then
      some (.mbox (f * 256 + o)) else none
  else if 0x8100000000 ≤ pa ∧ pa < 0x8110000000 then
    if (cls == .scalar || cls == .lane) && decide (field pa 13 7 < 96) then some (.irq (pa - 0x8100000000)) else none
  else if 0x8200000000 ≤ pa ∧ pa < 0x8200010000 then
    if cls == .scalar && c.priv != .u && !c.virt && (n == 4 || n == 8) then some (.ctl (pa - 0x8200000000)) else none
  else if 0x10000000000 ≤ pa ∧ pa < 0x20000000000 then
    if cls == .copy then some (.host (pa - 0x10000000000)) else none
  else if pa.testBit 55 && decide (pa < 2 ^ 56) then
    let pkg := field pa 47 8
    let e := tget {} s.hub.far pkg
    let ok := field pa 39 8 == 0 && e.valid && s.hub.pkgNow.toNat != pkg
    if ok && (cls == .copy || (acc == .store && cls == .lane)) then some (.far pkg (field pa 0 39)) else none
  else none

/-- A located access: where it goes, its page mode, and the state with the walk noted. -/
structure Located where
  loc : Loc
  mode : Nat := 0
  walk : Option Walk := none
  deriving DecidableEq, Repr

/-- An address outside a partition: in local main memory, a mailbox page of another function's partition, host memory or another
package (01 R35). A far address whose bits 46:39 are not zero names no package and raises the access fault (14 R309). DESIGN CHOICE
(notes/assumptions/58): an LR or SC to one of them raises the access fault of 05 R129, and not MIGRATE_FAULT. -/
def outsidePart (s : State) (part : Nat) (cls : Cls) (pa : Nat) : Bool :=
  decide (pa < 2 ^ 39) ||
    (cls != .lrsc &&
      ((decide (0x8000000000 ≤ pa ∧ pa < 0x80000C1000) && mailboxPart s ((pa - 0x8000000000) / 4096) != some part) ||
       decide (0x10000000000 ≤ pa ∧ pa < 0x20000000000) || (pa.testBit 55 && decide (pa < 2 ^ 56) && field pa 39 8 == 0)))
/-- Which trap a place that cannot be reached raises: MIGRATE_FAULT for a tasklet's access that lies outside its launch's partition (01
R35); the access fault where the region itself refuses the access (04 R89; 05 R129; 09 R217; 14 R308). -/
def reachTrap (s : State) (tasklet : Bool) (c : Ctx) (acc : Acc) (cls : Cls) (va : DWord) (pa : Nat) : Trap :=
  if tasklet && acc != .fetch && cls != .fe && outsidePart s c.part cls pa then { cause := 51, tval := va } else accTrap c acc va
/-- A tasklet's access whose home is another tile migrates it before anything of the access is read (01 R35). -/
def movesFirst (tasklet : Bool) (c : Ctx) (acc : Acc) : Loc → Bool
  | .mem a => tasklet && acc != .fetch && homeOf a != c.tile % 256
  | _ => false

/-- Locates an n-byte access at a virtual address: alignment (04 R94; full-empty operations raise the access fault, R89), then
the window, then translation, then the region. DESIGN CHOICE (notes/assumptions/88): a full-empty access whose translation fails raises the
page fault or guest-page fault of that translation, and the access fault of 07 R166 where the place it names is no full-empty word. -/
def locate (s : State) (c : Ctx) (lkey : Nat) (tasklet : Bool) (acc : Acc) (cls : Cls) (va : DWord) (n : Nat) :
    Except Trap Located :=
  if va.toNat % n != 0 then
    .error { cause := if cls == .fe then causeAccess acc else causeMisaligned acc, tval := va, gva := c.virt }
  else match windowOff s lkey va.toNat with
    | some off =>
      if (cls == .scalar || cls == .lane || cls == .amo || cls == .fe || cls == .copy) && windowOk s lkey off n then
        .ok { loc := .win off, mode := 2 } else .error (accTrap c acc va)
    | none =>
      match xlate s c acc va.toNat with
      | .error e => .error (xTrap c acc va e)
      | .ok x =>
        match (if tasklet && x.pa.testBit 55 then none else place s c acc cls x.pa n) with
        | none => .error (reachTrap s tasklet c acc cls va x.pa)
        | some l =>
          if poisoned s l n && !(acc == .store && cls == .copy) && !movesFirst tasklet c acc l then
            .error (accTrap c acc va)
          else .ok { loc := l, mode := (match l with
            | .mem _ => x.mode
            | _ => 2), walk := x.entry }
/-- A read that meets a granule whose tag fails, or walks through one, marks it poisoned and counts the failure of its channel (15
R342). -/
def notePoisonAt (s : State) (c : Ctx) (lkey : Nat) (acc : Acc) (va : DWord) (n : Nat) : State :=
  if va.toNat % n != 0 || (windowOff s lkey va.toNat).isSome then s
  else match xlate s c acc va.toNat with
  | .ok x => if mayReach s c.part (c.priv == .m) x.pa && poisoned s (.mem x.pa) n then notePoison s (.mem x.pa) else s
  | .error e => noteErr s e
def Located.note (l : Located) (s : State) : State := noteWalk s { pa := 0, mode := 0, entry := l.walk }

/-- The translation context of an agent's scalar and lane data accesses (12 R266; the standard MPRV rule). -/
def dataCtx (h : Hart) : Ctx :=
  let st := h.getC 0x300
  let mprv := h.priv == .m && bitAt st 17
  let p : Priv := if mprv then (match bitsOf st 11 2 with
    | 0 => .u
    | 1 => .s
    | _ => .m) else h.priv
  let v : Bool := if mprv then bitAt st 39 && p != .m else h.virt
  { priv := p, virt := v, satp := if v then h.getC 0x280 else h.getC 0x180, hgatp := h.getC 0x680,
    sumB := if v then bitAt (h.getC 0x200) 18 else bitAt st 18,
    mxr1 := if v then bitAt (h.getC 0x200) 19 else bitAt st 19, mxr2 := bitAt st 19,
    part := h.actsFor, tile := if h.tasklet then 512 + h.tile else h.tile, lkey := if h.tasklet then h.lkey else 0 }
/-- The translation context of its instruction fetch. -/
def fetchCtx (h : Hart) : Ctx :=
  { dataCtx h with priv := h.priv, virt := h.virt, satp := if h.virt then h.getC 0x280 else h.getC 0x180,
                   part := h.actsFor }
/-- One 32-bit word of instruction fetch (01 R15): coherent bytes at their home. -/
def fetchWord (s : State) (h : Hart) (a : DWord) : Except Trap (Located × Word) :=
  match locate s (fetchCtx h) h.lkey h.tasklet .fetch .fetch a 4 with
  | .error t => .error t
  | .ok l => .ok (l, (readLoc s.mem l.loc 4).setWidth 32)
/-- Holder and lines of a core's scalar and lane instruction caches (00 R8). -/
def instrHolder (tile : Nat) (lane : Bool) : Nat := if lane then 2304 + tile else 2048 + tile
def instrLines (lane : Bool) : Nat := if lane then 1024 else 512
/-- A fetch reaches its home's slice unless the core's instruction cache holds the line, which it does of D pages alone (17 R390). DESIGN
CHOICE (notes/assumptions/65): a full cache gives up the line of the lowest number but the one just fetched. -/
def noteFetch (s : State) (h : Hart) (lane : Bool) (l : Located) : State :=
  match l.loc with
  | .mem a =>
    let holder := instrHolder h.tile lane; let d := dirKey (a / 64) holder
    if l.mode ≠ 0 ∨ h.tasklet then l2Touch s (a / 64)
    else if tget 0 s.mem.dir d = 0xFFFF then s
    else modMem (l2Touch s (a / 64)) (fun m =>
      let dir := tset 0 m.dir d 0xFFFF
      let excess := (dir.filter (fun e => e.1 % 4096 == holder)).length - instrLines lane
      { m with dir := dropFirst (fun e => e.1 % 4096 == holder && e.1 != d) excess dir })
  | _ => s
/-- The context of hypervisor loads and stores: the guest's, at the privilege of hstatus.SPVP. -/
def hlvCtx (h : Hart) (x : Bool) : Ctx :=
  { priv := if bitAt (h.getC 0x600) 8 then .s else .u, virt := true, satp := h.getC 0x280, hgatp := h.getC 0x680,
    sumB := bitAt (h.getC 0x200) 18, mxr1 := bitAt (h.getC 0x200) 19, mxr2 := bitAt (h.getC 0x300) 19, hlvx := x,
    part := h.actsFor, tile := h.tile }
/-- The structures of some tiles that cache translations, numbered as `Tlb.tile`: their cores', the streamers' that serve them and their
home cores' (14 R315). -/
def cachesOf (on : Nat → Bool) (t : Nat) : Bool :=
  if t < 256 then on t else if t < 512 then (List.range 256).any (fun u => clusterOf u + 256 == t && on u) else on (t - 512)
/-- The context of a launch's own accesses by hardware agents: its captured registers in user mode (12 R267). -/
def launchCtx (l : Launch) (tile : Nat) : Ctx :=
  let g := fun n => tget 0 l.caps n
  { priv := .u, virt := l.virt, satp := if l.virt then g 0x280 else g 0x180, hgatp := g 0x680,
    part := if l.virt then l.pid else 15, tile := tile }

end Sys2Proof.Machine
end

