-- ==== Sys2Proof/Machine/Ops.lean ====
section
/-! DEFINITION. The named operations that meanings share: writes on their way to their homes and an agent's own view of them
(14 R318, R323–R328), read-modify-writes at the home (04 R103), reservations (07 R172), pending lane results (05 R137), taking an
exception or interrupt (12 R274) and returning from one, and retirement. -/
namespace Sys2Proof.Machine

section Routes
/-- The default record of a router (15 R338): X, then Y. -/
def defaultRoute (r : BitVec 32) (t d : Nat) : Nat :=
  if d = t then 0
  else if !rectHas r d then 6
  else if tileCol t < tileCol d then 2
  else if tileCol d < tileCol t then 4
  else if tileRow d < tileRow t then 1 else 3
/-- The next-hop code a router uses (15 R335, R336, R338). -/
def routerCode (s : State) (t d : Nat) : Nat :=
  match tfind s.routers t with
  | some r => (r.getD d 0).toNat
  | none => (match partOf s t with
    | some p => defaultRoute (partAt s p).rect t d
    | none => if d = t then 0 else 6)
/-- The tile a direction code leads to (15 R336). -/
def hopTo (t c : Nat) : Nat :=
  match c with
  | 1 => t - 16
  | 2 => t + 1
  | 3 => t + 16
  | _ => t - 1
/-- The tiles a packet crosses by its partition's records, or nothing where one drops it (15 R335, R336). An adaptive hop is taken along
the row first, one of the hops that shorten the path. -/
def routeFrom : Nat → State → Nat → Nat → Option (List Nat)
  | 0, _, _, _ => none
  | f + 1, s, t, d =>
    match routerCode s t d with
    | 0 => some [t]
    | 5 =>
      let port := if tileCol t < tileCol d then 2 else if tileCol d < tileCol t then 4 else if tileRow d < tileRow t then 1 else 3
      (routeFrom f s (hopTo t port) d).map (fun l => t :: l)
    | c => if 1 ≤ c ∧ c ≤ 4 then (routeFrom f s (hopTo t c) d).map (fun l => t :: l) else none
/-- The fixed route of a hub channel between a tile and the hub: along the tile's row to column 0 (15 R335). -/
def hubLeg (t : Nat) : List Nat := ((List.range (tileCol t + 1)).map (fun i => tileRow t * 16 + i)).reverse
/-- The tile at which a place lives; 256 is the hub. -/
def homeTile : Loc → Nat
  | .mem a => homeOf a
  | .win o => field o 21 8
  | _ => 256
/-- The hub channel of a packet: its partition's, unless it stays inside its partition's rectangle (15 R335). -/
def hubChannel (s : State) (p src : Nat) (l : Loc) : Option Nat :=
  if inPart s p src && homeTile l != 256 && inPart s p (homeTile l) then none else some p
/-- The route of a packet: by its partition's records, or over its hub channel to the hub and from there (15 R335). -/
def packetRoute (s : State) (r : Req) : Option (List Nat) :=
  let d := homeTile r.loc
  match r.hub with
  | none => routeFrom 32 s r.src d
  | some _ => some ((if r.src < 256 then hubLeg r.src else []) ++ (if d < 256 then (hubLeg d).reverse else []))
/-- A packet of a partition between a tile and a place that a router's record drops never arrives (15 R335, R336). -/
def dropped (s : State) (p src : Nat) (l : Loc) : Bool := (packetRoute s { src := src, loc := l, hub := hubChannel s p src l }).isNone
/-- The packets that wait on a partition's hub channel, in order (15 R335, R351). -/
def hubQueue (s : State) (p : Nat) : List Req := s.mem.net.filter (fun r => r.hub == some p)
end Routes

section Net
/-- The new value of an RMW: integer operations wrap at the access width; an f32 add is one RNE addition (04 R104; 09 R228). -/
def rmwVal (o : Rmw) (n : Nat) (old v cmp : DWord) : DWord :=
  match o with
  | .fadd => dw (fAdd fmtF32 0 false (old.toNat % 2 ^ 32) (v.toNat % 2 ^ 32)).1
  | o => dw (rmwInt o n old.toNat v.toNat cmp.toNat)
/-- A 32-bit store of an identity to a slot's seteipnum_le page (12 R278; 14 R308): other offsets and sizes are ignored, and so
is a message to a slot that is EMPTY or EXITED. -/
def imsicStore (s : State) (tile slot file : Nat) (ident : Nat) : State :=
  let k := hartKey tile slot; let h := hartAt s k
  if h.run == .empty || h.run == .exited || ident = 0 || ident > 63 then s
  else setHart s k (if file = 0 then { h with irqS := { h.irqS with eip := h.irqS.eip ||| (1 <<< ident) } }
                    else { h with irqG := { h.irqG with eip := h.irqG.eip ||| (1 <<< ident) } })
/-- A write to a partition control page: PCOH.LEASE, where 0 stores 1 (14 R310); other offsets are ignored. -/
def ctlStore (s : State) (o n : Nat) (v : DWord) : State :=
  if o % 4096 = 0 && (n == 4 || n == 8) then
    modPart s (o / 4096) (fun p => { p with lease := max 1 (bitsOf v 0 14) }) else s
/-- A write from a compute core to an S word, or a copy to it, drops the core's own cached copies of its lines (14 R327). -/
def dropCopies (s : State) (tile : Nat) (l : Loc) (n : Nat) : State :=
  match l with
  | .mem a => modMem s (fun m => { m with copies := m.copies.filter (fun c =>
      !(c.holder / 16 == tile && decide (a / 64 ≤ c.line ∧ c.line ≤ (a + n - 1) / 64))) })
  | _ => s
/-- A write to an S word that enters home order drops its core's copies again: one filled while it travelled holds the old word (04 R101;
14 R318). -/
def entered (s : State) (r : Req) : State := if r.mode == 1 then dropCopies s r.src r.loc r.size else s
/-- A tasklet's loads that have not returned: its later stores wait at their homes for them (01 R36; 04 R102). -/
def loadsOpen (s : State) (k : Nat) : Bool := (hartAt s k).loads.any (fun p => p.value.isNone)
/-- A posted write that found its granule poisoned performed nothing, and its agent is told (15 R342). -/
def postedFault (s : State) (r : Req) (bad : Bool) : State := if bad then lateFault s r.agent r.va else s
/-- Performs one write at its home (R103): false while it is held. A far write leaves for its port (18 R396). A packet that a router's
record drops is gone (15 R336). -/
def performReq (s : State) (r : Req) : State × Bool :=
  if loadsOpen s r.agent then (s, false)
  else match r.loc with
  | .far pkg _ =>
    let e := tget {} s.hub.far pkg
    (modMem s (fun m => { m with farOut := m.farOut ++ [{ req := r, port := e.port, part := e.part }] }), true)
  | .irq o =>
    (if o % 4096 = 0 && r.size == 4 then imsicStore s (field o 20 8) (field o 13 7) (field o 12 1) (bitsOf r.data 0 32) else s, true)
  | .ctl o => (ctlStore s o r.size r.data, true)
  | l =>
    if (packetRoute s r).isNone then (s, true)
    else match r.red with
    | none => (match homeWriteN s r.agent l r.size r.data with
      | (t, true) => (entered (postedFault t r (poisoned s l r.size)) r, true)
      | (s, false) => (s, false))
    | some o =>
      if heldWrite s r.agent l r.size then (s, false)
      else match homeWriteN s r.agent l r.size (rmwVal o r.size (readLoc s.mem l r.size) r.data 0) with
        | (t, true) => (count (entered (postedFault t r (poisoned s l r.size)) r) 3 (homeTile l) 0 2 1, true)
        | (s, false) => (s, false)
/-- A CXL function as an agent (04 R111). -/
def hostAgent (k : Nat) : Bool := decide (0x200000 ≤ k ∧ k < 0x300000)
/-- Whether a write must follow one of those that left before it: any to a word of its own by its agent, or one that its agent's acquires
obtained (14 R318; 04 R99, R103), and any earlier one of its own CXL function (04 R111). Writes that nothing orders do not wait for each
other, so that a queued remote update holds back no other agent's store (13 R303). -/
def behind (l : List Req) (r : Req) : Bool :=
  let w := wordSpan r.loc r.size
  l.any (fun q => !q.read && ((hostAgent r.agent && q.agent == r.agent) ||
    ((q.agent == r.agent || q.covers.contains r.agent) && overlaps q.loc q.size w.1 w.2)))
/-- One travelling write, where those that pass `p` are performed: the state, the writes that stay, and whether all that passed have
gone. Remote updates wait for their update units (13 R303), set-full writes for their slots, and a CXL.mem read for its own turn. -/
def flushOne (p : Req → Bool) (a : State × List Req × Bool) (r : Req) : State × List Req × Bool :=
  if !p r then (a.1, a.2.1 ++ [r], a.2.2)
  else if r.red.isSome || r.full || r.read || behind a.2.1 r then (a.1, a.2.1 ++ [r], false)
  else (match performReq a.1 r with
    | (s, true) => (s, a.2)
    | (s, false) => (s, a.2.1 ++ [r], false))
/-- Performs, in order, the travelling writes that pass `p`, but for those that are held and those behind one that stays. -/
def flushIf (p : Req → Bool) (s : State) : State × Bool :=
  let a := s.mem.net.foldl (flushOne p) (s, [], true)
  (modMem a.1 (fun m => { m with net := a.2.1 }), a.2.2)
/-- A write of an agent, or one that its acquires have obtained while it was held: what its releases cover (04 R100, R105). -/
def coveredBy (k : Nat) (r : Req) : Bool := r.agent == k || r.covers.contains k
/-- Brings every write that an agent's release covers into home order (R105, R173); false while one is held, waits for its update unit,
or is a far write not acknowledged. -/
def flushAgent (s : State) (k : Nat) : State × Bool :=
  let (s, ok) := flushIf (coveredBy k) s
  (s, ok && !s.mem.farOut.any (fun f => coveredBy k f.req))
/-- Brings an agent's writes to the words of a span into home order (R318). -/
def flushWord (s : State) (k : Nat) (l : Loc) (n : Nat) : State × Bool :=
  let w := wordSpan l n
  flushIf (fun r => r.agent == k && overlaps r.loc r.size w.1 w.2) s
/-- A release of core scope by an agent, which waits for nothing, covers its earlier writes and those it obtained (04 R97, R99). -/
def markReleased (s : State) (k : Nat) : State :=
  let mark := fun (r : Req) => if coveredBy k r then { r with released := true } else r
  modMem s (fun m => { m with net := m.net.map mark, farOut := m.farOut.map (fun f => { f with req := mark f.req }) })
/-- What an acquire obtains of the releases of core or workgroup scope by the agents of its tile (04 R97, R99): the writes they covered
enter home order, and those that cannot yet are the acquiring agent's to wait for from then on. -/
def obtainTile (s : State) (t k : Nat) : State :=
  let mark := fun (r : Req) => if r.src == t && r.released && !coveredBy k r then { r with covers := k :: r.covers } else r
  modMem (flushIf (fun r => r.src == t && r.released) s).1 (fun m => { m with
    net := m.net.map mark, farOut := m.farOut.map (fun f => { f with req := mark f.req }) })
/-- A write that an agent's acquires have obtained has not reached the span: the agent's access must not overtake it (04 R99, R101). -/
def peerPending (s : State) (k : Nat) (l : Loc) (n : Nat) : Bool :=
  s.mem.net.any (fun r => r.agent != k && r.covers.contains k && overlaps r.loc r.size l n)
/-- An agent's access to a span does not come back yet: it must not overtake a write that its acquires obtained, or a record drops its
packet. -/
def unanswered (s : State) (k : Nat) (l : Loc) (n : Nat) : Bool :=
  peerPending s k l n || dropped s (hartAt s k).actsFor (hartAt s k).tile l
/-- Whether an agent has writes that have not entered home order. -/
def hasWrites (s : State) (k : Nat) : Bool :=
  s.mem.net.any (fun r => r.agent == k) || s.mem.farOut.any (fun f => f.req.agent == k)
/-- Whether a release of an agent would have to wait (R105). -/
def mustWait (s : State) (k : Nat) : Bool :=
  s.mem.net.any (coveredBy k) || s.mem.farOut.any (fun f => coveredBy k f.req)
/-- An access of an agent to a span would be held: by what holds the place, by a write it must not overtake, by a route that drops it, or by
the agent's own writes to the words (14 R318). -/
def placeBlocked (s : State) (k : Nat) (l : Loc) (n : Nat) (write : Bool) : Bool :=
  let w := wordSpan l n
  (if write then heldWrite s k l n else heldRead s l n) || unanswered s k l n ||
    s.mem.net.any (fun r => r.agent == k && overlaps r.loc r.size w.1 w.2)
/-- A write of an agent as it leaves its tile. -/
def newReq (s : State) (k : Nat) (l : Loc) (mode n : Nat) (v : DWord) : Req :=
  let h := hartAt s k
  { agent := k, loc := l, size := n, data := v, lkey := h.lkey, pid := h.actsFor, mode := mode, src := h.tile,
    hub := hubChannel s h.actsFor h.tile l }
end Net

section SCopies
/-- Holder of S copies for a hart's scalar accesses and for a core's L1 (14 R323). -/
def hartHolder (h : Hart) : Nat := h.tile * 16 + subcoreOf h.slot
def l1Holder (tile : Nat) : Nat := tile * 16 + 8
/-- A copy usable at the present tick (R323). -/
def usable (s : State) (h : Hart) (c : SCopy) : Bool :=
  let t := leaseTick s
  decide ((t - c.grant).toNat < (c.expiry - c.grant).toNat) &&
    (!h.av || decide (1 ≤ (c.grant - h.acqTick).toNat ∧ (c.grant - h.acqTick).toNat ≤ 2 ^ 15 - 1))
def copyFind (m : Mem) (holder line : Nat) : Option SCopy := m.copies.find? (fun c => c.holder == holder && c.line == line)
/-- Lines of a core's L1: 96 KiB for each bank of the split (00 R8; 01 R27); a core without a launch has its sixteen banks. -/
def l1Lines (s : State) (tile : Nat) : Nat := (l1Of s tile).getD 16 * 1536
/-- A holder's cached copies fit in it again (00 R8): the S lines of an L1, and the lines of a hart cache of 16 KiB, S and D together. DESIGN
CHOICE (notes/assumptions/65): the line just brought in, `keep`, stays; S copies go first, the oldest first, and D lines after them, those
of the lowest line numbers first. -/
def fitCache (s : State) (holder keep : Nat) : State :=
  let tile := holder / 16; let sc := holder % 16
  let mine := fun (c : SCopy) => c.holder == holder && c.line != keep
  let held := fun (e : Nat × BitVec 16) => e.1 % 4096 == tile * 8 + sc && dirLine e.1 != keep
  let n := (s.mem.copies.filter (fun c => c.holder == holder)).length
  if sc = 8 then modMem s (fun m => { m with copies := dropFirst mine (n - l1Lines s tile) m.copies })
  else
    let d := (s.mem.dir.filter (fun e => e.1 % 4096 == tile * 8 + sc)).length
    let excess := n + d - 256
    modMem s (fun m => { m with
      copies := dropFirst mine excess m.copies, dir := dropFirst held (excess - (s.mem.copies.filter mine).length) m.dir })
/-- A fill or renewal reply (R325): the line's data and versions at one point in home order, a new grant and expiry. -/
def fillCopy (s : State) (holder line : Nat) : State :=
  let p := match partOf s (homeOf (line * 64)) with
    | some p => (partAt s p).leaseNow
    | none => 64
  let c : SCopy := {
    holder := holder, line := line,
    words := (List.range 16).map (fun i => (readLoc s.mem (.mem (line * 64 + 4 * i)) 4).setWidth 32),
    grant := leaseTick s, expiry := leaseTick s + BitVec.ofNat 16 p,
    vers := (List.range 4).map (fun q => tget 0 s.mem.vers (line * 4 + q)) }
  fitCache (modMem (l2Touch s line) (fun m => { m with
    copies := m.copies.filter (fun d => !(d.holder == holder && d.line == line)) ++ [c] })) holder line
/-- A load that the hart cache of its sub-core serves, or that brings its line there from the home (14 R319). -/
def dirLoad (s : State) (h : Hart) (a n : Nat) : State :=
  let d := dirKey (a / 64) (subcoreKey h.tile h.slot)
  if lineWords (a / 64) a n &&& ~~~(tget 0 s.mem.dir d) = 0 then s
  else fitCache (modMem (l2Touch s (a / 64)) (fun m => { m with dir := tset 0 m.dir d 0xFFFF })) (hartHolder h) (a / 64)
/-- Bytes of a cached copy. -/
def copyBytes (c : SCopy) (a n : Nat) : DWord :=
  let all := leNat (c.words.flatMap (fun w => leBytes 4 w.toNat))
  dw (field all (8 * (a - c.line * 64)) (8 * n))
end SCopies

section Accesses
/-- The youngest of the writes to a word that an agent has issued or obtained, where that is a plain store of its own that covers the span
wholly: the bytes it carries there (R318; 04 R101). -/
def forwarded (s : State) (k : Nat) (l : Loc) (n : Nat) : Option DWord :=
  let w := wordSpan l n
  match (s.mem.net.filter (fun r => coveredBy k r && overlaps r.loc r.size w.1 w.2)).getLast? with
  | none => none
  | some r =>
    let off := match r.loc, l with
      | .mem a, .mem b => if a ≤ b ∧ b + n ≤ a + r.size then some (b - a) else none
      | .win a, .win b => if a ≤ b ∧ b + n ≤ a + r.size then some (b - a) else none
      | .mbox a, .mbox b => if a ≤ b ∧ b + n ≤ a + r.size then some (b - a) else none
      | _, _ => none
    match (if r.agent == k then r.red else some .add), off with
    | none, some o => some (dw (field r.data.toNat (8 * o) (8 * n)))
    | _, _ => none
/-- A plain scalar load by an agent (R318–R328): nothing while it is held. -/
def agentLoad (s : State) (k : Nat) (l : Loc) (mode n : Nat) : State × Option DWord :=
  match forwarded s k l n with
  | some v => (s, some v)
  | none =>
    let (s, ok) := flushWord s k l n
    if !ok || heldRead s l n || unanswered s k l n then (s, none)
    else
      let h := hartAt s k
      match l with
      | .mem a =>
        if h.tasklet || mode == 2 then (l2Loc s l n, some (readLoc s.mem l n))
        else if mode == 1 then
          let line := a / 64; let holder := hartHolder h
          match copyFind s.mem holder line with
          | some c => if usable s h c then (s, some (copyBytes c a n))
                      else (count (fillCopy s holder line) 2 h.tile 0 4 1, some (readLoc s.mem l n))
          | none => (fillCopy s holder line, some (readLoc s.mem l n))
        else (dirLoad s h a n, some (readLoc s.mem l n))
      | .ctl o => (s, some (if o % 4096 = 0 then dw (partAt s (o / 4096)).lease else 0))
      | _ => (s, some (readLoc s.mem l n))
/-- A plain store: it stays buffered until its home performs it (R105, R110). -/
def agentStore (s : State) (k : Nat) (l : Loc) (mode n : Nat) (va v : DWord) : State :=
  let h := hartAt s k
  let s := if mode == 1 then dropCopies s h.tile l n else s
  modMem s (fun m => { m with net := m.net ++ [{ newReq s k l mode n v with va := va }] })
/-- A read-modify-write at the home (R103): nothing while it is held. -/
def agentRmw (s : State) (k : Nat) (l : Loc) (mode n : Nat) (o : Rmw) (v cmp : DWord) : State × Option DWord :=
  let (s, ok) := flushWord s k l n
  if !ok || heldWrite s k l n || unanswered s k l n then (s, none)
  else
    let h := hartAt s k
    let s := if mode == 1 then dropCopies s h.tile l n else s
    let old := readLoc s.mem l n
    -- a comparison that fails reads and writes nothing (09 R229)
    if o == .cas && old != dw (bitsOf cmp 0 (8 * n)) then (s, some old)
    else match homeWriteN s k l n (rmwVal o n old v cmp) with
    | (s, true) => (s, some old)
    | (s, false) => (s, none)
end Accesses

section Reservations
/-- Drops empty queues: a queue is bound while it has a holder or waiters (07 R172). -/
def trimQueues (m : Mem) : Mem := { m with resvs := m.resvs.filter (fun q => q.holder.isSome || !q.waiters.isEmpty) }
/-- An agent gives up the reservation it holds or awaits (R172); the next waiter is granted by LRW_GRANT. -/
def releaseResv (s : State) (k : Nat) : State :=
  modMem s (fun m => trimQueues { m with resvs := m.resvs.map (fun q =>
    { q with
      holder := (match q.holder with
        | some r => if r.agent == k then none else some r
        | none => none),
      waiters := q.waiters.filter (fun r => r.agent != k) }) })
/-- An agent leaves the queue it waits in and keeps a hold. -/
def leaveQueue (s : State) (k : Nat) : State :=
  modMem s (fun m => trimQueues { m with resvs := m.resvs.map (fun q =>
    { q with waiters := q.waiters.filter (fun r => r.agent != k) }) })
end Reservations

section Acquires
/-- An acquire at a scope that reaches the agents of its tile (04 R97, R99): what their releases covered is obtained, and
later accesses use no cached value obtained before. -/
def acquireAll (s : State) (k : Nat) : State := acquire (obtainTile s (hartAt s k).tile k) k
/-- Retirement: the pc moves on and instret counts (02 R42). -/
def retireHart (h : Hart) : Hart :=
  { h with pc := h.pc + 4, instret := h.instret + 1, run := .ready, wait := .nothing, bounces := 0, indiv := false }
/-- The retirement of a waiting instruction when what it waits for comes; a group that is STOPPED stays so (01 R18; 16 R368). -/
def wakeHart (h : Hart) : Hart :=
  if h.run == .stopped then { retireHart h with run := .stopped, prior := .ready } else retireHart h
end Acquires

section Phases
def barOf (w : Wg) (n : Nat) : Bar := tget {} w.bars n
def putBar (s : State) (wkey n : Nat) (b : Bar) : State := modWg s wkey (fun w => { w with bars := tput w.bars n b })
/-- A phase completes when every arrival has come and no attached copy is outstanding (07 R176). -/
def barSettle (b : Bar) : Bar :=
  if b.arrived = b.expected ∧ b.copies = 0 then { b with arrived := 0, phase := !b.phase, groups := [] } else b
/-- Every waiter on a completed phase is released: its wait is an acquire and retires (07 R176). -/
def releaseWaiters (s : State) (ks : List Nat) (w : WaitOn) : State :=
  (ks.filter (fun k => (hartAt s k).wait == w)).foldl (fun s k => modHart (acquireAll s k) k wakeHart) s
/-- A workgroup barrier after an arrival, a copy's end or its detachment. -/
def settleBar (s : State) (wkey n : Nat) (b : Bar) : State :=
  let t := putBar s wkey n (barSettle b)
  if (barSettle b).phase == b.phase then t else releaseWaiters t ((wgAt s wkey).members.map (fun e => e.2)) (.bar n b.phase)
/-- A copy leaves its queue entry and its barrier phase (07 R185, R186). -/
def dropCopy (s : State) (k : Nat) : State :=
  let c := copyAt s k
  let mine := fun (f : FarWrite) => f.copy.any (fun c => c.1 == k)
  let s := modMem { s with copies := tdel s.copies k } (fun m => { m with
    farOut := m.farOut.map (fun f => if mine f then { f with copy := none } else f) })
  match tfind s.wgs c.wg with
  | none => s
  | some w => let b := barOf w c.bar; settleBar s c.wg c.bar { b with copies := b.copies - 1 }
end Phases

section LaneResults
/-- Writes one lane instruction's results, unless they are written already (05 R137; 03 R66). -/
def landOne (h : Hart) (p : Pending) : Hart :=
  if p.landed then h
  else
    let h := p.vs.foldl (fun h (r, l, w) => h.setV r l w) h
    let h := match p.mask with
      | none => h
      | some (n, lanes, bits) => h.setM n ((h.getM n &&& ~~~lanes) ||| (bits &&& lanes))
    let h := match p.x with
      | none => h
      | some (r, v) => h.setX r v
    accrue h p.flags
/-- Completes every issued lane instruction in issue order; issue distances restart (R137). -/
def landAll (h : Hart) : Hart := { h.pend.foldl landOne h with pend := [] }
/-- Whether a written result still matters: to STCHK, while its issue distance is short (R137). -/
def pendLive (p : Pending) : Bool := !p.landed || (!p.board && decide (p.dist < p.latency))
/-- The results that still matter: a written one is kept too while an older one that matters writes a register of it, so that the
youngest writer of a register is found. -/
def pendTrim (l : List Pending) : List Pending :=
  l.foldl (fun acc p => if pendLive p || acc.any (fun q => q.wr.any (fun k => p.wr.contains k)) then acc ++ [p] else acc) []
/-- Writes the results that pass, in issue order. -/
def landIf (q : Pending → Bool) (h : Hart) : Hart :=
  { (h.pend.filter q).foldl landOne h with
    pend := pendTrim (h.pend.map (fun (p : Pending) => if q p then { p with landed := true } else p)) }
/-- A result that is written by a given clk: a fixed-latency result exactly its latency after issue (R137). -/
def writable (clk : Nat) (p : Pending) : Bool := !p.landed && (p.board || decide (p.due ≤ clk))
end LaneResults

section Traps
/-- Where a trap is taken: M, HS or VS (12 R266). -/
inductive Target where
  | m
  | hs
  | vs
  deriving DecidableEq, Repr
/-- The receiving mode of an exception under medeleg and hedeleg (R266, R272). -/
def excTarget (h : Hart) (cause : Nat) : Target :=
  if h.priv == .m || !bitAt (h.getC 0x302) cause then .m
  else if h.virt && bitAt (h.getC 0x602) cause then .vs
  else .hs
def privCode : Priv → Nat
  | .u => 0
  | .s => 1
  | .m => 3
/-- Address of a handler: vectored mode adds 4 × cause for an interrupt. -/
def vectorPc (tvec : DWord) (intr : Bool) (code : Nat) : DWord :=
  let base := tvec &&& ~~~(3 : DWord)
  if intr && bitsOf tvec 0 2 == 1 then base + dw (4 * code) else base
def causeWord (intr : Bool) (code : Nat) : DWord := dw code ||| (if intr then 1 <<< 63 else 0)
/-- Code of an interrupt as the receiving mode sees it: VS-level interrupts appear as supervisor interrupts. -/
def vsCode (intr : Bool) (code : Nat) : Nat := if intr && (code == 2 || code == 6 || code == 10) then code - 1 else code

/-- Writes the lane record and the resume state of the receiving mode's copies (R274, R270; 06 R146; 09 R222). -/
def laneRecord (h : Hart) (t : Trap) (vs : Bool) (e : Option LaneEntry) : Hart :=
  let k := bankKey vs
  let sl := h.getC (k 0x5C0)
  let sl := match t.lane with
    | some l => setBits (setBits sl 0 7 l) 7 1 1
    | none => setBits sl 7 1 0
  let sl := match t.detail with
    | some d => setBits sl 8 8 d
    | none => sl
  let h := h.setC (k 0x5C0) sl
  let h := match t.stm with
    | some m => (h.setC (k 0x5C1) (m.extractLsb' 0 64)).setC (k 0x5C2) (m.extractLsb' 64 64)
    | none => h
  match e with
  | some e => { ((h.setC (k 0x5C3) e.lpc).setC (k 0x5C4) (dw e.rem)).setC (k 0x5C5) 1 with lpc := e.lpc }
  | none => h.setC (k 0x5C5) 0

/-- The register changes of trap entry (R274 and the privileged architecture): the pc and status saved, the mode and the pc set.
`e` is the oldest lane instruction not yet executed when the trap lies in an LRUN batch. -/
def enterTrap (h : Hart) (t : Trap) (tgt : Target) (e : Option LaneEntry) : Hart :=
  let epc := match e with
    | some e => e.pc
    | none => h.pc
  let st := h.getC 0x300
  let h1 := laneRecord h t (tgt == .vs) e
  match tgt with
  | .m =>
    let st := setBits st 7 1 (bitsOf st 3 1)
    let st := setBits (setBits st 3 1 0) 11 2 (privCode h.priv)
    let st := setBitAt (setBitAt st 39 (h.virt && h.priv != .m)) 38 t.gva
    let h2 := (((h1.setC 0x300 st).setC 0x341 epc).setC 0x342 (causeWord t.intr t.cause)).setC 0x343 t.tval
    let h2 := (h2.setC 0x34B (t.gpa >>> 2)).setC 0x34A t.inst
    { h2 with priv := .m, virt := false, pc := vectorPc (h.getC 0x305) t.intr t.cause }
  | .hs =>
    let st := setBits st 5 1 (bitsOf st 1 1)
    let st := setBits (setBits st 1 1 0) 8 1 (privCode h.priv % 2)
    let hst := setBitAt (setBitAt (h.getC 0x600) 7 h.virt) 6 t.gva
    let hst := if h.virt then setBits hst 8 1 (privCode h.priv % 2) else hst
    let h2 := (((h1.setC 0x300 st).setC 0x600 hst).setC 0x141 epc).setC 0x142 (causeWord t.intr t.cause)
    let h2 := ((h2.setC 0x143 t.tval).setC 0x643 (t.gpa >>> 2)).setC 0x64A t.inst
    { h2 with priv := .s, virt := false, pc := vectorPc (h.getC 0x105) t.intr t.cause }
  | .vs =>
    let vst := h.getC 0x200
    let vst := setBits vst 5 1 (bitsOf vst 1 1)
    let vst := setBits (setBits vst 1 1 0) 8 1 (privCode h.priv % 2)
    let code := vsCode t.intr t.cause
    let h2 := ((h1.setC 0x200 vst).setC 0x241 epc).setC 0x242 (causeWord t.intr code)
    { h2.setC 0x243 t.tval with priv := .s, virt := true, pc := vectorPc (h.getC 0x205) t.intr code }

/-- A CPY that awaits ownership has put its copy in the queue, where it stays: the CPY retires (07 R182, R186; notes/assumptions/66). -/
def withdrawCopy (s : State) (k : Nat) : State :=
  match (hartAt s k).wait with
  | .copyOwn _ => modHart s k retireHart
  | _ => s
/-- Withdraws what the agent waits for (R274): parked accesses, queue places, a LAUNCH in the sequencer, the wait of a CPY for ownership, a
lane full-empty instruction, whose performed lanes have written their registers (09 R226). -/
def withdraw (s : State) (k : Nat) : State :=
  let s := withdrawCopy (leaveQueue s k) k
  let s := modMem s (fun m => { m with parks := m.parks.filter (fun p => p.agent != k),
                                       lrs := m.lrs.filter (fun r => r.hart != k) })
  let p := (hartAt s k).actsFor
  if (partAt s p).seqQ.any (fun e => e.hart == k) then
    modPart s p (fun q => { q with seqQ := q.seqQ.filter (fun e => e.hart != k) }) else s
/-- A lane full-empty instruction stopped part way: its performed lanes and their values (09 R226). -/
def settleLaneFe (h : Hart) : Hart × Option (LaneEntry × Mask) :=
  match h.laneFe with
  | none => (h, none)
  | some f =>
    let h := if f.load then f.vals.foldl (fun h (l, w) => h.setV f.vd l w) h else h
    ({ h with laneFe := none }, some (f.entry, f.done))
/-- TAKING AN EXCEPTION OR INTERRUPT in a group (R274): withdraw, drain, record, and go to the handler. -/
def takeTrapAt (s : State) (k : Nat) (t : Trap) (tgt : Target) (e : Option LaneEntry) : State :=
  let s := withdraw s k
  let h := landAll (hartAt s k)
  let (h, fe) := settleLaneFe h
  let (t, e) := match fe with
    | some (en, done) =>
      if done = 0 && t.lane.isSome then (t, some en)
      else ({ t with stm := some done, detail := some (0x80 + (t.detail.getD 0) % 0x80) }, some en)
    | none => (t, e)
  let h := enterTrap h t tgt e
  let s := traceAt s k (match e with
    | some e => e.pc
    | none => (hartAt s k).pc) (.trap t.intr t.cause t.tval)
  setHart s k { h with laneQ := [], laneWait := .nothing, iss := {}, wait := .nothing, run := .ready, pauseTo := 0, bounces := 0, indiv := false }
/-- An exception of the agent at its scalar instruction. -/
def takeTrap (s : State) (k : Nat) (t : Trap) : State := takeTrapAt s k t (excTarget (hartAt s k) t.cause) none
/-- A precise trap of the lane instruction `e` (05 R136; 06 R146), whose htinst is 0 (12 R271; 14 R314). -/
def takeLaneTrap (s : State) (k : Nat) (t : Trap) (e : LaneEntry) : State :=
  takeTrapAt s k { t with inst := 0 } (excTarget (hartAt s k) t.cause) (some e)
end Traps

section Returns
/-- MRET's register changes (the privileged architecture): mode from MPP and MPV, pc from mepc. -/
def mretHart (h : Hart) : Hart :=
  let st := h.getC 0x300
  let p : Priv := match bitsOf st 11 2 with
    | 0 => .u
    | 1 => .s
    | _ => .m
  let v := bitAt st 39 && p != .m
  let st := setBits st 3 1 (bitsOf st 7 1)
  let st := setBits (setBits (setBits st 7 1 1) 11 2 0) 39 1 0
  let st := if p == .m then st else setBits st 17 1 0
  { h.setC 0x300 st with priv := p, virt := v, pc := h.getC 0x341 &&& ~~~(3 : DWord) }
/-- SRET's register changes in HS, and in VS. -/
def sretHart (h : Hart) : Hart :=
  if h.virt then
    let st := h.getC 0x200
    let p : Priv := if bitAt st 8 then .s else .u
    let st := setBits st 1 1 (bitsOf st 5 1)
    let st := setBits (setBits st 5 1 1) 8 1 0
    { h.setC 0x200 st with priv := p, pc := h.getC 0x241 &&& ~~~(3 : DWord) }
  else
    let st := h.getC 0x300
    let hst := h.getC 0x600
    let p : Priv := if bitAt st 8 then .s else .u
    let v := bitAt hst 7
    let st := setBits st 1 1 (bitsOf st 5 1)
    let st := setBits (setBits (setBits st 5 1 1) 8 1 0) 17 1 0
    { (h.setC 0x300 st).setC 0x600 (setBits hst 7 1 0) with priv := p, virt := v, pc := h.getC 0x141 &&& ~~~(3 : DWord) }
end Returns

section Tasklets
/-- Frees what a tasklet holds: its slot, queue entry, reservation and parked accesses (01 R38; 07 R172). -/
def endTasklet (s : State) (k : Nat) : State :=
  let h := hartAt s k
  let s := releaseResv s k
  let s := modMem s (fun m => { m with parks := m.parks.filter (fun p => p.agent != k) })
  let s := modHome s h.tile (fun q => { q with slots := q.slots.filter (fun e => e.2 != k),
                                               hwQ := q.hwQ.filter (· != k), memQ := q.memQ.filter (· != k) })
  let s := modLaunch s h.lkey (fun l => { l with liveTasks := l.liveTasks - 1 })
  { s with harts := tdel s.harts k }
/-- The walk of hardware through a launch's G-stage (13 R401), which no core's walk cache serves (14 R315). -/
def hwLeaf (s : State) (c : Ctx) (a : Nat) : Except XErr Leaf :=
  if a ≥ 2 ^ 50 then .error .page
  else walkFrom (readPte s 15) (fun _ => none) .page (fun i => if i == 3 then field a 39 11 else field a (12 + 9 * i) 9) 4 (bitsOf c.hgatp 2 42 * 16384)
/-- The physical address of one of a partition's own structures: through the launch's G-stage for a tenant, as it stands for partition
15 (13 R401). -/
def hwAddr (s : State) (l : Launch) (write : Bool) (a : Nat) : Except XErr Nat :=
  let c := launchCtx l 0
  if l.pid = 15 || !satpOn c.hgatp then .ok a
  else match hwLeaf s c a with
    | .ok l => if pteA l.pte && (if write then pteW l.pte && pteD l.pte else pteR l.pte) then .ok (leafPa l.pte l.lvl a)
               else .error .page
    | .error e => .error e
/-- The place that such an access waits for, an n-byte span of its own or a table entry of its walk that a copy owns or a chunk's
initialisation holds (04 R106; 15 R344). -/
def hwHeld (s : State) (l : Launch) (write : Bool) (a n : Nat) : Option (Loc × Nat) :=
  match hwAddr s l write a with
  | .error (.held pa) => some (.mem pa, 8)
  | .error _ => none
  | .ok x => if (if write then heldWrite s 0xFFFFFE (.mem x) n else heldRead s (.mem x) n) then some (.mem x, n) else none
/-- An n-byte access of hardware to a partition's own structures (13 R401; 15 R334, R342), not held: nothing where it faults. -/
def hwXlate (s : State) (l : Launch) (write : Bool) (a n : Nat) : Option Nat :=
  match hwAddr s l write a with
  | .error _ => none
  | .ok x => if decide (x + n ≤ 2 ^ 39) && inPart s l.pid (homeOf x) && !anyPoison s x n then some x else none
/-- The tag checks that such an access makes: what fails is marked and counted (15 R342). -/
def hwNote (s : State) (l : Launch) (write : Bool) (a n : Nat) : State :=
  match hwAddr s l write a with
  | .error e => noteErr s e
  | .ok x => if decide (x + n ≤ 2 ^ 39) && inPart s l.pid (homeOf x) then notePoisonSpan s x n else s
/-- The record of a tasklet that traps (12 R288). -/
def trapRecord (h : Hart) (cause : Nat) (tval : DWord) : TrapRec :=
  { cause := cause, pc := h.pc, tval := tval, tile := h.tile, creatorTile := h.creatorTile, creatorSlot := h.creatorSlot, pid := h.pid }
/-- Its 64 bytes, with its number and its launch's. DESIGN CHOICE (notes/assumptions/89): the layout has no field for the owner of a
full-empty word that timed out, so that the hub is named by the address in tval alone (07 R167). -/
def recordBytes (r : TrapRec) (n lid : Nat) : List Byte :=
  leBytes 8 n ++ leBytes 8 r.cause ++ leBytes 8 r.pc.toNat ++ leBytes 8 r.tval.toNat ++
    [BitVec.ofNat 8 r.tile, BitVec.ofNat 8 r.creatorTile, BitVec.ofNat 8 r.creatorSlot, BitVec.ofNat 8 r.pid] ++
    leBytes 4 lid ++ List.replicate 24 0
/-- The trap record of a tasklet (12 R288), written to the record page where EN = 1 and the page can be written: the INDEX of its header,
63 where it is not; nothing while a place it needs is held (13 R401; 04 R106). -/
def postRecord (s : State) (lk : Nat) (r : TrapRec) : Option (State × Nat) :=
  let p := partAt s r.pid; let l := launchAt s lk
  let page := bitsOf p.hmbox 12 52 * 4096
  if !bitAt p.hmbox 0 then some (s, 63)
  else if (hwHeld s l true page 8).isSome then none
  else
    let s := hwNote s l true page 8
    match hwXlate s l true page 8 with
    | none => some (s, 63)
    | some base =>
      let n := (readLoc s.mem (.mem base) 8).toNat
      let slot := page + 0x40 + 64 * (n % 63)
      if (hwHeld s l true slot 64).isSome then none
      else
        let s := hwNote s l true slot 64
        match hwXlate s l true slot 64 with
        | none => some (s, 63)
        | some a => some (hwWrite (hwWrite s 0xFFFFFE (.mem a) (recordBytes r n l.lid)) 0xFFFFFE (.mem base) (leBytes 8 (n + 1)), n % 63)
/-- Writes a launch's waiting records in order until one is held; the header of each then waits for the MBOX word (12 R288). -/
def postRecords : Nat → State → Nat → State
  | 0, s, _ => s
  | f + 1, s, lk =>
    match (launchAt s lk).records with
    | [] => s
    | r :: rest =>
      match postRecord s lk r with
      | none => s
      | some (s, i) => postRecords f (modLaunch (bumpSeq s) lk (fun l => { l with
          records := rest, headers := l.headers ++ [(s.seqNo, wd (0x10000000 + i))] })) lk
/-- A trap in a tasklet ends it at once: record, header for the MBOX word, TTRAP (01 R38; 12 R288). -/
def taskletTrapOp (s : State) (k : Nat) (cause : Nat) (tval : DWord) : State :=
  let h := hartAt s k
  let s := modLaunch s h.lkey (fun l => { l with ttrap := true, records := l.records ++ [trapRecord h cause tval] })
  let s := postRecords (launchAt s h.lkey).records.length s h.lkey
  let s := traceEvent s k (.trap false cause tval)
  let s := traceEvent s k (.exit 2)
  endTasklet s k
end Tasklets

section Scalar
/-- A trap of the current agent at its scalar instruction: a group enters its handler, a tasklet ends. -/
def trapCur (s : State) (t : Trap) : State :=
  if (curHart s).tasklet then taskletTrapOp s s.cur t.cause t.tval else takeTrap s s.cur t
/-- Illegal instruction, with the instruction bits in stval (05 R120, R122). -/
def illegal (bits : DWord) : Trap := { cause := 2, tval := bits }
def laneIllegal (bits : DWord) : Trap := { cause := 24, tval := bits }
def virtualInstr (bits : DWord) : Trap := { cause := 22, tval := bits }
def retireCur (s : State) (h : Hart) : State := setCur s (retireHart h)
/-- Retirement of an instruction that has changed the state already. -/
def retire (s : State) : State := modCur s retireHart
/-- Retirement with a destination register. -/
def retireX (s : State) (rd : Reg) (v : DWord) : State := modCur s (fun h => retireHart (h.setX rd v))
/-- Retirement at another pc. -/
def retireAt (s : State) (h : Hart) (pc : DWord) : State := setCur s { retireHart h with pc := pc }
/-- The agent waits: it stays at its instruction. -/
def waitCur (s : State) (w : WaitOn) : State := modCur s (fun h => { h with run := .waitSync, wait := w })
/-- The instruction is held, in WAIT_DEP, and is tried again once what holds it may be over (01 R18). -/
def heldCur (s : State) (w : WaitOn) : State := modCur s (fun h => { h with run := .waitDep, wait := w })
/-- The same of an instruction that is indivisible towards interrupts and termination from here on (06 R165). -/
def heldWhole (s : State) (w : WaitOn) : State := modCur s (fun h => { h with run := .waitDep, wait := w, indiv := true })
/-- Whether a tasklet may run an instruction that names these registers (01 R33; 05 R123). -/
def taskletMay (allowed : Bool) (regs : List Reg) : Bool := allowed && regs.all (fun r => decide (r < 11))
/-- The common frame of scalar instructions: what a tasklet may not run traps LANE_ILLEGAL. -/
def scalar (bits : DWord) (allowed : Bool) (regs : List Reg) (s : State) (f : Hart → State) : Out :=
  let h := curHart s
  if h.tasklet && !taskletMay allowed regs then .next (trapCur s (laneIllegal bits)) else .next (f h)
/-- A jump or taken branch: a target that is not 4-byte aligned raises instruction-address-misaligned and the instruction does not
retire (05 R120). -/
def jumpTo (s : State) (h : Hart) (target : DWord) : State :=
  if target.toNat % 4 != 0 then trapCur s { cause := 0, tval := target, gva := h.virt } else retireAt s h target
end Scalar


end Sys2Proof.Machine
end

