-- ==== Sys2Proof/Machine/Fe.lean ====
section
/-! DEFINITION. Parked full-empty accesses and their service (04 R89, R91; 07 R166–R168; 09 R226). -/
namespace Sys2Proof.Machine

/-- LDFE, LDFF are acquires at system scope, which obtain what a release of core scope by an agent of the same tile covered; STEF, STFF are
such releases (04 R97). -/
def feOrder (s : State) (k : Nat) (op : FeOp) : State :=
  match op with
  | .ldfe | .ldff => acquireAll s k
  | .stef | .stff => markReleased s k
/-- A lane full-empty instruction whose last lane is done writes its destination and retires its issue (09 R226). -/
def finishLaneFe (s : State) (k : Nat) : State :=
  let h := hartAt s k
  match h.laneFe with
  | none => s
  | some f =>
    if f.todo != 0 then s
    else
      let h := if f.load then f.vals.foldl (fun h (l, w) => h.setV f.vd l w) h else h
      setHart (traceBatch s k f.entry) k { h with
        laneFe := none, wait := .nothing, run := if h.run == .stopped then .stopped else .ready, iss := {},
        instret := if f.entry.rem = 1 then h.instret + 1 else h.instret }
/-- One lane of it is done. -/
def laneFeDone (s : State) (k l : Nat) (w : Word) : State :=
  let s := modHart s k (fun h => { h with laneFe := h.laneFe.map (fun f =>
    { f with todo := f.todo &&& ~~~((1 : Mask) <<< l), done := f.done ||| ((1 : Mask) <<< l), vals := f.vals ++ [(l, w)] }) })
  finishLaneFe s k
/-- A full-empty access of an agent has been performed with value w read: scalar accesses retire, a lane is marked. -/
def feComplete (s : State) (p : Park) (w : Word) : State :=
  let s := feOrder s p.agent p.op
  match p.lane with
  | some l => laneFeDone s p.agent l w
  | none =>
    let rd := match p.op with
      | .ldfe | .ldff => p.rd
      | _ => 0
    modHart s p.agent (fun h => wakeHart (h.setX rd (w.signExtend 64)))
/-- Serves, in park order, the entries of a word that can now proceed (R91); at most `fuel` of them. -/
def serveParks : Nat → State → Loc → State
  | 0, s, _ => s
  | fuel + 1, s, l =>
    match s.mem.parks.findIdx? (fun p => !p.bounced && p.loc == l && (feTry s.mem p.op l p.data).isSome) with
    | none => s
    | some i =>
      match s.mem.parks[i]? with
      | none => s
      | some p =>
        match feTry s.mem p.op l p.data with
        | none => s
        | some (m, w) =>
          serveParks fuel (feComplete { s with mem := { m with parks := eraseAt m.parks i } } p w) l
def servePlace (s : State) (l : Loc) : State := serveParks s.mem.parks.length s l
/-- Sets a word of data full without waiting, by hardware or a full-empty store, and serves the entries it releases. -/
def setFullWrite (s : State) (l : Loc) (w : Word) : State :=
  servePlace (modMem s (fun m => setFull (writeLoc m l 4 (w.setWidth 64)) l true)) l
/-- Park buffer of a word's owner: one per core, and one at the hub for every mailbox slot (R91). -/
def parkOwner : Loc → Nat
  | .win o => field o 21 8
  | _ => 256
def parkCount (m : Mem) (owner : Nat) : Nat := (m.parks.filter (fun p => !p.bounced && parkOwner p.loc == owner)).length
/-- Parks an access, or bounces it at once when the buffer is full, which counts one retry (R91). -/
def parkAccess (s : State) (p : Park) : State :=
  if parkCount s.mem (parkOwner p.loc) < 256 then
    modMem s (fun m => { m with parks := m.parks ++ [{ p with since := s.clk, bounced := false }] })
  else modMem s (fun m => { m with parks := m.parks ++ [{ p with since := s.clk, bounced := true, retries := p.retries + 1 }] })
/-- FE_TIMEOUT (R167): the access is withdrawn and its agent traps with tval the word's address. A lane access names its lane
(09 R222, R226). -/
def feTimeout (s : State) (p : Park) : State :=
  let h := hartAt s p.agent
  let t : Trap := { cause := 30, tval := p.va, gva := h.virt }
  if h.tasklet then taskletTrapOp s p.agent 30 p.va
  else match p.lane with
    | none => takeTrap s p.agent t
    | some l =>
      let cls := match p.op with
        | .ldfe | .ldff => 5
        | _ => 6
      let e := match h.laneFe with
        | some f => f.entry
        | none => {}
      takeLaneTrap s p.agent { t with lane := some l, detail := some (0x80 + cls), stm := some ((h.laneFe.map (·.done)).getD 0) } e
/-- An access waits at its owner; an agent that is STOPPED stays so. -/
def waitHart (w : WaitOn) (h : Hart) : Hart :=
  if h.run == .stopped then { h with prior := .waitSync, wait := w } else { h with run := .waitSync, wait := w }
/-- Sends one full-empty access: it is performed, or it parks. -/
def feSend (s : State) (p : Park) : State :=
  match feTry s.mem p.op p.loc p.data with
  | some (m, w) =>
    let s := feComplete { s with mem := m } p w
    servePlace s p.loc
  | none =>
    let s := modHart s p.agent (waitHart (if p.lane.isSome then .laneFullEmpty else .fullEmpty))
    parkAccess s p

end Sys2Proof.Machine
end

