-- ==== Sys2Proof/Machine/Sched.lean ====
section
/-! DEFINITION. Resources of a core and the life of workgroups (01 R19–R32, R39; 12 R267–R269, R284–R287; 13 R295–R298): placing,
admitting, parking, resuming, ending and releasing, and the easels with their spill rings. -/
namespace Sys2Proof.Machine

section Resources
/-- The groups of a sub-core that hold a slot. -/
def groupsOn (s : State) (tile sc : Nat) : List Hart :=
  (s.harts.filter (fun e => !e.2.tasklet && e.2.tile == tile && subcoreOf e.2.slot == sc && e.2.run != .empty)).map Prod.snd
def sumOf {α : Type} (f : α → Nat) (l : List α) : Nat := l.foldl (fun n a => n + f a) 0
/-- Vector registers and accumulator quota in use: an EXITED group has released its own (R22). -/
def vcntUsed (s : State) (tile sc : Nat) : Nat := sumOf (fun h => if h.run == .exited then 0 else h.vcnt) (groupsOn s tile sc)
def accUsed (s : State) (tile sc : Nat) : Nat := sumOf (fun h => if h.run == .exited then 0 else h.accQuota) (groupsOn s tile sc)
def freeSlots (s : State) (tile sc : Nat) : List Nat :=
  let used := (groupsOn s tile sc).map (fun h => h.slot)
  ((List.range 12).map (fun i => sc * 12 + i)).filter (fun i => !used.contains i)
def wslotKey (tile sc w : Nat) : Nat := (tile * 8 + sc) * 4 + w
def wslotAt (s : State) (k : Nat) : WSlot := tget {} s.wslots k
/-- Whether a sub-core can take `cnt` groups of a kernel now (R20). -/
def scFits (s : State) (tile sc cnt : Nat) (k : Kernel) : Bool :=
  cnt == 0 ||
    (decide (cnt ≤ (freeSlots s tile sc).length) && decide (vcntUsed s tile sc + cnt * k.vcnt ≤ 1024) &&
     decide (accUsed s tile sc + cnt * k.acc ≤ 16) &&
     (List.range 4).all (fun w => !k.wslots.getLsbD w || (wslotAt s (wslotKey tile sc w)).owner == 0))
def rankCount (ranks : List Nat) (b sc : Nat) : Nat := (ranks.filter (fun r => (b + r) % 8 == sc)).length
/-- The lowest sub-core b for which every rank fits (R21). -/
def placeBase (s : State) (tile : Nat) (k : Kernel) (ranks : List Nat) : Option Nat :=
  (List.range 8).find? (fun b => (List.range 8).all (fun sc => scFits s tile sc (rankCount ranks b sc) k))
def windowKey (tile bank off : Nat) : Nat := tile * 2 ^ 21 + bank * 2 ^ 17 + off
/-- A bank is free once its owner is gone and every window access issued to it has been performed (09 R217). -/
def bankFree (s : State) (tile b : Nat) : Bool :=
  (tfind s.bankOwner (tile * 16 + b)).isNone &&
    !s.mem.net.any (fun r => match r.loc with
      | .win o => o / 2 ^ 17 == tile * 16 + b
      | _ => false) &&
    !s.mem.parks.any (fun r => match r.loc with
      | .win o => o / 2 ^ 17 == tile * 16 + b
      | _ => false)
/-- The lowest run of free banks below the L1 that is long enough (R21). -/
def bankRun (s : State) (tile limit n : Nat) : Option Nat :=
  if n = 0 then some 0
  else (List.range 16).find? (fun f => decide (f + n ≤ limit) && (List.range n).all (fun i => bankFree s tile (f + i)))
/-- Barriers held on a core: those of workgroups that are parked, or were when they were terminated, are free (07 R178). -/
def barsUsed (s : State) (tile : Nat) : Nat :=
  s.wgs.foldl (fun n e => if e.2.tile == tile && !e.2.members.isEmpty then n + e.2.nbars else n) 0
/-- The partition's allowance is 0 or spent (13 R306, R307). -/
def allowSpent (q : Part) : Bool := q.allow == 0 || (q.allow != 0xFFFFFFFF && decide (q.used ≥ q.allow.toNat))
/-- Energy admission (13 R307; 18 R399): nothing of the partition is admitted or resumed while this holds. What is held is admitted again
from the clk after USED falls below the allowance, and a start in the clk of the report that reached it is allowed; a write of the
allowance counts from the next clk. -/
def energyHeld (s : State) (p : Nat) : Bool :=
  let q := partAt s p
  s.hub.therm || q.spent
/-- Where a fresh workgroup of a kernel would go on a core: sub-core base and first bank. -/
def fitsWg (s : State) (tile : Nat) (l : Launch) (k : Kernel) : Option (Nat × Nat) :=
  if l1Of s tile != some l.l1cnt || !rectHas l.rect tile || decide (barsUsed s tile + k.barriers > 64) then none
  else match placeBase s tile k (List.range k.groups), bankRun s tile (16 - l.l1cnt) k.scratch with
    | some b, some f => some (b, f)
    | _, _ => none
end Resources

section Admission
/-- The registers a group starts with whatever its launch: counter enables, both copies of SFERETRY and both timer compares
(02 R61; 12 R268; notes/assumptions/4). -/
def baseHart : Hart :=
  { csr := [(0x106, 7), (0x14D, BitVec.allOnes 64), (0x24D, BitVec.allOnes 64), (0x306, 7), (0x30A, 1 <<< 63), (0x5C7, 1024),
            (0x606, 7), (0x60A, 1 <<< 63), (0x1007, 1024)] }
/-- SCTXBASE of a member (06 R153). -/
def sctxOf (l : Launch) (wgid rank : Nat) : DWord := l.sctx + dw ((wgid * 16 + rank) * l.ctxsz * 64)
/-- A member of a launch's workgroup as it is admitted (02 R63; 12 R267, R268). -/
def freshMember (s : State) (lkey wkey : Nat) (w : Wg) (rank slot : Nat) : Hart :=
  let l := launchAt s lkey; let p := partAt s l.pid
  let sc := sctxOf l w.wgid rank
  let h := ((baseHart.setC 0x5C6 sc).setC 0x1006 sc).setC 0x6C0 (dw (l.hpid * 256))
  let h := { h with csr := l.caps.foldl (fun t (e : Nat × DWord) => tset 0 t e.1 e.2) h.csr }
  let h := h.setC (if l.virt then 0x240 else 0x140) sc
  { h.setX 10 w.arg with
    run := .fetch, tile := w.tile, slot := slot, wg := wkey, rank := rank, lkey := lkey, pid := l.hpid,
    pc := w.kernel.sentry, lpc := w.kernel.lentry &&& ~~~(3 : DWord), priv := .u, virt := l.virt, vcnt := w.kernel.vcnt,
    accQuota := w.kernel.acc, prio := min w.kernel.prio p.pceil, sweight := min w.kernel.sweight p.swcap,
    av := true, acqTick := leaseTick s, pauseTo := s.clk + 1 }
/-- Slots for ranks on sub-cores from b on: the lowest free ones (notes/assumptions/16). -/
def slotsFor (s : State) (tile b : Nat) (ranks : List Nat) : List (Nat × Nat) :=
  (ranks.foldl (fun (a : List (Nat × Nat)) r =>
    let sc := (b + r) % 8
    match (freeSlots s tile sc).find? (fun i => !a.any (fun x => x.2 == i)) with
    | some i => a ++ [(r, i)]
    | none => a) [])
/-- Claims weight slots on the sub-cores used; cells and LOADED start clear (02 R51). -/
def claimWslots (s : State) (tile b wkey : Nat) (ranks : List Nat) (k : Kernel) : State :=
  (List.range 8).foldl (fun s sc =>
    if rankCount ranks b sc = 0 then s
    else (List.range 4).foldl (fun s w =>
      if k.wslots.getLsbD w then { s with wslots := tput s.wslots (wslotKey tile sc w) { owner := wkey } } else s) s) s
def freeWslots (s : State) (wkey : Nat) : State := { s with wslots := s.wslots.filter (fun e => e.2.owner != wkey) }
/-- Allocation writes 0 to every word of the banks, sets them full and loads the palettes (04 R87; 02 R54). -/
def claimBanks (s : State) (tile wkey first n : Nat) (k : Kernel) : State :=
  let lo := windowKey tile first 0; let hi := windowKey tile (first + n) 0
  if n = 0 then s
  else
    let s := modMem s (fun m => { m with scratch := tfilter (fun a => !(decide (lo ≤ a ∧ a < hi))) m.scratch,
                                         empty := tfilter (fun a => !(decide (lo ≤ 4 * a ∧ 4 * a < hi))) m.empty })
    (List.range n).foldl (fun s i => { s with
      bankOwner := tput s.bankOwner (tile * 16 + first + i) wkey,
      pal := tset 0 s.pal (tile * 16 + first + i) (k.pal.getD i 0) }) s
/-- Admits a workgroup to a core: every resource at once (R20, R21; 02 R63). -/
def admitWg (s : State) (tile b first : Nat) (e : EaselEntry) : State :=
  let l := launchAt s e.lkey; let k := l.kernels.getD e.kidx {}
  let wkey := s.nextWg
  let ranks := List.range k.groups
  let slots := slotsFor s tile b ranks
  let w : Wg := {
    lkey := e.lkey, pid := l.pid, wgid := e.wgid, tile := tile, size := k.groups, kernel := k, arg := e.arg,
    joinWord := e.joinWord, bankFirst := if k.scratch = 0 then 0 else first, bankCount := k.scratch, nbars := k.barriers,
    bars := (List.range k.barriers).map (fun i => (i, { expected := k.groups })),
    members := slots.map (fun x => (x.1, hartKey tile x.2)) }
  let s := claimWslots s tile b wkey ranks k
  let s := claimBanks s tile wkey first k.scratch k
  let s := { s with wgs := tput s.wgs wkey w, nextWg := wkey + 1 }
  slots.foldl (fun s x => setHart s (hartKey tile x.2) (freshMember s e.lkey wkey w x.1 x.2)) s
/-- A boot group: a workgroup of one group outside any launch (12 R269). -/
def admitBoot (s : State) (tile slot vcnt pid : Nat) (pc arg : DWord) : State :=
  let wkey := s.nextWg; let k := hartKey tile slot
  let w : Wg := { lkey := 0, pid := pid, tile := tile, kernel := { vcnt := vcnt }, arg := arg, members := [(0, k)] }
  let h := { (baseHart.setC 0x6C0 (dw (pid * 256))).setX 10 arg with
    run := .fetch, tile := tile, slot := slot, wg := wkey, pid := pid, pc := pc, vcnt := vcnt, av := true, acqTick := leaseTick s,
    prio := 0, sweight := 1 }
  setHart { s with wgs := tput s.wgs wkey w, nextWg := wkey + 1 } k h
/-- A parked member as it restarts (R286): its mode's vector with the RESUME interrupt, admission values elsewhere. The slot's interrupt
files are cleared as at admission, which the rule does not say (notes/assumptions/67). -/
def resumeMember (s : State) (w : Wg) (h : Hart) (slot : Nat) : Hart :=
  let h := { h with run := .fetch, slot := slot, wait := .nothing, ended := 0, preempt := false, x := [], v := [],
                    em := Mask.all, m := [], msp := 0, mstk := [], limbs := 0, vcnt := w.kernel.vcnt,
                    accQuota := w.kernel.acc, accState := [], acc := [], laneQ := [], pend := [], spec := [], iss := {}, laneFe := none,
                    laneWait := .nothing, lateFaults := [], irqS := {}, irqG := {}, accFails := [], av := true,
                    acqTick := leaseTick s, starve := 0, boost := none, yieldTo := none, ylMark := false, pauseTo := s.clk + 1 }
  let h := h.setX 10 w.arg
  let h := ((h.setC 0x5C3 0).setC 0x5C4 0).setC 0x5C5 0
  let h := ((h.setC 0x1003 0).setC 0x1004 0).setC 0x1005 0
  let sc := h.getB 0x5C6
  if h.priv == .m then
    let st := setBits (setBits (setBits (h.getC 0x300) 3 1 0) 7 1 0) 11 2 0
    { ((((h.setC 0x300 st).setC 0x341 0).setC 0x342 (causeWord true 17)).setC 0x343 0).setC 0x140 sc with
      pc := vectorPc (h.getC 0x305) true 17 }
  else if h.virt then
    let st := setBits (setBits (setBits (h.getC 0x200) 1 1 0) 5 1 0) 8 1 0
    { ((((h.setC 0x200 st).setC 0x241 0).setC 0x242 (causeWord true 17)).setC 0x243 0).setC 0x240 sc with
      pc := vectorPc (h.getC 0x205) true 17 }
  else
    let st := setBits (setBits (setBits (h.getC 0x300) 1 1 0) 5 1 0) 8 1 0
    { ((((h.setC 0x300 st).setC 0x141 0).setC 0x142 (causeWord true 17)).setC 0x143 0).setC 0x140 sc with
      pc := vectorPc (h.getC 0x105) true 17 }
/-- Where a parked workgroup would resume: its own core and banks, its parked members placed anew (R286). -/
def fitsResume (s : State) (w : Wg) : Option Nat :=
  let n := w.saved.length
  if n = 0 || decide (barsUsed s w.tile + w.nbars > 64) then none
  else placeBase s w.tile w.kernel (w.saved.map Prod.fst)
def resumeWg (s : State) (wkey b : Nat) : State :=
  let w := wgAt s wkey
  let ranks := w.saved.map Prod.fst
  let slots := slotsFor s w.tile b ranks
  let s := claimWslots s w.tile b wkey ranks w.kernel
  let s := { s with wgs := tput s.wgs wkey { w with
    parked := false, saved := [], endedPark := 0, members := slots.map (fun x => (x.1, hartKey w.tile x.2)) } }
  slots.foldl (fun s x => match tfind w.saved x.1 with
    | some h =>
      let k := hartKey w.tile x.2
      -- its RESUME interrupt is traced as any other (16 R370), from the pc it saves
      traceAt (setHart s k (resumeMember s w h x.2)) k 0 (.trap true 17 0)
    | none => s) s
end Admission

section Requests
/-- A request ends when none of its marked workgroups is left (12 R284, R285). -/
def settleRequest (s : State) (p : Nat) : State :=
  if (partAt s p).preempt.busy && !s.wgs.any (fun e => e.2.pid == p && e.2.marked) then
    modPart s p (fun q => { q with preempt := { q.preempt with busy := false, result := 0 } }) else s
def reqOp (s : State) (p : Nat) : Nat := bitsOf (partAt s p).preempt.word 61 3
/-- A marked workgroup has reached the requested state, or left the request. -/
def leaveRequest (s : State) (wkey : Nat) (counted : Bool) : State :=
  let w := wgAt s wkey
  if !w.marked then s
  else
    let s := modWg s wkey (fun w => { w with marked := false })
    let s := if counted then modPart s w.pid (fun q => { q with preempt := { q.preempt with count := q.preempt.count + 1 } }) else s
    settleRequest s w.pid
end Requests

section Ends
/-- Adds to the launch's count of workgroups terminated or lost, saturating (R26). -/
def addTerm (l : Launch) : Launch := { l with term := min 0xFFFFFF (l.term + 1) }
/-- The join decrement of a released or lost workgroup (R32): a release RMW, dropped on a fault with JDROP recorded. False
while the word is held. -/
def joinDecrement (s : State) (lkey tile : Nat) (va : DWord) : State × Bool :=
  if va = 0 || lkey = 0 then (s, true)
  else
    let l := launchAt s lkey
    let c := launchCtx l tile
    if walkWaits s c 0 .store va then (s, false)
    else match locate s c 0 false .store .join va 8 with
    | .error _ => (modLaunch (notePoisonAt s c 0 .store va 8) lkey (fun l => { l with jdrop := true }), true)
    | .ok x =>
      if heldWrite s 0xFFFFFD x.loc 8 then (s, false)
      else
        let old := readLoc s.mem x.loc 8
        homeWriteN s 0xFFFFFD x.loc 8 (old - 1)
/-- Every member of a workgroup has ended. -/
def allEnded (s : State) (w : Wg) : Bool := w.members.all (fun e => (hartAt s e.2).ended != 0)
/-- Parks a workgroup whose last member has ended with a member parked (06 R160; 07 R178; 12 R284). -/
def parkWg (s : State) (wkey : Nat) : State :=
  let w := wgAt s wkey
  let saved := (w.members.filter (fun e => (hartAt s e.2).ended == 2)).map (fun e => (e.1, hartAt s e.2))
  let s := { s with harts := w.members.foldl (fun t e => tdel t e.2) s.harts }
  let s := freeWslots s wkey
  let s := modWg s wkey (fun w => { w with parked := true, saved := saved, members := [], parkSeq := s.seqNo })
  leaveRequest (bumpSeq s) wkey true
/-- A member has ended, by form 1 (EXIT) or 2 (park): its registers and quota are released, its slot is held (R22). -/
def memberEnded (s : State) (k form : Nat) : State :=
  let s := releaseResv s k
  let s := modMem s (fun m => { m with lrs := m.lrs.filter (fun r => r.hart != k) })
  let s := modHart s k (fun h => { h with
    run := .exited, ended := form, wait := .nothing, v := [], acc := [], accState := [], accFails := [], pend := [], laneQ := [],
    preempt := false, boost := none, starve := 0, yieldTo := none })
  let h := hartAt s k
  let s := modWg s h.wg (fun w => if form = 2 then { w with endedPark := w.endedPark + 1 } else { w with endedPlain := w.endedPlain + 1 })
  let w := wgAt s h.wg
  if allEnded s w && w.endedPark != 0 && !w.terminated then parkWg s h.wg else s
/-- A workgroup all of whose members have ended plainly, or that was terminated, is due for release once its copies have
completed (R22, R23; 06 R159). -/
def releaseDue (s : State) (wkey : Nat) : Bool :=
  match tfind s.wgs wkey with
  | none => false
  | some w => !w.parked && allEnded s w && (w.endedPark == 0 || w.terminated) && !s.copies.any (fun e => e.2.wg == wkey)
/-- Releases a workgroup's shared resources and performs its join decrement (R22, R32). -/
def releaseWg (s : State) (wkey : Nat) : State :=
  if !releaseDue s wkey then s
  else
    let w := wgAt s wkey
    match joinDecrement s w.lkey w.tile w.joinWord with
    | (s, false) => s
    | (s, true) =>
      let s := leaveRequest s wkey (reqOp s w.pid == 4)
      let s := freeWslots s wkey
      let s := { s with harts := w.members.foldl (fun t e => tdel t e.2) s.harts,
                        bankOwner := s.bankOwner.filter (fun e => e.2 != wkey), wgs := tdel s.wgs wkey }
      if w.lkey = 0 then s
      else modLaunch s w.lkey (fun l => (fun (l : Launch) => if w.terminated then addTerm l else l) { l with liveWgs := l.liveWgs - 1 })
/-- Brings a member of a terminated workgroup to its end at its boundary: issued lane instructions complete, the rest of the queue never
issues (R23). An instruction that is indivisible finishes first (06 R165), as does every renewal (14 R326), and a CPY leaves its copy in
its queue (notes/assumptions/66). -/
def endMember (s : State) (k : Nat) : State :=
  let h := hartAt s k
  match h.wait with
  | .placing .. => s
  | .drain => s
  | .exit _ => setHart s k { h with wait := .exit false }
  | _ =>
    if h.ended != 0 || h.indiv || !h.spec.isEmpty then s
    else
      let s := withdraw s k
      let h := landAll (hartAt s k)
      setHart s k { h with laneQ := [], laneWait := .nothing, laneFe := none, iss := {}, run := .waitSync, wait := .drain }
/-- Termination of one workgroup (R23; 12 R285). -/
def terminateWg (s : State) (wkey : Nat) : State :=
  let w := wgAt s wkey
  let s := modWg s wkey (fun w => { w with terminated := true, marked := true, parked := false, saved := [], held := false })
  w.members.foldl (fun s e => endMember s e.2) s
end Ends

section Easels
/-- Entries of a tile's spill ring: HSPILLLEN.LEN × 1,024 (R295). -/
def ringCap (s : State) (p : Nat) : Nat := (partAt s p).spillLen * 1024
/-- Start of a tile's slice of the spill region (R296). -/
def sliceBase (s : State) (p tile : Nat) : Nat :=
  let q := partAt s p; let r := q.rect.toNat
  let i := tileCol tile - field r 0 8; let j := tileRow tile - field r 8 8
  q.spillBase.toNat + (j * field r 16 8 + i) * q.spillLen * 65536
/-- The 32 bytes of a spilled entry, with the hardware's check (R29; notes/assumptions/17). -/
def entryBytes (e : EaselEntry) : List Byte :=
  let body := leBytes 4 e.lkey ++ leBytes 4 e.kidx ++ leBytes 8 e.arg.toNat ++ leBytes 8 e.joinWord.toNat ++ leBytes 4 e.wgid
  body ++ leBytes 4 (Config.easelCheck body).toNat
def entryAddr (s : State) (p tile ring : Nat) : Nat := sliceBase s p tile + ring * 32
/-- The lowest free place of the ring. -/
def ringSlot (e : Easel) (cap : Nat) : Option Nat := (List.range cap).find? (fun i => !e.spilled.any (fun x => x.ring == i))
/-- Free entries a push may still use on a tile: those of launches not yet placed are reserved (R295). -/
def reservedOn (s : State) (tile : Nat) : Nat :=
  s.launches.foldl (fun n e => if !e.2.placed && rectHas e.2.rect tile then n + e.2.p else n) 0
def freeEntries (s : State) (p tile : Nat) : Nat :=
  let e := easelAt s tile
  (32 - e.resident.length) + (ringCap s p - e.spilled.length)
/-- Pushes a descriptor at the bottom, spilling the top entry when 32 are resident (R29): nothing where the ring is full or
faults. -/
def pushEasel (s : State) (tile : Nat) (e : EaselEntry) : Option State :=
  let l := launchAt s e.lkey; let q := easelAt s tile
  if q.resident.length < 32 then some (modEasel s tile (fun q => { q with resident := e :: q.resident }))
  else match q.resident.getLast?, ringSlot q (ringCap s l.pid) with
    | some top, some i =>
      match hwXlate s (launchAt s top.lkey) true (entryAddr s l.pid tile i) 32 with
      | none => none
      | some pa =>
        let top := { top with ring := i }
        let s := hwWrite s 0xFFFFFC (.mem pa) (entryBytes top)
        some (modEasel s tile (fun q => { q with resident := e :: q.resident.dropLast, spilled := top :: q.spilled }))
    | _, _ => none
/-- The place that a push's spill waits for (04 R106). -/
def pushHeld (s : State) (tile : Nat) (e : EaselEntry) : Option (Loc × Nat) :=
  let l := launchAt s e.lkey; let q := easelAt s tile
  match (if q.resident.length < 32 then none else q.resident.getLast?), ringSlot q (ringCap s l.pid) with
  | some top, some i => hwHeld s (launchAt s top.lkey) true (entryAddr s l.pid tile i) 32
  | _, _ => none
/-- The tag checks that a push's spill makes (15 R342). -/
def spillNote (s : State) (tile : Nat) : State :=
  let q := easelAt s tile
  match q.resident.getLast? with
  | none => s
  | some top =>
    let l := launchAt s top.lkey
    if q.resident.length < 32 then s
    else match ringSlot q (ringCap s l.pid) with
      | some i => hwNote s l true (entryAddr s l.pid tile i) 32
      | none => s
/-- The reading back of a spilled entry must wait (04 R106). -/
def readHeld (s : State) (tile : Nat) (e : EaselEntry) : Bool :=
  (hwHeld s (launchAt s e.lkey) false (entryAddr s (launchAt s e.lkey).pid tile e.ring) 32).isSome
/-- A spilled entry read back: whether its read does not fault and its check passes. -/
def readBack (s : State) (tile : Nat) (e : EaselEntry) : Bool :=
  let l := launchAt s e.lkey
  match hwXlate s l false (entryAddr s l.pid tile e.ring) 32 with
  | none => false
  | some pa => readBytes s.mem (.mem pa) 32 == entryBytes e
/-- The tag checks of such a read (15 R342). -/
def readNote (s : State) (tile : Nat) (e : EaselEntry) : State :=
  hwNote s (launchAt s e.lkey) false (entryAddr s (launchAt s e.lkey).pid tile e.ring) 32
/-- An entry is lost (R29): it is never admitted, its join decrement is performed, SPLOST and TERM record it. False while the
join word is held. -/
def loseEntry (s : State) (tile : Nat) (e : EaselEntry) : State × Bool :=
  match joinDecrement s e.lkey tile e.joinWord with
  | (s, false) => (s, false)
  | (s, true) => (modLaunch s e.lkey (fun l => addTerm { l with splost := true, liveWgs := l.liveWgs - 1 }), true)
/-- Refills one resident entry from the spilled part, or loses it (R29). -/
def refillEasel (s : State) (tile : Nat) : State :=
  let q := easelAt s tile
  match q.spilled with
  | [] => s
  | e :: r =>
    if q.resident.length ≥ 32 || readHeld s tile e then s
    else if readBack s tile e then modEasel s tile (fun q => { q with resident := q.resident ++ [e], spilled := r })
    else match loseEntry (readNote s tile e) tile e with
      | (s, true) => modEasel s tile (fun q => { q with spilled := r })
      | (s, false) => s
/-- Takes the top entry away: the spilled part first. A spilled entry that cannot be read back is lost and nothing is taken. -/
def topEntry (q : Easel) : Option EaselEntry :=
  match q.spilled.getLast? with
  | some e => some e
  | none => q.resident.getLast?
def takeTop (s : State) (tile : Nat) : State × Option EaselEntry :=
  let q := easelAt s tile
  match q.spilled.getLast? with
  | some e =>
    let drop := fun (s : State) => modEasel s tile (fun q => { q with spilled := q.spilled.dropLast })
    if readBack s tile e then (drop s, some e)
    else match loseEntry (readNote s tile e) tile e with
      | (s, true) => (drop s, none)
      | (s, false) => (s, none)
  | none =>
    match q.resident.getLast? with
    | some e => (modEasel s tile (fun q => { q with resident := q.resident.dropLast }), some e)
    | none => (s, none)
/-- The launches whose rectangles contain a tile make its stealing area (R30). -/
def stealArea (s : State) (tile : Nat) : List Nat :=
  (List.range 256).filter (fun t => s.launches.any (fun e => running e.2 && rectHas e.2.rect tile && rectHas e.2.rect t))
/-- Rising tile index starting after one's own and wrapping (R30). -/
def rotateAfter (tile : Nat) (l : List Nat) : List Nat := l.filter (fun t => decide (tile < t)) ++ l.filter (fun t => decide (t < tile))
/-- A core's victims in order: its cluster, its die, the rest of its area (R30). -/
def victims (s : State) (tile : Nat) : List Nat :=
  let a := (stealArea s tile).filter (fun t => t != tile)
  let d1 := a.filter (fun t => clusterOf t == clusterOf tile)
  let d2 := a.filter (fun t => clusterOf t != clusterOf tile && dieOf t == dieOf tile)
  let d3 := a.filter (fun t => dieOf t != dieOf tile)
  rotateAfter tile d1 ++ rotateAfter tile d2 ++ rotateAfter tile d3
/-- Whether a core may take an entry now, and where it would go. -/
def canTake (s : State) (tile : Nat) (e : EaselEntry) : Option (Nat × Nat) :=
  let l := launchAt s e.lkey
  if energyHeld s l.pid then none else fitsWg s tile l (l.kernels.getD e.kidx {})
/-- The parked workgroup of a core that resumes first, if one fits (R298). -/
def resumeChoice (s : State) (tile : Nat) : Option (Nat × Nat) :=
  let c := s.wgs.filterMap (fun e =>
    if e.2.tile == tile && e.2.parked && !e.2.held && !energyHeld s e.2.pid then
      (fitsResume s e.2).map (fun b => (e.2.parkSeq, e.1, b)) else none)
  (c.foldl (fun (a : Option (Nat × Nat × Nat)) x => match a with
    | none => some x
    | some y => if x.1 < y.1 then some x else some y) none).map (fun x => x.2)
/-- A thief loses an easel's only entry to the owner that requests it in the same clk (R31): cores decide in tile order, so the
owner of a higher tile has its decision still to come. -/
def ownerTakes (s : State) (thief v : Nat) (e : EaselEntry) : Bool :=
  let q := easelAt s v
  decide (thief < v) && q.spilled.isEmpty && q.resident.length == 1 && (resumeChoice s v).isNone && (canTake s v e).isSome
/-- One admission decision of a core (13 R297, R298; 01 R30, R31). Its probe sequence goes on from the next victim after a decision that
failed, through as many rounds as fail, stays at a spilled entry whose reading back is held, and starts again at its first victim when the
core takes an entry, and when a spilled entry it would have taken is lost (notes/assumptions/68). -/
def admissionStep (s : State) (tile : Nat) : State :=
  match resumeChoice s tile with
  | some (w, b) => resumeWg s w b
  | none =>
    let q := easelAt s tile
    match q.resident.head?.bind (fun e => (canTake s tile e).map (fun p => (e, p))) with
    | some (e, b, f) => admitWg (modEasel s tile (fun q => { q with resident := q.resident.drop 1, probe := 0 })) tile b f e
    | none =>
      let vs := victims s tile
      if vs.isEmpty then s
      else
        let i := q.probe % vs.length
        let v := vs.getD i 0
        let next := modEasel s tile (fun q => { q with probe := (i + 1) % vs.length })
        match topEntry (easelAt s v) with
        | none => next
        | some e =>
          match canTake s tile e with
          | none => next
          | some _ =>
            if ownerTakes s tile v e then next
            else if !(easelAt s v).spilled.isEmpty && readHeld s v e then s
            else match takeTop (modEasel s tile (fun q => { q with probe := 0 })) v with
            | (s, none) => s
            | (s, some e) => match canTake s tile e with
              | some (b, f) => admitWg s tile b f e
              | none => s
end Easels

section Completion
/-- Whether a window word still belongs to the workgroup that issued a launch, or a mailbox word to its existing partition
(01 R26). -/
def issuerOwns (s : State) (l : Launch) (w : Loc) : Bool :=
  match w with
  | .win o => (match tfind s.bankOwner (o / 2 ^ 17) with
    | some g => g == l.issuerWg && (tfind s.wgs g).isSome
    | none => false)
  | .mbox b => mailboxPart s (b / 256) == some l.pid && ((partAt s l.pid).valid || l.pid == 15)
  | _ => false
/-- The completion status word (R26). -/
def statusWord (l : Launch) : Word :=
  wd (l.term % 2 ^ 24 + (if l.ttrap then 2 ^ 31 else 0) + (if l.cdisc then 2 ^ 30 else 0) + (if l.splost then 2 ^ 29 else 0) +
    (if l.jdrop then 2 ^ 28 else 0))
/-- Everything a launch created has finished (R26). -/
def launchFinished (s : State) (k : Nat) : Bool :=
  match tfind s.launches k with
  | none => false
  | some l => l.placed && !l.done && l.records.isEmpty && l.liveWgs == 0 && l.liveTasks == 0 && !s.mem.net.any (fun r => r.lkey == k) &&
      !s.copies.any (fun e => e.2.lkey == k)
/-- Another message to the same MBOX word came first: a copy's that is parked, or a tasklet's header (07 R184; 12 R288). -/
def messageBefore (s : State) (w : Loc) (n : Nat) : Bool :=
  s.copies.any (fun e => e.2.parked && !e.2.msgSent && (launchAt s e.2.lkey).mbox == w && issuerOwns s (launchAt s e.2.lkey) w &&
    decide (e.2.parkSeq < n)) ||
  s.launches.any (fun e => e.2.mbox == w && issuerOwns s e.2 w && (match e.2.headers with
    | (m, _) :: _ => decide (m < n)
    | [] => false))
/-- Drops a finished launch's record once its headers are delivered. -/
def dropLaunch (s : State) (k : Nat) : State :=
  let l := launchAt s k
  if l.done && l.headers.isEmpty then { s with launches := tdel s.launches k } else s
/-- The completion write (R26), which waits while its word is held (04 R106). -/
def completeLaunch (s : State) (k : Nat) : State :=
  if !launchFinished s k || (issuerOwns s (launchAt s k) (launchAt s k).compl && heldWrite s 0xFFFFFE (launchAt s k).compl 4) then s
  else
    let l := launchAt s k
    let s := if issuerOwns s l l.compl then setFullWrite s l.compl (statusWord l) else s
    dropLaunch (modLaunch s k (fun l => { l with done := true })) k
end Completion

section RunQueues
/-- Entries of a home core's memory-resident run queue: 128 bytes each in the upper half of the tile's slice (13 R302). -/
def runCap (s : State) (p : Nat) : Nat := (partAt s p).spillLen * 256
def runAddr (s : State) (p tile i : Nat) : Nat := sliceBase s p tile + (partAt s p).spillLen * 32768 + i * 128
/-- Place in the ring of the j-th entry behind its head (R302). -/
def ringAt (s : State) (tile p j : Nat) : Nat := ((homeAt s tile).memHead + j) % max 1 (runCap s p)
/-- An access to the ring by a tasklet's entry: its faulting address, if it faults (R302, R401; notes/assumptions/17). -/
def runFault (s : State) (k tile i : Nat) (write : Bool) : Option Nat :=
  let h := hartAt s k
  match hwXlate s (launchAt s h.lkey) write (runAddr s h.pid tile i) 128 with
  | none => some (runAddr s h.pid tile i)
  | some _ => none
/-- The tag checks of such an access (15 R342). -/
def runNote (s : State) (k tile i : Nat) (write : Bool) : State :=
  let h := hartAt s k
  hwNote s (launchAt s h.lkey) write (runAddr s h.pid tile i) 128
/-- The place that an access to the ring waits for (04 R106). -/
def runHeld (s : State) (k tile i : Nat) (write : Bool) : Bool :=
  let h := hartAt s k
  (hwHeld s (launchAt s h.lkey) write (runAddr s h.pid tile i) 128).isSome
/-- A tasklet joins the tail of the memory-resident queue; a ring fault ends it. None where the ring is full, or its place held. -/
def joinRing (s : State) (k tile : Nat) : Option State :=
  let q := homeAt s tile
  let i := ringAt s tile (hartAt s k).pid q.memQ.length
  if q.memQ.length < runCap s (hartAt s k).pid && !runHeld s k tile i true then
    match runFault s k tile i true with
    | some a => some (taskletTrapOp (runNote s k tile i true) k 7 (dw a))
    | none => some (modHart (modHome s tile (fun q => { q with memQ := q.memQ ++ [k] })) k (fun h => { h with place := .memQueue tile }))
  else none
/-- A tasklet joins the tail of its home core's run queue (01 R34): both queues together are one FIFO. -/
def joinRunQueue (s : State) (k tile : Nat) : Option State :=
  let q := homeAt s tile
  if q.memQ.isEmpty && decide (q.hwQ.length < 64) then
    some (modHart (modHome s tile (fun q => { q with hwQ := q.hwQ ++ [k] })) k (fun h => { h with place := .hwQueue tile }))
  else joinRing s k tile
/-- A refused tasklet leaves its slot for a run queue, if one has room (01 R34). In a partition that has a memory-resident queue whose ring
is full it keeps its slot and executes the LRW again at its next turn, without a place in the hardware queue (notes/assumptions/69). -/
def leaveSlot (s : State) (k tile : Nat) : Option State :=
  let out := modHome s tile (fun q => { q with slots := q.slots.filter (fun e => e.2 != k) })
  if runCap s (hartAt s k).pid ≠ 0 then joinRing out k tile
  else if (homeAt s tile).hwQ.length < 64 then
    some (modHart (modHome out tile (fun q => { q with hwQ := q.hwQ ++ [k] })) k (fun h => { h with place := .hwQueue tile }))
  else none
/-- Whether a new tasklet's packet would find room at a home core; packets on their way count (13 R302). -/
def homeRoom (s : State) (tile pid : Nat) : Bool :=
  let q := homeAt s tile
  let fly := (s.harts.filter (fun e => e.2.place == .flight tile && e.2.tasklet)).length
  decide (q.hwQ.length + q.memQ.length + fly < 64 + runCap s pid)
end RunQueues

end Sys2Proof.Machine
end

