-- ==== Sys2Proof/Machine/Alu.lean ====
section
/-! DEFINITION. RV64I and M register instructions, jumps and branches (05 R120, R129). -/
namespace Sys2Proof.Machine

section Shared
/-- An instruction with a destination and one source. -/
def aluI (bits : DWord) (rd rs1 : Reg) (s : State) (f : DWord → DWord) : Out :=
  scalar bits true [rd, rs1] s (fun h => retireX s rd (f (h.getX rs1)))
/-- An instruction with a destination and two sources. -/
def aluR (bits : DWord) (rd rs1 rs2 : Reg) (s : State) (f : DWord → DWord → DWord) : Out :=
  scalar bits true [rd, rs1, rs2] s (fun h => retireX s rd (f (h.getX rs1) (h.getX rs2)))
/-- A conditional branch; its trace packet says whether it was taken (16 R370). -/
def branch (bits : DWord) (rs1 rs2 : Reg) (off : BitVec 12) (s : State) (c : DWord → DWord → Bool) : Out :=
  scalar bits true [rs1, rs2] s (fun h =>
    let t := c (h.getX rs1) (h.getX rs2)
    let dest := h.pc + (off ++ (0 : BitVec 1)).signExtend 64
    if t && dest.toNat % 4 != 0 then jumpTo s h dest
    else
      let s := traceEvent s s.cur (.br t)
      if t then jumpTo s h dest else retireCur s h)
def boolX (b : Bool) : DWord := if b then 1 else 0
/-- The low 32 bits of a 32-bit operation, sign-extended. -/
def sextW (v : DWord) : DWord := (v.setWidth 32).signExtend 64
def lowW (v : DWord) : BitVec 32 := v.setWidth 32
/-- Standard division: by zero −1 and the dividend; the overflow case the dividend and 0. -/
def divS {w : Nat} (a b : BitVec w) : BitVec w := if b = 0 then BitVec.allOnes w else a.sdiv b
def remS {w : Nat} (a b : BitVec w) : BitVec w := if b = 0 then a else a.srem b
def divU {w : Nat} (a b : BitVec w) : BitVec w := if b = 0 then BitVec.allOnes w else a / b
def remU {w : Nat} (a b : BitVec w) : BitVec w := if b = 0 then a else a % b
/-- The upper 64 bits of an exact product. -/
def mulHigh (p : Int) : DWord := BitVec.ofInt 64 (p / 2 ^ 64)
end Shared

section Immediate
def execAddi (rd rs1 : Reg) (imm : BitVec 12) (s : State) : Out :=
  aluI (insnBits (.addi rd rs1 imm)) rd rs1 s (fun a => a + sext12 imm)
def execSlti (rd rs1 : Reg) (imm : BitVec 12) (s : State) : Out :=
  aluI (insnBits (.slti rd rs1 imm)) rd rs1 s (fun a => boolX (a.slt (sext12 imm)))
def execSltiu (rd rs1 : Reg) (imm : BitVec 12) (s : State) : Out :=
  aluI (insnBits (.sltiu rd rs1 imm)) rd rs1 s (fun a => boolX (a.ult (sext12 imm)))
def execXori (rd rs1 : Reg) (imm : BitVec 12) (s : State) : Out :=
  aluI (insnBits (.xori rd rs1 imm)) rd rs1 s (fun a => a ^^^ sext12 imm)
def execOri (rd rs1 : Reg) (imm : BitVec 12) (s : State) : Out :=
  aluI (insnBits (.ori rd rs1 imm)) rd rs1 s (fun a => a ||| sext12 imm)
def execAndi (rd rs1 : Reg) (imm : BitVec 12) (s : State) : Out :=
  aluI (insnBits (.andi rd rs1 imm)) rd rs1 s (fun a => a &&& sext12 imm)
def execAddiw (rd rs1 : Reg) (imm : BitVec 12) (s : State) : Out :=
  aluI (insnBits (.addiw rd rs1 imm)) rd rs1 s (fun a => sextW (a + sext12 imm))
def execSlli (rd rs1 : Reg) (sh : BitVec 6) (s : State) : Out :=
  aluI (insnBits (.slli rd rs1 sh)) rd rs1 s (fun a => a <<< sh.toNat)
def execSrli (rd rs1 : Reg) (sh : BitVec 6) (s : State) : Out :=
  aluI (insnBits (.srli rd rs1 sh)) rd rs1 s (fun a => a >>> sh.toNat)
def execSrai (rd rs1 : Reg) (sh : BitVec 6) (s : State) : Out :=
  aluI (insnBits (.srai rd rs1 sh)) rd rs1 s (fun a => a.sshiftRight sh.toNat)
def execSlliw (rd rs1 : Reg) (sh : BitVec 5) (s : State) : Out :=
  aluI (insnBits (.slliw rd rs1 sh)) rd rs1 s (fun a => (lowW a <<< sh.toNat).signExtend 64)
def execSrliw (rd rs1 : Reg) (sh : BitVec 5) (s : State) : Out :=
  aluI (insnBits (.srliw rd rs1 sh)) rd rs1 s (fun a => (lowW a >>> sh.toNat).signExtend 64)
def execSraiw (rd rs1 : Reg) (sh : BitVec 5) (s : State) : Out :=
  aluI (insnBits (.sraiw rd rs1 sh)) rd rs1 s (fun a => ((lowW a).sshiftRight sh.toNat).signExtend 64)
def execLui (rd : Reg) (imm : BitVec 20) (s : State) : Out :=
  scalar (insnBits (.lui rd imm)) true [rd] s (fun _ => retireX s rd ((imm ++ (0 : BitVec 12)).signExtend 64))
def execAuipc (rd : Reg) (imm : BitVec 20) (s : State) : Out :=
  scalar (insnBits (.auipc rd imm)) true [rd] s (fun h => retireX s rd (h.pc + (imm ++ (0 : BitVec 12)).signExtend 64))
end Immediate

section Register
def execAdd (rd rs1 rs2 : Reg) (s : State) : Out :=
  aluR (insnBits (.add rd rs1 rs2)) rd rs1 rs2 s (fun a b => a + b)
def execSub (rd rs1 rs2 : Reg) (s : State) : Out :=
  aluR (insnBits (.sub rd rs1 rs2)) rd rs1 rs2 s (fun a b => a - b)
def execSll (rd rs1 rs2 : Reg) (s : State) : Out :=
  aluR (insnBits (.sll rd rs1 rs2)) rd rs1 rs2 s (fun a b => a <<< (b.toNat % 64))
def execSlt (rd rs1 rs2 : Reg) (s : State) : Out :=
  aluR (insnBits (.slt rd rs1 rs2)) rd rs1 rs2 s (fun a b => boolX (a.slt b))
def execSltu (rd rs1 rs2 : Reg) (s : State) : Out :=
  aluR (insnBits (.sltu rd rs1 rs2)) rd rs1 rs2 s (fun a b => boolX (a.ult b))
def execXor (rd rs1 rs2 : Reg) (s : State) : Out :=
  aluR (insnBits (.xor rd rs1 rs2)) rd rs1 rs2 s (fun a b => a ^^^ b)
def execSrl (rd rs1 rs2 : Reg) (s : State) : Out :=
  aluR (insnBits (.srl rd rs1 rs2)) rd rs1 rs2 s (fun a b => a >>> (b.toNat % 64))
def execSra (rd rs1 rs2 : Reg) (s : State) : Out :=
  aluR (insnBits (.sra rd rs1 rs2)) rd rs1 rs2 s (fun a b => a.sshiftRight (b.toNat % 64))
def execOr (rd rs1 rs2 : Reg) (s : State) : Out :=
  aluR (insnBits (.or rd rs1 rs2)) rd rs1 rs2 s (fun a b => a ||| b)
def execAnd (rd rs1 rs2 : Reg) (s : State) : Out :=
  aluR (insnBits (.and rd rs1 rs2)) rd rs1 rs2 s (fun a b => a &&& b)
def execAddw (rd rs1 rs2 : Reg) (s : State) : Out :=
  aluR (insnBits (.addw rd rs1 rs2)) rd rs1 rs2 s (fun a b => sextW (a + b))
def execSubw (rd rs1 rs2 : Reg) (s : State) : Out :=
  aluR (insnBits (.subw rd rs1 rs2)) rd rs1 rs2 s (fun a b => sextW (a - b))
def execSllw (rd rs1 rs2 : Reg) (s : State) : Out :=
  aluR (insnBits (.sllw rd rs1 rs2)) rd rs1 rs2 s (fun a b => (lowW a <<< (b.toNat % 32)).signExtend 64)
def execSrlw (rd rs1 rs2 : Reg) (s : State) : Out :=
  aluR (insnBits (.srlw rd rs1 rs2)) rd rs1 rs2 s (fun a b => (lowW a >>> (b.toNat % 32)).signExtend 64)
def execSraw (rd rs1 rs2 : Reg) (s : State) : Out :=
  aluR (insnBits (.sraw rd rs1 rs2)) rd rs1 rs2 s (fun a b => ((lowW a).sshiftRight (b.toNat % 32)).signExtend 64)
def execMul (rd rs1 rs2 : Reg) (s : State) : Out :=
  aluR (insnBits (.mul rd rs1 rs2)) rd rs1 rs2 s (fun a b => a * b)
def execMulh (rd rs1 rs2 : Reg) (s : State) : Out :=
  aluR (insnBits (.mulh rd rs1 rs2)) rd rs1 rs2 s (fun a b => mulHigh (a.toInt * b.toInt))
def execMulhsu (rd rs1 rs2 : Reg) (s : State) : Out :=
  aluR (insnBits (.mulhsu rd rs1 rs2)) rd rs1 rs2 s (fun a b => mulHigh (a.toInt * (b.toNat : Int)))
def execMulhu (rd rs1 rs2 : Reg) (s : State) : Out :=
  aluR (insnBits (.mulhu rd rs1 rs2)) rd rs1 rs2 s (fun a b => mulHigh ((a.toNat : Int) * (b.toNat : Int)))
def execDiv (rd rs1 rs2 : Reg) (s : State) : Out :=
  aluR (insnBits (.div rd rs1 rs2)) rd rs1 rs2 s (fun a b => divS a b)
def execDivu (rd rs1 rs2 : Reg) (s : State) : Out :=
  aluR (insnBits (.divu rd rs1 rs2)) rd rs1 rs2 s (fun a b => divU a b)
def execRem (rd rs1 rs2 : Reg) (s : State) : Out :=
  aluR (insnBits (.rem rd rs1 rs2)) rd rs1 rs2 s (fun a b => remS a b)
def execRemu (rd rs1 rs2 : Reg) (s : State) : Out :=
  aluR (insnBits (.remu rd rs1 rs2)) rd rs1 rs2 s (fun a b => remU a b)
def execMulw (rd rs1 rs2 : Reg) (s : State) : Out :=
  aluR (insnBits (.mulw rd rs1 rs2)) rd rs1 rs2 s (fun a b => sextW (a * b))
def execDivw (rd rs1 rs2 : Reg) (s : State) : Out :=
  aluR (insnBits (.divw rd rs1 rs2)) rd rs1 rs2 s (fun a b => (divS (lowW a) (lowW b)).signExtend 64)
def execDivuw (rd rs1 rs2 : Reg) (s : State) : Out :=
  aluR (insnBits (.divuw rd rs1 rs2)) rd rs1 rs2 s (fun a b => (divU (lowW a) (lowW b)).signExtend 64)
def execRemw (rd rs1 rs2 : Reg) (s : State) : Out :=
  aluR (insnBits (.remw rd rs1 rs2)) rd rs1 rs2 s (fun a b => (remS (lowW a) (lowW b)).signExtend 64)
def execRemuw (rd rs1 rs2 : Reg) (s : State) : Out :=
  aluR (insnBits (.remuw rd rs1 rs2)) rd rs1 rs2 s (fun a b => (remU (lowW a) (lowW b)).signExtend 64)
end Register

section Control
/-- JAL: the link is written only when the jump retires (R120). -/
def execJal (rd : Reg) (off : BitVec 20) (s : State) : Out :=
  scalar (insnBits (.jal rd off)) true [rd] s (fun h =>
    jumpTo s (h.setX rd (h.pc + 4)) (h.pc + (off ++ (0 : BitVec 1)).signExtend 64))
/-- JALR: bit 0 of the sum is cleared; the target is read before the link is written. -/
def execJalr (rd rs1 : Reg) (imm : BitVec 12) (s : State) : Out :=
  scalar (insnBits (.jalr rd rs1 imm)) true [rd, rs1] s (fun h =>
    let t := (h.getX rs1 + sext12 imm) &&& ~~~(1 : DWord)
    let s := if t.toNat % 4 = 0 then traceEvent s s.cur (.ind t) else s
    jumpTo s (h.setX rd (h.pc + 4)) t)
def execBeq (rs1 rs2 : Reg) (off : BitVec 12) (s : State) : Out :=
  branch (insnBits (.beq rs1 rs2 off)) rs1 rs2 off s (fun a b => a == b)
def execBne (rs1 rs2 : Reg) (off : BitVec 12) (s : State) : Out :=
  branch (insnBits (.bne rs1 rs2 off)) rs1 rs2 off s (fun a b => a != b)
def execBlt (rs1 rs2 : Reg) (off : BitVec 12) (s : State) : Out :=
  branch (insnBits (.blt rs1 rs2 off)) rs1 rs2 off s (fun a b => a.slt b)
def execBge (rs1 rs2 : Reg) (off : BitVec 12) (s : State) : Out :=
  branch (insnBits (.bge rs1 rs2 off)) rs1 rs2 off s (fun a b => !a.slt b)
def execBltu (rs1 rs2 : Reg) (off : BitVec 12) (s : State) : Out :=
  branch (insnBits (.bltu rs1 rs2 off)) rs1 rs2 off s (fun a b => a.ult b)
def execBgeu (rs1 rs2 : Reg) (off : BitVec 12) (s : State) : Out :=
  branch (insnBits (.bgeu rs1 rs2 off)) rs1 rs2 off s (fun a b => !a.ult b)
end Control

end Sys2Proof.Machine
end

