-- ==== Sys2Proof/Machine/Access.lean ====
section
/-! DEFINITION. Scalar data accesses as one operation: translation, the tasklet's migration (01 R35), the wait for held places and
the access itself. -/
namespace Sys2Proof.Machine

/-- The tile a tasklet must move to before an access (01 R35). -/
def awayHome (h : Hart) (l : Loc) : Option Nat :=
  match l with
  | .mem a => if h.tasklet && homeOf a != h.tile then some (homeOf a) else none
  | _ => none
/-- Whether a tasklet's access to a place must wait for one of its loads that is still outstanding (01 R36; 14 R318). -/
def loadPending (h : Hart) (l : Loc) (n : Nat) : Bool :=
  let w := wordSpan l n
  h.loads.any (fun p => overlaps p.loc p.size w.1 w.2)
/-- A located scalar access in a given translation context: its fault, the tasklet's departure, or what follows. A walk that meets a held
table entry waits. -/
def accessIn (s : State) (c : Ctx) (lkey : Nat) (acc : Acc) (cls : Cls) (va : DWord) (n : Nat) (f : State → Located → State) : State :=
  let h := curHart s
  if va.toNat % n == 0 && walkWaits s c lkey acc va then heldCur s (walkWait s c lkey acc va)
  else match locate s c lkey h.tasklet acc cls va n with
  | .error t => trapCur (notePoisonAt s c lkey acc va n) t
  | .ok l =>
    let s := l.note s
    match awayHome h l.loc with
    | some t => modCur s (fun h => { h with migrateTo := some t, run := .waitDep })
    | none => if loadPending h l.loc n then heldCur s .nothing else f s l
/-- The same in the agent's own context. -/
def accessAt (s : State) (h : Hart) (acc : Acc) (cls : Cls) (va : DWord) (n : Nat) (f : State → Located → State) : State :=
  accessIn s (dataCtx h) h.lkey acc cls va n f
/-- Sign and zero extension of an n-byte value. -/
def extS (n : Nat) (v : DWord) : DWord := sextFrom (8 * n) v.toNat
def extU (n : Nat) (v : DWord) : DWord := dw (bitsOf v 0 (8 * n))
def ext (signed : Bool) (n : Nat) (v : DWord) : DWord := if signed then extS n v else extU n v
/-- A tasklet leaves a home-local load outstanding that its home holds: the register travels as pending (01 R36). -/
def leaveLoad (s : State) (rd : Reg) (l : Loc) (n : Nat) (signed : Bool) : State :=
  modCur s (fun h => retireHart { h with loads := h.loads ++ [{ rd := rd, loc := l, size := n, signed := signed, tile := h.tile }] })
/-- The reply of an outstanding load, once its home sends it. -/
def loadReply (s : State) (p : PendLoad) : Option DWord :=
  match p.value with
  | some v => some v
  | none => if heldRead s p.loc p.size then none else some (ext p.signed p.size (readLoc s.mem p.loc p.size))
/-- A reply that has come to the tile where its tasklet is writes its register (01 R36). -/
def settleLoad (s : State) (h : Hart) (p : PendLoad) : Hart :=
  match (if p.tile == h.tile then loadReply s p else none) with
  | some v => h.setX p.rd v
  | none => { h with loads := h.loads ++ [p] }
def settleLoads (s : State) (h : Hart) : Hart := h.loads.foldl (settleLoad s) { h with loads := [] }
/-- The registers that an instruction reads or writes, for the opcodes that a tasklet issues while a load is outstanding; nothing for the
others, which wait for every reply (01 R36; 05 R121). -/
def namedRegs (w : Word) : Option (List Reg) :=
  let rd := rdF w; let r1 := rs1F w; let r2 := rs2F w
  let o := opF w
  if o = 0x37 ∨ o = 0x17 ∨ o = 0x6F then some [rd]
  else if o = 0x67 ∨ o = 0x03 ∨ o = 0x13 ∨ o = 0x1B then some [rd, r1]
  else if o = 0x63 ∨ o = 0x23 then some [r1, r2]
  else if o = 0x33 ∨ o = 0x3B then some [rd, r1, r2]
  else none
/-- The scoreboard of a tasklet holds an instruction that names the register of an outstanding load (01 R36). -/
def loadHeld (h : Hart) (w : Word) : Bool :=
  !h.loads.isEmpty && (match namedRegs w with
    | some rs => rs.any (fun r => h.loads.any (fun p => p.rd == r))
    | none => true)
/-- A load into a register. -/
def loadIn (s : State) (c : Ctx) (lkey : Nat) (rd : Reg) (va : DWord) (n : Nat) (signed : Bool) : State :=
  accessIn s c lkey .load .scalar va n (fun s l =>
    match agentLoad s s.cur l.loc l.mode n with
    | (s, none) =>
      if (curHart s).tasklet && ownedByCopy s l.loc n && !hasWrites s s.cur then leaveLoad s rd l.loc n signed
      else heldCur s (.place l.loc n false)
    | (s, some v) => retireX s rd (ext signed n v))
/-- A store, which stays buffered until its home performs it. -/
def storeIn (s : State) (c : Ctx) (lkey : Nat) (va : DWord) (n : Nat) (v : DWord) : State :=
  accessIn s c lkey .store .scalar va n (fun s l => retire (agentStore s s.cur l.loc l.mode n va (v &&& dw (2 ^ (8 * n) - 1))))
/-- Waits until the agent's earlier writes, and those its acquires obtained, are in home order (04 R100, R105), then goes on. -/
def afterRelease (s : State) (f : State → State) : State :=
  match flushAgent s s.cur with
  | (s, true) => f s
  | (s, false) => heldCur s .writes
def releaseThen (rl : Bool) (s : State) (f : State → State) : State := if rl then afterRelease s f else f s
def acquireIf (aq : Bool) (s : State) : State := if aq then acquireAll s s.cur else s

end Sys2Proof.Machine
end

