-- ==== Sys2Proof/Machine/Amo.lean ====
section
/-! DEFINITION. Scalar loads and stores, fences, LR and SC, and the standard atomics (04 R92–R105; 05 R129; 14 R318–R328). -/
namespace Sys2Proof.Machine

section LoadStore
/-- A load of n bytes from x[rs1] + imm. -/
def loadOp (bits : DWord) (rd rs1 : Reg) (imm : BitVec 12) (n : Nat) (signed : Bool) (s : State) : Out :=
  scalar bits true [rd, rs1] s (fun h => loadIn s (dataCtx h) h.lkey rd (h.getX rs1 + sext12 imm) n signed)
/-- A store of the low n bytes of x[rs2]. -/
def storeOp (bits : DWord) (rs1 rs2 : Reg) (imm : BitVec 12) (n : Nat) (s : State) : Out :=
  scalar bits true [rs1, rs2] s (fun h => storeIn s (dataCtx h) h.lkey (h.getX rs1 + sext12 imm) n (h.getX rs2))
def execLb (rd rs1 : Reg) (imm : BitVec 12) (s : State) : Out :=
  loadOp (insnBits (.lb rd rs1 imm)) rd rs1 imm 1 true s
def execLh (rd rs1 : Reg) (imm : BitVec 12) (s : State) : Out :=
  loadOp (insnBits (.lh rd rs1 imm)) rd rs1 imm 2 true s
def execLw (rd rs1 : Reg) (imm : BitVec 12) (s : State) : Out :=
  loadOp (insnBits (.lw rd rs1 imm)) rd rs1 imm 4 true s
def execLd (rd rs1 : Reg) (imm : BitVec 12) (s : State) : Out :=
  loadOp (insnBits (.ld rd rs1 imm)) rd rs1 imm 8 false s
def execLbu (rd rs1 : Reg) (imm : BitVec 12) (s : State) : Out :=
  loadOp (insnBits (.lbu rd rs1 imm)) rd rs1 imm 1 false s
def execLhu (rd rs1 : Reg) (imm : BitVec 12) (s : State) : Out :=
  loadOp (insnBits (.lhu rd rs1 imm)) rd rs1 imm 2 false s
def execLwu (rd rs1 : Reg) (imm : BitVec 12) (s : State) : Out :=
  loadOp (insnBits (.lwu rd rs1 imm)) rd rs1 imm 4 false s
def execSb (rs1 rs2 : Reg) (imm : BitVec 12) (s : State) : Out :=
  storeOp (insnBits (.sb rs1 rs2 imm)) rs1 rs2 imm 1 s
def execSh (rs1 rs2 : Reg) (imm : BitVec 12) (s : State) : Out :=
  storeOp (insnBits (.sh rs1 rs2 imm)) rs1 rs2 imm 2 s
def execSw (rs1 rs2 : Reg) (imm : BitVec 12) (s : State) : Out :=
  storeOp (insnBits (.sw rs1 rs2 imm)) rs1 rs2 imm 4 s
def execSd (rs1 rs2 : Reg) (imm : BitVec 12) (s : State) : Out :=
  storeOp (insnBits (.sd rs1 rs2 imm)) rs1 rs2 imm 8 s
end LoadStore

section Fences
/-- A fence that releases and acquires at system scope (04 R97, R105). -/
def fullFence (s : State) : State :=
  afterRelease s (fun s => retire (acquireAll s s.cur))
/-- FENCE: an empty predecessor or successor set orders nothing (R97). -/
def execFence (fm pred succ : BitVec 4) (rs1 rd : Reg) (s : State) : Out :=
  scalar (insnBits (.fence fm pred succ rs1 rd)) true [rs1, rd] s (fun h =>
    if pred = 0 ∨ succ = 0 then retireCur s h else fullFence s)
def execFenceTso (rs1 rd : Reg) (s : State) : Out :=
  scalar (insnBits (.fenceTso rs1 rd)) true [rs1, rd] s (fun _ => fullFence s)
/-- FENCE.I: the group's fetch follows its earlier stores (R97). -/
def execFenceI (imm : BitVec 12) (rs1 rd : Reg) (s : State) : Out :=
  scalar (insnBits (.fenceI imm rs1 rd)) false [rs1, rd] s (fun _ => afterRelease s retire)
/-- PAUSE holds the group's scalar issue for 32 clk (05 R129). -/
def execPause (s : State) : Out :=
  scalar (insnBits .pause) false [] s (fun h => retireCur s { h with pauseTo := s.clk + 32 })
end Fences

section Reservations
/-- LR table entries of a home core (14 R321). -/
def lrTable (s : State) (home : Nat) : List LrRes := s.mem.lrs.filter (fun r => r.table && homeOf r.addr == home)
/-- Room for one more entry: a full table drops its oldest entry older than 128 clk. -/
def lrMakeRoom (s : State) (home : Nat) : Option State :=
  if (lrTable s home).length < 32 then some s
  else match (lrTable s home).find? (fun r => decide (r.clk + 128 < s.clk)) with
    | some r => some (modMem s (fun m => { m with lrs := m.lrs.filter (fun q => q != r) }))
    | none => none
/-- LR (R321): reads at the home and reserves exactly the span. -/
def lrOp (bits : DWord) (rd rs1 : Reg) (aq rl : Bool) (n : Nat) (s : State) : Out :=
  scalar bits true [rd, rs1] s (fun h =>
    let va := h.getX rs1
    accessAt s h .load .lrsc va n (fun s l =>
      releaseThen rl s (fun s =>
        let s := modMem s (fun m => { m with lrs := m.lrs.filter (fun r => r.hart != s.cur) })
        -- a write of any agent that is on its way to the span comes first, other agents' remote updates apart: no second LR holds it
        -- again (04 R110; 13 R303; notes/assumptions/70)
        let w := wordSpan l.loc n
        let (s, ok) := flushIf (fun r => overlaps r.loc r.size w.1 w.2 && (r.red.isNone || r.agent == s.cur)) s
        match l.loc with
        | .mem a =>
          if !ok || heldRead s l.loc n || unanswered s s.cur l.loc n then heldCur s (.place l.loc n false)
          else
            let room := if l.mode = 0 then some s else lrMakeRoom s (homeOf a)
            match room with
            | none => heldCur s .nothing
            | some s =>
              let v := readLoc s.mem l.loc n
              let s := modMem s (fun m => { m with
                lrs := m.lrs ++ [{ hart := s.cur, addr := a, size := n, clk := s.clk, table := l.mode != 0 }],
                dir := if l.mode = 0 ∧ !h.tasklet then tset 0 m.dir (dirKey (a / 64) (subcoreKey h.tile h.slot)) 0xFFFF else m.dir })
              let s := l2Loc (if l.mode = 0 ∧ !h.tasklet then fitCache s (hartHolder h) (a / 64) else s) l.loc n
              retireX (acquireIf aq s) rd (extS n v)
        | _ => heldCur s .nothing)))
/-- SC (R321): succeeds at the home only while the reservation stands; any SC ends it. -/
def scOp (bits : DWord) (rd rs1 rs2 : Reg) (aq rl : Bool) (n : Nat) (s : State) : Out :=
  scalar bits true [rd, rs1, rs2] s (fun h =>
    accessAt s h .store .lrsc (h.getX rs1) n (fun s l =>
      releaseThen rl s (fun s =>
        let (s, ok) := flushWord s s.cur l.loc n
        let mine := match l.loc with
          | .mem a => s.mem.lrs.any (fun r => r.hart == s.cur && r.addr == a && r.size == n)
          | _ => false
        if !ok || heldWrite s s.cur l.loc n || unanswered s s.cur l.loc n then heldCur s (.place l.loc n true)
        else
          let drop := fun (s : State) => modMem s (fun m => { m with lrs := m.lrs.filter (fun r => r.hart != s.cur) })
          if !mine then retireX (acquireIf aq (drop s)) rd 1
          else
            let s := if l.mode = 1 then dropCopies s h.tile l.loc n else s
            match homeWriteN s s.cur l.loc n (h.getX rs2) with
            | (s, true) => retireX (acquireIf aq (drop s)) rd 0
            | (s, false) => heldCur s (.place l.loc n true))))
def execLrW (rd rs1 : Reg) (aq rl : Bool) (s : State) : Out :=
  lrOp (insnBits (.lrW rd rs1 aq rl)) rd rs1 aq rl 4 s
def execLrD (rd rs1 : Reg) (aq rl : Bool) (s : State) : Out :=
  lrOp (insnBits (.lrD rd rs1 aq rl)) rd rs1 aq rl 8 s
def execScW (rd rs1 rs2 : Reg) (aq rl : Bool) (s : State) : Out :=
  scOp (insnBits (.scW rd rs1 rs2 aq rl)) rd rs1 rs2 aq rl 4 s
def execScD (rd rs1 rs2 : Reg) (aq rl : Bool) (s : State) : Out :=
  scOp (insnBits (.scD rd rs1 rs2 aq rl)) rd rs1 rs2 aq rl 8 s
end Reservations

section Atomics
/-- The bits of an A-extension instruction. -/
def amoBits (fn5 : BitVec 5) (aq rl : Bool) (rs2 rs1 : Reg) (f3 : BitVec 3) (rd : Reg) : DWord :=
  (encR (fn5 ++ bit aq ++ bit rl) rs2 rs1 f3 rd 0x2F#7).setWidth 64
/-- A standard AMO: one read-modify-write at the home (R103). -/
def amoOp (bits : DWord) (o : Rmw) (rd rs1 rs2 : Reg) (aq rl : Bool) (n : Nat) (s : State) : Out :=
  scalar bits true [rd, rs1, rs2] s (fun h =>
    accessAt s h .store .amo (h.getX rs1) n (fun s l =>
      releaseThen rl s (fun s =>
        match agentRmw s s.cur l.loc l.mode n o (h.getX rs2) 0 with
        | (s, none) => heldCur s (.place l.loc n true)
        | (s, some v) => retireX (acquireIf aq s) rd (extS n v))))
def execAmoswapW (rd rs1 rs2 : Reg) (aq rl : Bool) (s : State) : Out :=
  amoOp (amoBits 1 aq rl rs2 rs1 2 rd) .swap rd rs1 rs2 aq rl 4 s
def execAmoswapD (rd rs1 rs2 : Reg) (aq rl : Bool) (s : State) : Out :=
  amoOp (amoBits 1 aq rl rs2 rs1 3 rd) .swap rd rs1 rs2 aq rl 8 s
def execAmoaddW (rd rs1 rs2 : Reg) (aq rl : Bool) (s : State) : Out :=
  amoOp (amoBits 0 aq rl rs2 rs1 2 rd) .add rd rs1 rs2 aq rl 4 s
def execAmoaddD (rd rs1 rs2 : Reg) (aq rl : Bool) (s : State) : Out :=
  amoOp (amoBits 0 aq rl rs2 rs1 3 rd) .add rd rs1 rs2 aq rl 8 s
def execAmoxorW (rd rs1 rs2 : Reg) (aq rl : Bool) (s : State) : Out :=
  amoOp (amoBits 4 aq rl rs2 rs1 2 rd) .xor rd rs1 rs2 aq rl 4 s
def execAmoxorD (rd rs1 rs2 : Reg) (aq rl : Bool) (s : State) : Out :=
  amoOp (amoBits 4 aq rl rs2 rs1 3 rd) .xor rd rs1 rs2 aq rl 8 s
def execAmoandW (rd rs1 rs2 : Reg) (aq rl : Bool) (s : State) : Out :=
  amoOp (amoBits 12 aq rl rs2 rs1 2 rd) .and rd rs1 rs2 aq rl 4 s
def execAmoandD (rd rs1 rs2 : Reg) (aq rl : Bool) (s : State) : Out :=
  amoOp (amoBits 12 aq rl rs2 rs1 3 rd) .and rd rs1 rs2 aq rl 8 s
def execAmoorW (rd rs1 rs2 : Reg) (aq rl : Bool) (s : State) : Out :=
  amoOp (amoBits 8 aq rl rs2 rs1 2 rd) .or rd rs1 rs2 aq rl 4 s
def execAmoorD (rd rs1 rs2 : Reg) (aq rl : Bool) (s : State) : Out :=
  amoOp (amoBits 8 aq rl rs2 rs1 3 rd) .or rd rs1 rs2 aq rl 8 s
def execAmominW (rd rs1 rs2 : Reg) (aq rl : Bool) (s : State) : Out :=
  amoOp (amoBits 16 aq rl rs2 rs1 2 rd) .min rd rs1 rs2 aq rl 4 s
def execAmominD (rd rs1 rs2 : Reg) (aq rl : Bool) (s : State) : Out :=
  amoOp (amoBits 16 aq rl rs2 rs1 3 rd) .min rd rs1 rs2 aq rl 8 s
def execAmomaxW (rd rs1 rs2 : Reg) (aq rl : Bool) (s : State) : Out :=
  amoOp (amoBits 20 aq rl rs2 rs1 2 rd) .max rd rs1 rs2 aq rl 4 s
def execAmomaxD (rd rs1 rs2 : Reg) (aq rl : Bool) (s : State) : Out :=
  amoOp (amoBits 20 aq rl rs2 rs1 3 rd) .max rd rs1 rs2 aq rl 8 s
def execAmominuW (rd rs1 rs2 : Reg) (aq rl : Bool) (s : State) : Out :=
  amoOp (amoBits 24 aq rl rs2 rs1 2 rd) .minu rd rs1 rs2 aq rl 4 s
def execAmominuD (rd rs1 rs2 : Reg) (aq rl : Bool) (s : State) : Out :=
  amoOp (amoBits 24 aq rl rs2 rs1 3 rd) .minu rd rs1 rs2 aq rl 8 s
def execAmomaxuW (rd rs1 rs2 : Reg) (aq rl : Bool) (s : State) : Out :=
  amoOp (amoBits 28 aq rl rs2 rs1 2 rd) .maxu rd rs1 rs2 aq rl 4 s
def execAmomaxuD (rd rs1 rs2 : Reg) (aq rl : Bool) (s : State) : Out :=
  amoOp (amoBits 28 aq rl rs2 rs1 3 rd) .maxu rd rs1 rs2 aq rl 8 s
end Atomics

end Sys2Proof.Machine
end

