-- ==== Sys2Proof/Machine/Preempt.lean ====
section
/-! DEFINITION. Pre-emption and termination requests (12 R282–R287) and energy admission (13 R306, R307; 18 R399, R400). -/
namespace Sys2Proof.Machine

section Requests
/-- Fields of a request word (R282). -/
def rqOp (v : DWord) : Nat := bitsOf v 61 3
def rqScope (v : DWord) : Nat := bitsOf v 59 2
def rqGrace (v : DWord) : Nat := bitsOf v 48 8
def rqTile (v : DWord) : Nat := bitsOf v 40 8
def rqSlot (v : DWord) : Nat := bitsOf v 32 7
def rqLaunch (v : DWord) : Nat := bitsOf v 0 32
/-- The word without its reserved bits. -/
def rqWord (v : DWord) : DWord := v &&& 0xF8FFFF7FFFFFFFFF
/-- The running workgroup that holds a slot; no tile has slots from 96 on. -/
def slotWg (s : State) (tile slot : Nat) : Option Nat :=
  match tfind s.harts (hartKey tile slot) with
  | some h => if h.run == .empty || decide (96 ≤ slot) then none else some h.wg
  | none => none
/-- Whether a parked workgroup held a slot before its park (notes/assumptions/20). -/
def heldSlot (w : Wg) (tile slot : Nat) : Bool := w.parked && w.tile == tile && w.saved.any (fun e => e.2.slot == slot)
/-- Whether a workgroup lies within a request's scope. -/
def inScope (s : State) (p : Nat) (v : DWord) (k : Nat) (w : Wg) : Bool :=
  w.pid == p && (match rqScope v with
    | 0 => slotWg s (rqTile v) (rqSlot v) == some k ||
           ((slotWg s (rqTile v) (rqSlot v)).isNone && heldSlot w (rqTile v) (rqSlot v))
    | 1 => w.lkey != 0 && (launchAt s w.lkey).lid == rqLaunch v
    | _ => true)
/-- A release names parked workgroups alone, whoever holds their old slot now. -/
def inHoldScope (s : State) (p : Nat) (v : DWord) (k : Nat) (w : Wg) : Bool :=
  w.parked && w.held && (if rqScope v = 0 then w.pid == p && heldSlot w (rqTile v) (rqSlot v) else inScope s p v k w)
def scopeKeys (s : State) (f : Nat → Wg → Bool) : List Nat := (s.wgs.filter (fun e => f e.1 e.2)).map Prod.fst
def answerRequest (s : State) (p : Nat) (v : DWord) (busy : Bool) (result count : Nat) : State :=
  modPart s p (fun q => { q with preempt := { word := rqWord v, busy := busy, result := result, count := count, since := s.clk } })
/-- A request that no reserved field or missing rectangle rejects (R283). -/
def requestOk (s : State) (p : Nat) (v : DWord) : Bool := decide (rqOp v ≤ 4) && rqScope v != 3 && (partAt s p).valid
/-- OP 001 and OP 010 (R284): marks running workgroups and makes PREEMPT pending in members that have not ended. -/
def parkRequest (s : State) (p : Nat) (v : DWord) (hold : Bool) : State :=
  let ks := scopeKeys s (fun k w => inScope s p v k w && !w.parked && !w.terminated)
  if ks.isEmpty then answerRequest s p v false 1 0
  else
    let s := answerRequest s p v true 0 0
    ks.foldl (fun s k =>
      let s := modWg s k (fun w => { w with marked := true, held := hold })
      (wgAt s k).members.foldl (fun s e => modHart s e.2 (fun h => if h.ended = 0 then { h with preempt := true } else h)) s) s
/-- OP 011 (R284). -/
def releaseRequest (s : State) (p : Nat) (v : DWord) : State :=
  let ks := scopeKeys s (inHoldScope s p v)
  if ks.isEmpty then answerRequest s p v false 1 0
  else answerRequest (ks.foldl (fun s k => modWg s k (fun w => { w with held := false })) s) p v false 0 ks.length
/-- OP 100 (R285). -/
def terminateRequest (s : State) (p : Nat) (v : DWord) : State :=
  let ks := scopeKeys s (inScope s p v)
  if ks.isEmpty then answerRequest s p v false 1 0
  else ks.foldl terminateWg (answerRequest s p v true 0 0)
/-- A write of HPREEMPT (R282, R283): a rejected request is reported, and the register keeps the last one accepted. -/
def hpreemptWrite (s : State) (p : Nat) (v : DWord) : State :=
  if (partAt s p).preempt.busy || rqOp v == 0 then s
  else if !requestOk s p v then
    modPart s p (fun q => { q with preempt := { q.preempt with busy := false, result := 3, count := 0 } })
  else match rqOp v with
    | 1 => parkRequest s p v false
    | 2 => parkRequest s p v true
    | 3 => releaseRequest s p v
    | _ => terminateRequest s p v
/-- A request of one operation: the word's own OP is replaced by the operation's. -/
def requestAs (op p : Nat) (v : DWord) (s : State) : Out := .next (hpreemptWrite s p (setBits v 61 3 op))
def execPark (p : Nat) (v : DWord) (s : State) : Out := requestAs 1 p v s
def execParkAndHold (p : Nat) (v : DWord) (s : State) : Out := requestAs 2 p v s
def execReleaseHold (p : Nat) (v : DWord) (s : State) : Out := requestAs 3 p v s
def execTerminate (p : Nat) (v : DWord) (s : State) : Out := requestAs 4 p v s
/-- HPSTAT (R283). -/
def hpstat (q : PReq) : DWord := dw ((if q.busy then 2 ^ 63 else 0) + q.result * 2 ^ 56 + q.count)
/-- Whether a park request's deadline has passed. -/
def graceOver (s : State) (q : PReq) : Bool :=
  q.busy && (rqOp q.word == 1 || rqOp q.word == 2) && rqGrace q.word != 0 && decide (q.since + rqGrace q.word * 4096 ≤ s.clk)
/-- PREEMPT_GRACE_EXPIRE (R284): PREEMPT stays pending in the members. -/
def execPreemptGraceExpire (p : Nat) (s : State) : Out :=
  if graceOver s (partAt s p).preempt then
    let s := modPart s p (fun q => { q with preempt := { q.preempt with busy := false, result := 2 } })
    .next { s with wgs := tmap (fun _ w => if w.pid = p ∧ !w.terminated then { w with marked := false } else w) s.wgs }
  else .next s
end Requests

section Energy
/-- ENERGY_METER_REPORT (13 R306; 16 R362, R365): at a report, the energy a tile's meters measured since the last one, which the aggregate
latched at this report includes. -/
def execEnergyMeterReport (tile uj : Nat) (s : State) : Out :=
  match partOf s tile with
  | none => .next s
  | some p =>
    if s.clk % 1024 = 0 then
      let k := counterKey 5 tile 0 0
      .next (count { modPart s p (fun q => { q with used := min 0xFFFFFFFF (q.used + uj) }) with
        latched := tset 0 s.latched k (tget 0 s.latched k + dw uj) } 5 tile 0 0 uj)
    else .next s
/-- ENERGY_WINDOW_START (R306): at every multiple of 100,000 of time. -/
def execEnergyWindowStart (s : State) : Out :=
  if s.clk % 1200000 = 0 then
    let s := { s with parts := tmap (fun _ (q : Part) => { q with used := q.used - min q.used q.allow.toNat }) s.parts }
    .next (modHub s (fun u => { u with energyWindows := u.energyWindows + 1 }))
  else .next s
/-- THERMAL_LIMIT (18 R399). -/
def execThermalLimit (die : Nat) (s : State) : Out :=
  .next (modHub s (fun u => { u with therm := true, hotDies := if u.hotDies.contains die then u.hotDies else die :: u.hotDies }))
/-- THERMAL_CLEAR (18 R399): every die is below 100 °C. -/
def execThermalClear (s : State) : Out := .next (modHub s (fun u => { u with therm := false, hotDies := [] }))
/-- EOL_UPDATE (18 R400). -/
def execEolUpdate (die : Nat) (predict hours : Word) (s : State) : Out :=
  if die < 4 then
    .next (modHub s (fun u => { u with eolPredict := tput u.eolPredict die predict, eolHours := tset 0 u.eolHours die hours }))
  else .next s
/-- An EOL register as read: PREDICT is all ones until the first estimate. -/
def eolRead (s : State) (die : Nat) : DWord :=
  dw ((tget 0xFFFFFFFF s.hub.eolPredict die).toNat * 2 ^ 32 + (tget 0 s.hub.eolHours die).toNat)
end Energy

end Sys2Proof.Machine
end

