-- ==== Sys2Proof/Machine/Partition.lean ====
section
/-! DEFINITION. Partitions and their keys (15 R331–R352), the memory a controller clears (15 R344, R346, R355), glaze passes (15
R347–R349), measurement registers (15 R357) and varnish tables (16 R363, R364). -/
namespace Sys2Proof.Machine

section Clearing
/-- Forgets the content and the metadata of the chunks that pass: their gesso bits are set, and they read 0 (R344). -/
def clearChunks (m : Mem) (p : Nat → Bool) : Mem :=
  { m with
    bytes := tfilter (fun a => !p (chunkOf a)) m.bytes, open_ := tfilter (fun c => !p c) m.open_,
    inits := tfilter (fun c => !p c) m.inits, ver1 := tfilter (fun g => !p (g / 1024)) m.ver1,
    tagXor := tfilter (fun g => !p (g / 1024)) m.tagXor, poison := tfilter (fun g => !p (g / 1024)) m.poison }
/-- The lines whose versions a renewal will compare, each once: those of cached copies and of copies consumed (14 R325). -/
def copyLines (s : State) : List Nat :=
  let consumed := s.harts.flatMap (fun e => e.2.spec.flatMap (fun x => x.lines))
  (s.mem.copies ++ consumed).foldl (fun l c => if l.contains c.line then l else c.line :: l) []
/-- Sets the gesso bits of chunks as zero writes that enter home order (R346): directory copies go, reservations break, versions step. -/
def zeroChunks (s : State) (p : Nat → Bool) : State :=
  let m := clearChunks s.mem p
  let m := { m with
    dir := tfilter (fun k => !p (dirLine k / 1024)) m.dir,
    lrs := m.lrs.filter (fun r => !p (chunkOf r.addr)),
    resvs := m.resvs.map (fun q => { q with holder := q.holder.map (fun h =>
      if p (chunkOf h.addr) then { h with broken := true } else h) }) }
  { s with mem := ((copyLines s).filter (fun l => p (l / 1024))).foldl (fun m l => bumpVers m (l * 64) 64) m }
/-- A function's 64 mailbox slots become empty with data 0 (R355; 18 R395). -/
def clearMailbox (m : Mem) (f : Nat) : Mem :=
  { m with mbox := tfilter (fun k => k / 64 != f) m.mbox, mboxFull := tfilter (fun k => k / 64 != f) m.mboxFull }
end Clearing

section Measurements
def zeroDigest : List Byte := List.replicate 32 0
def measOf (s : State) (i : Nat) : List Byte := tget zeroDigest s.hub.meas i
def setMeas (s : State) (i : Nat) (d : List Byte) : State := modHub s (fun u => { u with meas := tput u.meas i d })
/-- Extends a measurement register (R357). -/
def extendMeas (s : State) (i : Nat) (d : List Byte) : State := setMeas s i (Config.sha3_256 (measOf s i ++ d))
end Measurements

section Functions
def vfAt (s : State) (f : Nat) : Vf := tget {} s.vfs f
def setVf (s : State) (f : Nat) (v : Vf) : State := { s with vfs := tput s.vfs f v }
def partTiles (s : State) (p : Nat) : List Nat := if (partAt s p).valid then rectTiles (partAt s p).rect else []
/-- Chunk of local main memory that a region chunk of a partition's memory is (R353). -/
def regionChunk (s : State) (p i : Nat) : Nat := (partTiles s p).getD (i / 32768) 0 * 32768 + i % 32768
/-- Whether a chunk lies in a function's region. -/
def inRegion (s : State) (v : Vf) (c : Nat) : Bool :=
  match firstIdx (fun t => t == c / 32768) (partTiles s v.pid) 0 with
  | some i => decide (v.mbase ≤ i * 32768 + c % 32768 ∧ i * 32768 + c % 32768 < v.mbase + v.mlen)
  | none => false
/-- A function reset (R355): chunks, mailbox and requests in flight. -/
def functionReset (s : State) (f : Nat) : State :=
  let v := vfAt s f
  modMem (zeroChunks s (inRegion s v)) (fun m => { clearMailbox m f with net := m.net.filter (fun r => r.agent != 0x200000 + f) })
/-- A function in CONFIG_LOCKED or RUN enters ERROR with function reset (R354). -/
def functionError (s : State) (f : Nat) : State :=
  let v := vfAt s f
  if v.tstate == .locked || v.tstate == .run then functionReset (setVf s f { v with tstate := .error }) f else s
end Functions

section Reset
/-- An agent of partition p: a group or tasklet whose partition it is. -/
def agentOf (s : State) (p k : Nat) : Bool :=
  match tfind s.harts k with
  | some h => ownerOf s h == p
  | none => false
/-- Takes the reservations and places in queues of the agents that pass away. -/
def dropResvs (m : Mem) (dead : Nat → Bool) : Mem :=
  trimQueues { m with resvs := m.resvs.map (fun q => { q with
    holder := (match q.holder with
      | some r => if dead r.agent then none else some r
      | none => none),
    waiters := q.waiters.filter (fun r => !dead r.agent) }) }
/-- A far write of a partition that is reset: what has left the package stands, and its acknowledgement finds neither an agent nor a copy, so
that nothing waits for it (R350 step 3; R351). -/
def orphan (f : FarWrite) : FarWrite :=
  { f with copy := none, req := { f.req with agent := 0xFFFFF8, src := 256, lkey := 0, released := false, covers := [] } }
/-- Discards the memory traffic of a partition: its writes on their way, parked accesses and reservations (R350 steps 1 and 2). -/
def dropTraffic (s : State) (p : Nat) : State :=
  let dead := agentOf s p
  modMem s (fun m => dropResvs { m with
    net := m.net.filter (fun r => r.pid != p), parks := m.parks.filter (fun k => !dead k.agent),
    lrs := m.lrs.filter (fun r => !dead r.hart),
    farOut := m.farOut.map (fun f => if f.req.pid == p then orphan f else f) } dead)
/-- Discards every group, tasklet, workgroup, launch, easel entry, copy and sequencer entry of a partition (R350 step 1). -/
def dropWork (s : State) (p : Nat) : State :=
  let dead := agentOf s p
  let wgOf := fun w => (wgAt s w).pid == p
  let launchOf := fun l => (launchAt s l).pid == p && l != 0
  { s with
    turns := s.turns.filter (fun t => match t with
      | .scalar k => !dead k
      | .lane k => !dead k),
    harts := s.harts.filter (fun e => !dead e.1),
    bankOwner := s.bankOwner.filter (fun e => !wgOf e.2), wslots := s.wslots.filter (fun e => e.2.owner = 0 || !wgOf e.2.owner),
    easels := tmap (fun _ (e : Easel) => { e with resident := e.resident.filter (fun x => !launchOf x.lkey),
                                                  spilled := e.spilled.filter (fun x => !launchOf x.lkey) }) s.easels,
    homes := tmap (fun _ (q : Home) => { q with slots := q.slots.filter (fun e => !dead e.2), hwQ := q.hwQ.filter (fun k => !dead k),
                                                memQ := q.memQ.filter (fun k => !dead k), fwd := q.fwd.filter (fun e => !dead e.1) }) s.homes,
    copies := s.copies.filter (fun e => e.2.pid != p), wgs := s.wgs.filter (fun e => e.2.pid != p),
    launches := s.launches.filter (fun e => e.2.pid != p) }
/-- Functions bound to a partition. -/
def boundTo (s : State) (p : Nat) : List Nat := (s.vfs.filter (fun e => e.2.en && e.2.pid == p)).map Prod.fst
/-- The start of a partition reset, with what is done by clk 0 (R350 steps 1, 2 and 6). -/
def startReset (s : State) (p : Nat) (freeing : Bool) : State :=
  let s := dropWork (dropTraffic s p) p
  let s := (boundTo s p).foldl functionError s
  modPart s p (fun q => { q with resetting := true, freeing := freeing, flushed := false, resetClk := s.clk, seqQ := [],
                                 preempt := { q.preempt with busy := false } })
/-- PARTITION_RESET_FLUSH (R350 steps 3 and 4), from clk 2,400 on. -/
def resetFlush (s : State) (p : Nat) : State :=
  let q := partAt s p
  if q.resetting && !q.flushed && decide (q.resetClk + 2400 ≤ s.clk) then
    let on := rectHas q.rect
    let cache := cachesOf on
    let s := modMem s (fun m => { m with
      l2 := m.l2.filter (fun e => e.2.part != p), recalls := m.recalls.filter (fun l => !on (homeOf (l * 64))),
      copies := m.copies.filter (fun c => !on (homeOf (c.line * 64))), dir := tfilter (fun k => !on (homeOf (dirLine k * 64))) m.dir,
      tlbs := m.tlbs.filter (fun t => !cache t.tile), walkCache := m.walkCache.filter (fun t => !cache t.tile),
      walks := m.walks.filter (fun w => !cache w.entry.tile) })
    modPart s p (fun q => { q with flushed := true })
  else s
/-- Routers of a rectangle take the default record (R338): an unlisted router holds it. -/
def defaultRouters (s : State) (r : BitVec 32) : State := { s with routers := tfilter (fun t => !rectHas r t) s.routers }
/-- A data key and a tag key of Iawick's random bit generator (R343). -/
def newKeys (s : State) : KeyPair := { data := Config.freeKey s.free, tag := Config.freeKey (s.free + 1) }
/-- The key version state of a new key (R343), generated in this state. -/
def freshKey (s : State) (q : Part) : Part :=
  { q with keySlot0 := some (newKeys s), keySlot1 := none, kv := false, pass := false, passes := 0, passStart := s.clk, keyBusy := false }
/-- The generator has been drawn on. -/
def drawKeys (s : State) : State := { s with free := s.free + 2 }
/-- Discards a partition's varnish table, key and SEQ (16 R364). -/
def noVarnish (q : Part) : Part :=
  { q with varnKey := none, varnSeq := 0, varnInForce := false, varnBusy := false, grants := [], grantsNext := [] }
/-- The end of a partition reset (R350 steps 5 and 7; R351), from clk 24,000 on. -/
def resetComplete (s : State) (p : Nat) : State :=
  let q := partAt s p
  if q.resetting && decide (q.resetClk + 24000 ≤ s.clk) then
    let s := resetFlush s p
    let s := modMem s (fun m => { clearChunks m (fun c => rectHas q.rect (c / 32768)) with
      frontier := tfilter (fun t => !rectHas q.rect t) m.frontier })
    let s := defaultRouters s q.rect
    let s := if p < 12 then setMeas s (4 + p) zeroDigest else s
    drawKeys (modPart s p (fun q => { noVarnish (freshKey s q) with
      resetting := false, lease := 64, leaseNow := 64, valid := !q.freeing, freeing := false }))
  else s
end Reset

section Rectangle
/-- Whether two rectangles of tiles share a tile. -/
def rectsMeet (a b : BitVec 32) : Bool := (rectTiles a).any (fun t => rectHas b t)
def rectBytes (r : BitVec 32) : List Byte := leBytes 4 r.toNat
/-- Creation (R333). -/
def createPart (s : State) (p : Nat) (r : BitVec 32) : State :=
  if !rectOk r || s.parts.any (fun e => e.1 != p && e.2.valid && rectsMeet r e.2.rect) then
    modPart s p (fun q => { q with refused := true })
  else
    let s := drawKeys (modPart s p (fun q => { noVarnish (freshKey s q) with valid := true, rect := r, refused := false }))
    let s := defaultRouters s r
    if p < 12 then extendMeas (setMeas s (4 + p) zeroDigest) (4 + p) (Config.sha3_256 (rectBytes r)) else s
/-- A write of MPARTRECT for a partition (R332, R333). -/
def partRectWrite (s : State) (p : Nat) (v : DWord) : State :=
  let q := partAt s p; let r : BitVec 32 := v.setWidth 32
  if q.resetting then s
  else if !q.valid then
    (if bitAt v 63 then createPart s p r else modPart s p (fun q => { q with rect := r, refused := false }))
  else if !bitAt v 63 then startReset (modPart s p (fun q => { q with refused := false })) p true
  else if r != q.rect then modPart s p (fun q => { q with refused := true })
  else
    let s := modPart s p (fun q => { q with refused := false })
    if bitAt v 62 then startReset s p false else s
/-- MPARTRECT as read. -/
def partRectRead (q : Part) : DWord :=
  dw ((if q.valid then 2 ^ 63 else 0) + (if q.resetting then 2 ^ 62 else 0) + (if q.refused then 2 ^ 61 else 0) + q.rect.toNat)
/-- The partition that the machine CSRs address (R331). -/
def selPart (s : State) : Nat := s.hub.partSel.toNat
/-- PARTITION_CREATE (R333): a write that sets VALID from 0 to 1. -/
def execPartitionCreate (v : DWord) (s : State) : Out :=
  if bitAt v 63 && !(partAt s (selPart s)).valid then .next (partRectWrite s (selPart s) v) else .next s
/-- PARTITION_FREE (R333): a write that clears VALID. -/
def execPartitionFree (v : DWord) (s : State) : Out :=
  if !bitAt v 63 && (partAt s (selPart s)).valid then .next (partRectWrite s (selPart s) v) else .next s
/-- PARTITION_RESET (R332, R350): a write of RESET = 1 with VALID = 1. -/
def execPartitionReset (v : DWord) (s : State) : Out :=
  if bitAt v 63 && bitAt v 62 && (partAt s (selPart s)).valid then .next (partRectWrite s (selPart s) v) else .next s
def execPartitionResetFlush (p : Nat) (s : State) : Out := .next (resetFlush s p)
def execPartitionResetComplete (p : Nat) (s : State) : Out := .next (resetComplete s p)
end Rectangle

section Keys
/-- Whether an n-byte span is readable memory of partition 15, for Iawick and the sequencer. -/
def operatorSpan (s : State) (a n : Nat) : Bool :=
  decide (a + n ≤ 2 ^ 39) && (List.range ((a + n - 1) / 64 - a / 64 + 1)).all (fun i =>
    partOf s (homeOf ((a / 64 + i) * 64)) == some 15 && !poisoned s (.mem ((a / 64 + i) * 64)) 64)
/-- The chunks of a FREE command (R345). -/
def freeFirst (op : Nat) : Nat := field op 16 23
def freeCount (op : Nat) : Nat := field op 0 16 + 1
def freeOk (s : State) (p op : Nat) : Bool :=
  let a := freeFirst op; let n := freeCount op
  decide (a + n ≤ 2 ^ 23) && (List.range ((a + n - 1) / 32768 - a / 32768 + 1)).all (fun i => inPart s p (a / 32768 + i))
def inChunks (a n c : Nat) : Bool := decide (a ≤ c ∧ c < a + n)
/-- The tag checks of such a read (R342). -/
def operatorNote (s : State) (a n : Nat) : State :=
  if decide (a + n ≤ 2 ^ 39) && partOf s (homeOf a) == some 15 then notePoisonSpan s a n else s
/-- FLUSHL2 (R345): the partition's lines in ways outside its masks, or in every way, leave its slices. Their content stands at its home (00
R5; notes/assumptions/64). -/
def flushL2 (s : State) (p : Nat) (all : Bool) : State :=
  modMem s (fun m => l2Drop m (fun k e => e.part == p && (all || !(wayMask s p (k / 16 / 16384)).testBit (k % 16))))
/-- A command of MKEYCTL and its RESULT (R345): its whole effect comes at once, and BUSY reads 1 for the rest of the clk. -/
def keyCommand (s : State) (p cmd op : Nat) : State × Nat :=
  if !(partAt s p).valid then (s, 1)
  else match cmd with
    | 1 => if freeOk s p op then (zeroChunks s (inChunks (freeFirst op) (freeCount op)), 0) else (s, 2)
    | 2 => if op / 2 = 0 then (flushL2 s p (op == 1), 0) else (s, 2)
    | 3 =>
      if p = 15 then (s, 3)
      else if op % 32 = 0 ∧ operatorSpan s op 32 then (extendMeas s (4 + p) (getBytes s.mem.bytes op 32), 0)
      else (if op % 32 = 0 then operatorNote s op 32 else s, 2)
    | _ => (s, 3)
/-- A write of MKEYCTL for a partition, ignored while BUSY. -/
def keyWrite (s : State) (p : Nat) (v : DWord) : State :=
  let cmd := bitsOf v 60 4; let op := bitsOf v 0 39
  if (partAt s p).keyBusy then s
  else
    let s := modPart s p (fun q => { q with keyCmd := BitVec.ofNat 4 cmd, keyOperand := BitVec.ofNat 39 op })
    if cmd = 0 then s
    else
      let r := keyCommand s p cmd op
      modPart r.1 p (fun q => { q with keyResult := BitVec.ofNat 3 r.2, keyBusy := true })
def keyRead (q : Part) : DWord :=
  dw (q.keyCmd.toNat * 2 ^ 60 + (if q.keyBusy then 2 ^ 59 else 0) + q.keyResult.toNat * 2 ^ 56 + q.keyOperand.toNat)
def keyVerRead (q : Part) : DWord := dw ((if q.pass then 2 ^ 63 else 0) + (if q.kv then 2 ^ 32 else 0) + q.passes.toNat)
/-- A write of MKEYCTL that carries the command of an operation. -/
def keyEvent (cmd : Nat) (v : DWord) (s : State) : Out :=
  if bitsOf v 60 4 = cmd then .next (keyWrite s (selPart s) v) else .next s
def execFree (v : DWord) (s : State) : Out := keyEvent 1 v s
/-- FLUSHL2 (R345). -/
def execFlushl2 (v : DWord) (s : State) : Out := keyEvent 2 v s
def execExtend (v : DWord) (s : State) : Out := keyEvent 3 v s
/-- GESSO_INIT_COMPLETE (R344): every granule is written as zero under the version R348 gives it, and the bit clears. -/
def execGessoInitComplete (chunk : Nat) (s : State) : Out :=
  .next (if tget false s.mem.inits chunk then openChunk s chunk else s)
end Keys

section Glaze
/-- Starts a glaze pass of a partition, if none runs there and passes are enabled (R347): the free key slot takes new keys. -/
def startPass (s : State) (p : Nat) : State :=
  let q := partAt s p
  if q.valid && !q.resetting && !q.pass && s.hub.glazeEn then
    drawKeys (modPart s p (fun q => { q with
      pass := true, kv := !q.kv, passStart := s.clk, keySlot0 := if q.kv then some (newKeys s) else q.keySlot0,
      keySlot1 := if q.kv then q.keySlot1 else some (newKeys s) }))
  else s
/-- A write of MGLAZE (R349). -/
def glazeWrite (s : State) (v : DWord) : State :=
  let s := modHub s (fun u => { u with glazeEn := bitAt v 63, glazeChan := BitVec.ofNat 8 (bitsOf v 48 8) })
  if bitAt v 62 then (match partOf s (bitsOf v 48 8) with
    | some p => startPass s p
    | none => s) else s
/-- MGLAZE as read. -/
def glazeRead (s : State) : DWord :=
  let c := s.hub.glazeChan.toNat
  let run := match partOf s c with
    | some p => (partAt s p).pass
    | none => false
  dw ((if s.hub.glazeEn then 2 ^ 63 else 0) + c * 2 ^ 48 + tget 0 s.mem.tagErr c * 2 ^ 32 +
    (if run then tget 0 s.mem.frontier c % 2 ^ 25 else 2 ^ 25))
/-- GLAZE_START (R347, R349). -/
def execGlazeStart (v : DWord) (s : State) : Out := if bitAt v 62 then .next (glazeWrite s v) else .next s
/-- Eight hours in clk (R347; 00 R8). -/
def glazePeriod : Nat := 34560000000000
/-- GLAZE_PASS_START (R347): 8 hours after the previous pass started; for a partition without one, after its key was installed. -/
def execGlazePassStart (p : Nat) (s : State) : Out :=
  if (partAt s p).passStart + glazePeriod ≤ s.clk then .next (startPass s p) else .next s
/-- The end of a pass once every channel of the partition has finished (R347). -/
def endPass (s : State) (p : Nat) : State :=
  if (partTiles s p).all (fun t => tget 0 s.mem.frontier t == 2 ^ 25) then
    let s := modMem s (fun m => { m with frontier := tfilter (fun t => !inPart s p t) m.frontier })
    modPart s p (fun q => { q with
      pass := false, passes := q.passes + 1,
      keySlot0 := if q.kv then none else q.keySlot0, keySlot1 := if q.kv then q.keySlot1 else none })
  else s
/-- GLAZE_VISIT (R347, R348): the channel's next granule, or the rest of a gesso chunk. -/
def execGlazeVisit (chan : Nat) (s : State) : Out :=
  match partOf s chan with
  | none => .next s
  | some p =>
    let f := tget 0 s.mem.frontier chan
    let g := chan * 2 ^ 25 + f
    if !(partAt s p).pass || decide (2 ^ 25 ≤ f) then .next s
    else
      let put := fun (s : State) (n : Nat) => endPass (modMem s (fun m => { m with frontier := tset 0 m.frontier chan n })) p
      if gesso s.mem (g * 64) then .next (put s ((f / 1024 + 1) * 1024))
      else
        -- the visit reads HBM4 itself, whatever the slice holds
        let s := count s 2 chan 0 2 64
        if tget false s.mem.poison g then .next (put s (f + 1))
        else if tagFails s.mem g then .next (put (markGranule s g) (f + 1))
        else .next (count (put (modMem s (fun m => { m with ver1 := tset false m.ver1 g (partAt s p).kv })) (f + 1)) 2 chan 0 3 64)
end Glaze

section Varnish
/-- Whether a grant byte is offered for its class (16 R362, R363). -/
def grantOk (c : Nat) (b : Byte) : Bool :=
  let code := field b.toNat 6 2; let k := field b.toNat 0 6
  let coarse := c ≤ 5 || c == 11
  if c ≥ 15 then b == 0
  else match code with
    | 0 => k == 0 && c != 5
    | 1 => k == 0
    | 2 => coarse || ((c == 7 || c == 9 || c == 13) && k == 0)
    | _ => k == 0 && decide (c ≤ 5)
/-- The size of a varnish table and its parts (16 R363). -/
def varnBytes (s : State) (a : Nat) : List Byte := getBytes s.mem.bytes a 3860
def varnPart (bs : List Byte) (off n : Nat) : List Byte := (bs.drop off).take n
def varnField (bs : List Byte) (off n : Nat) : Nat := leNat (varnPart bs off n)
/-- A table that is not malformed (16 R364): PART is one of 0 to 11 (R363), so none can be loaded for partition 15. -/
def varnFormOk (bs : List Byte) (p : Nat) : Bool :=
  varnField bs 0 4 == 0x48534E56 && varnField bs 4 2 == 1 && varnField bs 6 1 == p && decide (p < 12) && varnField bs 7 1 == 0 &&
    (varnPart bs 0x30 80).all (fun b => b == 0) && (List.range 32).all (fun c => grantOk c (bs.getD (16 + c) 0))
/-- Loads a varnish table for a partition: the RESULT (16 R364). Its grants apply from the next clk, when BUSY has cleared. -/
def varnLoad (s : State) (p : Nat) : State × Nat :=
  let q := partAt s p; let a := q.varnBase.toNat
  if !q.valid then (s, 1)
  else if !operatorSpan s a 3860 then (operatorNote s a 3860, 6)
  else
    let bs := varnBytes s a
    let key := varnPart bs 0x80 1312; let seq := varnField bs 8 8
    if !varnFormOk bs p then (s, 2)
    else if !Config.mldsaVerify key (varnPart bs 0 0x5A0) (varnPart bs 0x5A0 2420) then (s, 3)
    else if q.varnKey.isSome && q.varnKey != some key then (s, 4)
    else if q.varnKey.isSome && decide (seq ≤ q.varnSeq.toNat) then (s, 5)
    else
      let g := (List.range 15).map (fun c => (c, (bs.getD (16 + c) 0)))
      let s := modPart s p (fun q => { q with varnKey := some key, varnSeq := dw seq, varnInForce := true, grantsNext := g })
      (extendMeas s (4 + p) (Config.sha3_256 bs), 0)
/-- Revokes the table in force: defaults return, key and SEQ stay. -/
def varnRevoke (s : State) (p : Nat) : State × Nat :=
  if !(partAt s p).valid then (s, 1) else (modPart s p (fun q => { q with varnInForce := false, grantsNext := [] }), 0)
/-- A write of MVARNCTL: one while BUSY, and a command other than 1 and 2, is ignored. -/
def varnWrite (s : State) (p : Nat) (v : DWord) : State :=
  let cmd := bitsOf v 56 4
  if (partAt s p).varnBusy ∨ (cmd ≠ 1 ∧ cmd ≠ 2) then s
  else
    let r := if cmd = 1 then varnLoad s p else varnRevoke s p
    modPart r.1 p (fun q => { q with varnCmd := BitVec.ofNat 4 cmd, varnResult := BitVec.ofNat 3 r.2, varnBusy := true })
def varnRead (q : Part) : DWord :=
  dw ((if q.varnBusy then 2 ^ 63 else 0) + q.varnResult.toNat * 2 ^ 60 + q.varnCmd.toNat * 2 ^ 56 +
    (if q.varnInForce then q.varnSeq.toNat % 2 ^ 32 else 0))
def execVarnishLoad (v : DWord) (s : State) : Out :=
  if bitsOf v 56 4 = 1 then .next (varnWrite s (selPart s) v) else .next s
def execVarnishRevoke (v : DWord) (s : State) : Out :=
  if bitsOf v 56 4 = 2 then .next (varnWrite s (selPart s) v) else .next s
end Varnish

section BootGroups
/-- Why a boot group is not admitted (12 R269), 0 when it can be. DESIGN CHOICE (notes/assumptions/79): of several reasons that hold at
once, 3 is reported before 2 and 2 before 1. -/
def bootResult (s : State) (v : DWord) : Nat :=
  let tile := bitsOf v 0 8; let slot := bitsOf v 8 7; let vcnt := bitsOf v 16 12; let pid := bitsOf v 28 4
  if bitAt v 15 || bitsOf v 32 27 != 0 || (decide (12 ≤ pid) && pid != 15) || decide (vcnt < 32 ∨ 1024 < vcnt ∨ vcnt % 32 ≠ 0) ||
     decide (95 < slot) then 3
  else if !inPart s pid tile then 2
  else if (match tfind s.harts (hartKey tile slot) with
      | some h => h.run != .empty
      | none => false) || decide (1024 < vcntUsed s tile (subcoreOf slot) + vcnt) then 1
  else 0
/-- A write of MBOOT: the fields are stored, and GO = 1 admits a boot group or reports why not. -/
def bootWrite (s : State) (v : DWord) : State :=
  let stored := v &&& 0xFFFF7FFF
  if !bitAt v 63 then modHub s (fun u => { u with boot := stored })
  else
    let r := bootResult s v
    let s := modHub s (fun u => { u with boot := stored, bootResult := BitVec.ofNat 3 r })
    if r = 0 then
      admitBoot s (bitsOf v 0 8) (bitsOf v 8 7) (bitsOf v 16 12) (bitsOf v 28 4) (s.hub.bootPc &&& ~~~(3 : DWord)) s.hub.bootArg
    else s
def bootRead (s : State) : DWord := (s.hub.boot &&& 0xFFFF7FFF) ||| dw (s.hub.bootResult.toNat * 2 ^ 59)
/-- BOOT_GROUP_ADMIT (R269). -/
def execBootGroupAdmit (v : DWord) (s : State) : Out := if bitAt v 63 then .next (bootWrite s v) else .next s
end BootGroups

end Sys2Proof.Machine
end

