-- ==== Sys2Proof/Machine/Bringup.lean ====
section
/-! DEFINITION. Power-on, bring-up in four stages, and recovery (18 R397, R398; 12 R269; 15 R357). -/
namespace Sys2Proof.Machine

/-- POWER_ON (R397): everything starts afresh but the flash, the hours kept in it, and the host's own memory and image. -/
def execPowerOn (s : State) : Out :=
  .next { inputs := s.inputs, free := s.free, mem := { host := s.mem.host },
          hub := { powered := true, stage := 1, flash := s.hub.flash, hostImage := s.hub.hostImage, eolHours := s.hub.eolHours } }
/-- The image in host memory: PFRECLEN bytes at PFRECBASE, read over CXL.cache (R398). -/
def hostFlash (s : State) : Flash :=
  let bs := getBytes s.mem.host s.hub.recBase.toNat s.hub.recLen.toNat
  { entry := Config.imageEntry bs, version := Config.imageVersion bs, valid := Config.imageValid bs, image := Config.imageCells bs }
/-- The image that bring-up reads: flash, or the host's during recovery (R398). -/
def imageInUse (s : State) : Flash := if s.hub.recov then hostFlash s else s.hub.flash
def bringupFail (s : State) (err : BitVec 8) : State := modHub s (fun u => { u with fwerr := err })
/-- Stage 1 (R397): the image's signature decides. An image that verifies in a recovery replaces the flash image. -/
def stage1 (s : State) : State :=
  let f := imageInUse s
  let s := if s.hub.recov then modHub s (fun u => { u with hostImage := f }) else s
  if !f.valid then bringupFail s 1
  else
    let s := extendMeas s 0 (Config.bootDigest 0)
    let s := extendMeas s 1 (Config.sha3_256 (f.image.map Prod.snd))
    let s := extendMeas s 2 (Config.bootDigest 2)
    modHub s (fun u => { u with stage := 2, imgver := f.version, flash := f })
/-- Stage 2: clock, links, HBM4 and sensors. -/
def stage2 (s : State) (err : BitVec 8) : State :=
  if err = 2 ∨ err = 3 ∨ err = 4 ∨ err = 5 then bringupFail s err
  else modHub (extendMeas s 3 (Config.bootDigest 3)) (fun u => { u with stage := 3 })
/-- Stage 3: keys, every gesso bit set, no partition, default routers. In a recovery it follows the partition resets, which take 24,000 clk
(R398; 15 R350). -/
def stage3 (s : State) (err : BitVec 8) : State :=
  if s.parts.any (fun e => e.2.resetting) then s
  else if err = 6 then bringupFail s err
  else
    let s := modMem s (fun m => { clearChunks m (fun _ => true) with
      frontier := [], l2 := [], recalls := [], copies := [], dir := [], tlbs := [], walkCache := [], walks := [] })
    drawKeys (modHub { s with parts := [(15, { keySlot0 := some (newKeys s) })], routers := [] } (fun u => { u with stage := 4 }))
/-- Places the image's bytes; Iawick's writes open the chunks they touch (12 R269). -/
def placeImage (s : State) (f : Flash) : State :=
  f.image.foldl (fun s e => hwWrite s 0xFFFFFA (.mem e.1) [e.2]) s
/-- Stage 4: READY, and the first boot group (R397; 12 R269). -/
def stage4 (s : State) : State :=
  let f := s.hub.flash
  admitBoot (placeImage (modHub s (fun u => { u with ready := true, recov := false })) f) 0 0 32 15 f.entry 0
/-- BRINGUP_STAGE (R397): the stage in progress ends; `err` is the code it would fail with, 0 for none. -/
def execBringupStage (err : BitVec 8) (s : State) : Out :=
  if !s.hub.powered || s.hub.ready || s.hub.fwerr != 0 then .next s
  else match s.hub.stage with
    | 1 => .next (stage1 s)
    | 2 => .next (stage2 s err)
    | 3 => .next (stage3 s err)
    | 4 => .next (stage4 s)
    | _ => .next s
/-- Everything that runs is discarded, in partitions and outside them (R398; 15 R350). -/
def resetAll (s : State) : State :=
  let s := s.parts.foldl (fun s e => if e.2.valid && !e.2.resetting then startReset s e.1 false else s) s
  let s := modMem s (fun m => { m with net := [], parks := [], resvs := [], lrs := [], farOut := [] })
  { s with turns := [], harts := [], wgs := [], launches := [], easels := [], homes := [], copies := [], bankOwner := [], wslots := [] }
/-- RECOVER (R398): a write of PFCTL.RECOVER = 1. -/
def recoverStart (s : State) : State :=
  if !s.hub.powered || (s.hub.recov && s.hub.fwerr == 0) then s
  else modHub (resetAll s) (fun u => { u with recov := true, ready := false, fwerr := 0, stage := 1 })
def execRecover (s : State) : Out := .next (recoverStart s)

end Sys2Proof.Machine
end

