-- ==== Sys2Proof/Machine/Operands.lean ====
section
/-! DEFINITION. Operand forms of lane instructions (05 R131–R134; 08 R191–R193) and the frame every lane instruction issues in:
the checks of 05 R136 in their order, the scoreboard and the issue distances of R137, the effective mask of 01 R13. -/
namespace Sys2Proof.Machine

section Fields
/-- A lane instruction as it issues: its opcode byte, form, common fields and the form's own. -/
structure LaneOp where
  opc : Nat
  j : Bool
  b : LaneBase
  /-- MOD20 in L form, MOD4 in J form -/
  mods : Nat
  /-- MOD4 bits of an L form, which no entry assigns -/
  low4 : Nat := 0
  kc : Nat := 0
  sc : Nat := 0
  imm : Word := 0
  deriving DecidableEq, Repr
def lOp (opc : Nat) (f : LaneL) : LaneOp :=
  { opc := opc, j := false, b := f.base, mods := f.mod20.toNat, low4 := f.base.mod4.toNat, kc := f.kc.toNat, sc := f.sc.toNat }
def jOp (opc : Nat) (f : LaneJ) : LaneOp := { opc := opc, j := true, b := f.base, mods := f.base.mod4.toNat, imm := f.imm }
def opFn (x : LaneOp) : Nat := x.b.fn.toNat
def opTy (x : LaneOp) : Nat := x.b.ty.toNat
def opVd (x : LaneOp) : Nat := x.b.vd.toNat
def opKa (x : LaneOp) : Nat := x.b.ka.toNat
def opKb (x : LaneOp) : Nat := x.b.kb.toNat
def opSa (x : LaneOp) : Nat := x.b.sa.toNat
def opSb (x : LaneOp) : Nat := x.b.sb.toNat
def opMs (x : LaneOp) : Nat := x.b.ms.toNat
def opSt (x : LaneOp) : Nat := x.b.st.toNat
/-- Bits of the modifier field. -/
def modF (x : LaneOp) (lo w : Nat) : Nat := field x.mods lo w
/-- The saturate bit (R133). -/
def opSat (x : LaneOp) : Bool := x.mods.testBit 3
/-- The first 32-bit word of the instruction, which check traps put in stval. -/
def opWord0 (x : LaneOp) : DWord := ((encBase x.b (BitVec.ofNat 8 x.opc)).setWidth 32).setWidth 64
/-- A rounding mode: field 111 takes LFRM (03 R65). -/
def opRound (h : Hart) (x : LaneOp) : Nat := if modF x 0 3 = 7 then bitsOf (h.getC 0x802) 0 3 else modF x 0 3
end Fields

section Masks
/-- The effective mask (01 R13). -/
def effMask (h : Hart) (x : LaneOp) : Mask :=
  if opMs x = 15 then h.em
  else if x.b.mn = 1#1 then h.em &&& ~~~(h.getM (opMs x)) else h.em &&& h.getM (opMs x)
/-- The lanes an instruction acts on: of a resumed one, those not yet performed (09 R221). -/
def laneActive (h : Hart) (x : LaneOp) : Mask := effMask h x &&& ~~~h.iss.skip
def lanesOf (m : Mask) : List Nat := (List.range 128).filter (fun l => m.getLsbD l)
end Masks

section Sources
/-- How an entry reads a source: the kinds it accepts, and of a vector register the span it reads. -/
structure Src where
  kinds : List Nat := [0, 1, 2, 3]
  span : Nat := 1
  /-- a 64-bit operand (02 R45) -/
  pair : Bool := false
  /-- the field names a destination instead (09 R242, LMAC) -/
  dest : Bool := false
  deriving DecidableEq, Repr
/-- What an entry asks of an instruction's fields: the input of the checks of R136. -/
structure Plan where
  /-- check 3 -/
  tyOk : Bool := true
  a : Option Src := none
  b : Option Src := none
  c : Option Src := none
  /-- assigned bits of MOD20; of MOD4 in J form its low four -/
  assigned : Nat := 0
  /-- vector registers named from VD on; 0 where VD names none -/
  vspan : Nat := 1
  vpair : Bool := false
  vread : Bool := false
  vwrite : Bool := true
  maskRd : List Nat := []
  maskWr : List Nat := []
  /-- check 9 less the accepted kinds -/
  bad : Bool := false
  deriving DecidableEq, Repr

/-- The sources in use: DETAIL number, kind, field and how it is read. -/
def planSrcs (x : LaneOp) (p : Plan) : List (Nat × Nat × Nat × Src) :=
  let one := fun (d k f : Nat) (o : Option Src) => match o with
    | some u => [(d, k, f, u)]
    | none => []
  one 1 (opKa x) (opSa x) p.a ++ one 2 (opKb x) (opSb x) p.b ++ one 3 x.kc x.sc p.c
def srcSpan (u : Src) : Nat := if u.pair then max 2 u.span else u.span
/-- Registers and masks read, with the DETAIL of check 11. -/
def planReads (x : LaneOp) (p : Plan) : List (Nat × Nat) :=
  (planSrcs x p).flatMap (fun (d, k, f, u) => if k = 0 ∧ !u.dest then (List.range (srcSpan u)).map (fun i => (d, f + i)) else []) ++
  (if p.vread then (List.range p.vspan).map (fun i => (4, opVd x + i)) else []) ++
  (if opMs x = 15 then [] else [(5, 1024 + opMs x)]) ++ p.maskRd.map (fun n => (5, 1024 + n))
/-- Registers and masks written. -/
def planWrites (x : LaneOp) (p : Plan) : List Nat :=
  (if p.vwrite then (List.range p.vspan).map (fun i => opVd x + i) else []) ++ p.maskWr.map (fun n => 1024 + n) ++
  (planSrcs x p).filterMap (fun (_, _, f, u) => if u.dest then some f else none)
/-- Whether the youngest writer of a register is of fixed latency and its issue distance falls short (R137). -/
def shortRead (h : Hart) (key : Nat) : Bool :=
  match h.pend.reverse.find? (fun q => q.wr.contains key) with
  | some q => !q.board && decide (q.dist < q.latency)
  | none => false
end Sources

section Checks
/-- LANE_ILLEGAL with a DETAIL (R136). -/
def laneIll (x : LaneOp) (d : Nat) : Trap := { cause := 24, tval := opWord0 x, detail := some d }
/-- A field use that R132 forbids whatever the entry. -/
def useBad (x : LaneOp) (k f : Nat) : Bool :=
  (k == 1 && decide (32 ≤ f)) || (k == 2 && (!x.j || f != 0)) || (k == 3 && decide (4 < f))
/-- Checks 3 to 11 of R136, in order. -/
def laneCheck (h : Hart) (x : LaneOp) (p : Plan) : Option Trap :=
  let srcs := planSrcs x p
  let both := p.a.isSome && p.b.isSome && opKa x == 2 && opKb x == 2
  let allowed := if x.j then p.assigned % 16 else p.assigned
  let range := (if p.vspan = 0 then [] else [(1, opVd x + p.vspan - 1)]) ++
    srcs.filterMap (fun (d, k, f, u) => if k = 0 ∧ srcSpan u ≠ 0 then some (d + 1, f + srcSpan u - 1) else none)
  if !p.tyOk then some (laneIll x 3)
  else if both || srcs.any (fun (_, k, f, _) => useBad x k f) then some (laneIll x 4)
  else if modF x 0 3 = 5 ∨ modF x 0 3 = 6 then some (laneIll x 5)
  else if Nat.land x.mods allowed ≠ x.mods ∨ x.low4 ≠ 0 then some (laneIll x 6)
  else if opMs x = 15 ∧ x.b.mn = 1#1 then some (laneIll x 7)
  else if (p.vpair && opVd x % 2 == 1) || srcs.any (fun (_, k, f, u) => u.pair && k == 0 && f % 2 == 1) then some (laneIll x 8)
  else if p.bad || srcs.any (fun (_, k, _, u) => !u.kinds.contains k) then some (laneIll x 9)
  else match range.find? (fun e => decide (h.vcnt ≤ e.2)) with
    | some (d, _) => some { cause := 25, tval := opWord0 x, detail := some d }
    | none =>
      if bitAt (h.getC 0x804) 0 then
        match (planReads x p).find? (fun e => shortRead h e.2) with
        | some (d, _) => some { cause := 26, tval := opWord0 x, detail := some d }
        | none => none
      else none
/-- The hart once every result this instruction must see has been written: fixed-latency results whose issue distance is met,
and scoreboarded ones it reads or writes (R137). -/
def laneReady (clk : Nat) (h : Hart) (x : LaneOp) (p : Plan) : Hart :=
  let keys := (planReads x p).map Prod.snd ++ planWrites x p
  landIf (fun q => if q.board then q.wr.any (fun k => keys.contains k) else decide (q.latency ≤ q.dist) || decide (q.due ≤ clk)) h
end Checks

section Pipes
/-- The pipe of a lane operation (05 R135): 1 lane ALU and limb, 2 special function, 3 lane memory, 4 matrix, 5 none. -/
def pipeOf (opc : Nat) : Nat :=
  let o := opc % 128
  if 0x26 ≤ o ∧ o ≤ 0x29 then 2
  else if 0x50 ≤ o ∧ o ≤ 0x61 then 3
  else if 0x68 ≤ o ∧ o ≤ 0x6B then 4
  else if o = 0x78 then 5 else 1
/-- How long an issue occupies its pipe, in clk (R135). -/
def occupancy (pipe : Nat) : Nat := if pipe = 1 then 4 else if pipe = 2 then 16 else if pipe = 5 then 0 else 1
def pipeKey (h : Hart) (pipe : Nat) : Nat := subcoreKey h.tile h.slot * 8 + pipe
/-- The latency of a fixed-latency operation, none for a scoreboarded one (R135). -/
def fixedLat (opc : Nat) : Option Nat :=
  let o := opc % 128
  if o = 0x02 ∨ o = 0x03 ∨ o = 0x04 ∨ (0x20 ≤ o ∧ o ≤ 0x25) ∨ (0x30 ≤ o ∧ o ≤ 0x32) ∨ o = 0x39 ∨ o = 0x72 ∨ o = 0x73 then some 6
  else if 0x26 ≤ o ∧ o ≤ 0x29 then some 20
  else if o = 0x41 ∨ o = 0x42 ∨ o = 0x70 ∨ o = 0x71 ∨ o = 0x75 then some 8
  else if o = 0x74 then some 12
  else if o ≤ 0x40 then some 4 else none
/-- Whether an instruction's write could land before an earlier instruction's write to the same register (R137). -/
def writeHeld (clk : Nat) (h : Hart) (x : LaneOp) (p : Plan) : Bool :=
  h.pend.any (fun q => !q.landed && !q.board && q.wr.any (fun k => (planWrites x p).contains k) &&
    (match fixedLat x.opc with
     | some n => decide (clk + n < q.due)
     | none => decide (clk < q.due)))
/-- An issue occupies its pipe, and sets the earliest clk of the group's next lane issue (R137). -/
def occupy (s : State) (x : LaneOp) : State :=
  let h := curHart s; let p := pipeOf x.opc
  let s := if occupancy p = 0 then s else { s with pipes := tset 0 s.pipes (pipeKey h p) (s.clk + occupancy p) }
  setCur s { h with nextLane := s.clk + max 1 (opSt x) }
end Pipes

section Frame
/-- A resumed instruction clears the lane record when it issues (09 R221). -/
def clearRecord (h : Hart) : Hart :=
  if h.iss.resumed then
    let k := bankKey h.iss.resVs
    ((h.setC (k 0x5C0) 0).setC (k 0x5C1) 0).setC (k 0x5C2) 0
  else h
/-- An issued instruction joins the youngest consuming load's followers (14 R326). -/
def specPush (e : LaneEntry) : List Spec → List Spec
  | [] => []
  | [p] => [{ p with issued := p.issued ++ [e] }]
  | p :: r => p :: specPush e r
/-- The bookkeeping of an issued lane instruction: its result joins those pending, issue distances grow by ST, and the last
instruction of a batch retires its LRUN (05 R137; 06 R144). While a load's value is speculative the instruction is kept for a
replay (14 R326). -/
def issuedHart (clk : Nat) (x : LaneOp) (r : Option Pending) (h : Hart) : Hart :=
  let h := clearRecord h
  let all := h.pend ++ (r.map (fun (q : Pending) => { q with due := clk + q.latency })).toList
  let pend := all.map (fun (q : Pending) => { q with dist := q.dist + opSt x })
  { h with pend := pendTrim pend, instret := if h.iss.rem = 1 then h.instret + 1 else h.instret,
           spec := specPush h.iss h.spec,
           ylMark := x.b.yl == 1#1, iss := {}, run := .ready, wait := .nothing }
def laneIssued (s : State) (x : LaneOp) (r : Option Pending) : State :=
  let h := curHart s
  let t := occupy (modCur s (issuedHart s.clk x r)) x
  traceBatch t t.cur h.iss
/-- The instruction at issue is held: it goes back to the head of its queue, and once what holds it is over it goes on without a pick of its
own (05 R137; 13 R299). -/
def laneHeld (s : State) (w : WaitOn) : State :=
  modCur s (fun h => { h with laneQ := h.iss :: h.laneQ, iss := {}, run := .waitDep, laneWait := w })
/-- A precise trap of the instruction at issue. Trap entry waits for every renewal to return (14 R326). -/
def laneTrap (s : State) (t : Trap) : State :=
  if !(curHart s).spec.isEmpty then laneHeld s .nothing else takeLaneTrap s s.cur t (curHart s).iss
/-- Instructions that write nothing but vector and mask registers, which alone issue while a load is speculative (14 R326). -/
def specFree (opc : Nat) : Bool :=
  let o := opc % 128
  (decide (o < 0x43) || o == 0x44 || o == 0x50 || o == 0x52 || o == 0x58 || decide (0x70 ≤ o ∧ o ≤ 0x75) || o == 0x78)
/-- The hold of R326: the commit window of eight, and the instructions held back. -/
def specHeld (h : Hart) (x : LaneOp) : Bool :=
  !h.spec.isEmpty && (decide (8 ≤ (h.spec.map (fun p => p.issued.length)).sum) || !specFree x.opc)
/-- The frame of every lane instruction: the checks, then its effect on the hart that sees every result it must see, in the
lanes it acts on. -/
def laneRun (x : LaneOp) (p : Plan) (s : State) (body : State → Hart → Mask → State) : Out :=
  let h := curHart s
  if specHeld h x then .next (laneHeld s .nothing)
  else match laneCheck h x p with
    | some t => .next (laneTrap s t)
    | none =>
      if writeHeld s.clk h x p then .next (laneHeld s .nothing)
      else
      let h := laneReady s.clk h x p
      .next (body (setCur s h) h (laneActive h x))
/-- The result of an instruction that computes words for VD, VD + 1, … in each active lane. -/
def vectorResult (x : LaneOp) (p : Plan) (lat : Option Nat) (m : Mask) (f : Nat → List Word × Flags) : Pending :=
  let rs := (lanesOf m).map (fun l => (l, f l))
  { board := lat.isNone, latency := lat.getD 0, wr := planWrites x p,
    vs := rs.flatMap (fun (l, r) => (List.range r.1.length).map (fun i => (opVd x + i, l, r.1.getD i 0))),
    flags := flAll (rs.map (fun e => e.2.2)) }
/-- An instruction that only computes: `f` gives the words of a lane from the hart at issue. -/
def laneCompute (x : LaneOp) (p : Plan) (lat : Nat) (s : State) (f : Hart → Nat → List Word × Flags) : Out :=
  laneRun x p s (fun s h m => laneIssued s x (some (vectorResult x p (some lat) m (f h))))
end Frame

section Values
/-- Special operands (R132). -/
def specialOf (s : State) (h : Hart) (code l : Nat) : Nat :=
  match code with
  | 0 => l
  | 1 => l / 32
  | 2 => if h.limbs = 0 then l else l % h.limbs
  | 3 => h.slot
  | _ => (wgAt s h.wg).wgid
/-- opnd(S, K, l) (08 R191); `cap` is the captured x value of the field. -/
def opndOf (s : State) (h : Hart) (x : LaneOp) (k f : Nat) (cap : DWord) (l : Nat) : Word :=
  match k with
  | 0 => h.getV f l
  | 1 => cap.setWidth 32
  | 2 => x.imm
  | _ => wd (specialOf s h f l)
def opndA (s : State) (h : Hart) (x : LaneOp) (l : Nat) : Word := opndOf s h x (opKa x) (opSa x) h.iss.capA l
def opndB (s : State) (h : Hart) (x : LaneOp) (l : Nat) : Word := opndOf s h x (opKb x) (opSb x) h.iss.capB l
def opndC (s : State) (h : Hart) (x : LaneOp) (l : Nat) : Word := opndOf s h x x.kc x.sc h.iss.capC l
/-- opnd64(S, K, l). -/
def opnd64Of (s : State) (h : Hart) (x : LaneOp) (k f : Nat) (cap : DWord) (l : Nat) : DWord :=
  match k with
  | 0 => h.getV (f + 1) l ++ h.getV f l
  | 1 => cap
  | 2 => if opTy x = 0 then x.imm.signExtend 64 else x.imm.setWidth 64
  | _ => dw (specialOf s h f l)
def opnd64A (s : State) (h : Hart) (x : LaneOp) (l : Nat) : DWord := opnd64Of s h x (opKa x) (opSa x) h.iss.capA l
def opnd64B (s : State) (h : Hart) (x : LaneOp) (l : Nat) : DWord := opnd64Of s h x (opKb x) (opSb x) h.iss.capB l
def opnd64C (s : State) (h : Hart) (x : LaneOp) (l : Nat) : DWord := opnd64Of s h x x.kc x.sc h.iss.capC l
end Values

section Elements
/-- Width of an element type (05 R134). -/
def tyWidth (ty : Nat) : Nat :=
  match ty with
  | 3 | 4 | 9 | 10 => 16
  | 5 | 6 | 7 | 8 => 8
  | 11 => 4
  | _ => 32
def tyEls (ty : Nat) : Nat := 32 / tyWidth ty
def tySigned (ty : Nat) : Bool := ty == 0 || ty == 7 || ty == 9
/-- Element i of a word, as bits (02 R45). -/
def elBits (w : Nat) (v : Word) (i : Nat) : Nat := field v.toNat (w * i) w
/-- A pattern of a width read as an integer of a signedness. -/
def asInt (sg : Bool) (w n : Nat) : Int := if sg && decide (2 ^ (w - 1) ≤ n % 2 ^ w) then (n % 2 ^ w : Nat) - 2 ^ w else (n % 2 ^ w : Nat)
def elInt (ty : Nat) (v : Word) (i : Nat) : Int := asInt (tySigned ty) (tyWidth ty) (elBits (tyWidth ty) v i)
/-- wrap(r, w) as bits. -/
def wrapTo (w : Nat) (r : Int) : Nat := (r % 2 ^ w).toNat
/-- clamp(r) to an integer type's range (03 R71), as bits. -/
def clampTo (sg : Bool) (w : Nat) (r : Int) : Nat :=
  let lo : Int := if sg then -(2 ^ (w - 1)) else 0
  let hi : Int := if sg then 2 ^ (w - 1) - 1 else 2 ^ w - 1
  wrapTo w (max lo (min hi r))
/-- A word from elements of a width, the first in the low bits. -/
def packEls (w : Nat) : List Nat → Nat
  | [] => 0
  | a :: r => a % 2 ^ w + 2 ^ w * packEls w r
def packWord (w : Nat) (l : List Nat) : Word := wd (packEls w l)
/-- The format of a float type (03 R68). -/
def tyFmt (ty : Nat) : Fmt :=
  match ty with
  | 3 => fmtBF16
  | 4 => fmtF16
  | 5 => fmtE4M3
  | 6 => fmtE5M2
  | _ => fmtF32
def tyFloat (ty : Nat) : Bool := decide (2 ≤ ty ∧ ty ≤ 6)
end Elements

end Sys2Proof.Machine
end

