-- ==== Sys2Proof/Machine/Palette.lean ====
section
/-! DEFINITION. A workgroup's own scratchpad by offset (04 R88), palette formats (02 R54; 03 R79, R80) and their conversions (03
R72), fp4 codes and block scales (03 R73–R76) and the block integers of the matrix engine (03 R82). -/
namespace Sys2Proof.Machine

section Scratch
/-- Whether an n-byte access at offset o lies in the workgroup's banks (R88). -/
def ownOk (w : Wg) (o n : Nat) : Bool := decide (o + n ≤ w.bankCount * 98304)
/-- Core bank of an offset, and its place. -/
def ownBank (w : Wg) (o : Nat) : Nat := w.bankFirst + o / 98304
def ownLoc (w : Wg) (o : Nat) : Loc := .win (windowKey w.tile (ownBank w o) (o % 98304))
/-- The palette of a core bank. -/
def palAt (s : State) (tile bank : Nat) : DWord := tget 0 s.pal (tile * 16 + bank)
def palFmt (p : DWord) : Nat := bitsOf p 0 4
def palRow (p : DWord) : Nat := if bitsOf p 4 12 = 0 then 65536 else bitsOf p 4 12 * 16
def palSbase (p : DWord) : Nat := bitsOf p 16 24
def palBbase (p : DWord) : Nat := bitsOf p 40 24
/-- Element width of a palette format that converts, codes 1 to 6. -/
def fmtWidth (f : Nat) : Nat :=
  match f with
  | 1 => 32
  | 2 | 3 => 16
  | _ => 8
def palFloat (f : Nat) : Fmt :=
  match f with
  | 2 => fmtBF16
  | 3 => fmtF16
  | 4 => fmtE4M3
  | 5 => fmtE5M2
  | _ => fmtF32
end Scratch

section Convert
/-- A float-to-float conversion (R72): exact where the destination represents every source value, and rounded otherwise. -/
def widens (a b : Fmt) : Bool :=
  decide (a.mbits ≤ b.mbits) && decide (b.minExp ≤ a.minExp) && decide (a.maxExp + a.mbits ≤ b.maxExp + b.mbits)
def cvtFF (src dst : Fmt) (mode : Nat) (sat : Bool) (b : Nat) : Nat × Flags :=
  let v := fDecode src b
  let (r, fl) := if widens src dst then fEncode dst 0 false v else fEncode dst mode sat v
  (r, fl ||| nvOf src [b])
/-- A float-to-integer conversion (R72). -/
def cvtFI (src : Fmt) (sg : Bool) (w mode : Nat) (b : Nat) : Nat × Flags :=
  let lo : Int := if sg then -(2 ^ (w - 1)) else 0
  let hi : Int := if sg then 2 ^ (w - 1) - 1 else 2 ^ w - 1
  let nv := nvOf src [b] ||| flNV
  match fDecode src b with
  | .nan => (0, nv)
  | .inf n => (wrapTo w (if n then lo else hi), nv)
  | v =>
    match fvToInt mode v with
    | none => (0, nv)
    | some (i, ix) =>
      if i < lo then (wrapTo w lo, flNV) else if hi < i then (wrapTo w hi, flNV) else (wrapTo w i, if ix then flNX else 0)
/-- An element of a palette format as f32 (R225, R183). -/
def fromPal (f n : Nat) : Nat × Flags :=
  if f = 6 then (fEncode fmtF32 0 false (fvOfInt (asInt true 8 n))).map id (fun _ => 0)
  else cvtFF (palFloat f) fmtF32 0 false n
/-- An f32 in a palette format (R225, R183). -/
def toPal (f mode : Nat) (sat : Bool) (n : Nat) : Nat × Flags :=
  if f = 6 then cvtFI fmtF32 true 8 mode n else cvtFF fmtF32 (palFloat f) mode sat n
end Convert

section Blocked
/-- The magnitude of an E2M1 code times 2 (R73). -/
def e2m1Twice (c : Nat) : Nat :=
  match c % 8 with
  | 0 => 0
  | 1 => 1
  | 2 => 2
  | 3 => 3
  | 4 => 4
  | 5 => 6
  | 6 => 8
  | _ => 12
def e2m1Neg (c : Nat) : Bool := c % 16 ≥ 8
/-- Twice a code's value as an integer: ±0 both read as 0 (R82). -/
def e2m1Int (c : Nat) : Int := if e2m1Neg c then -(e2m1Twice c : Int) else (e2m1Twice c : Int)
/-- A block scale as m × 2^e (R74); 0xFF is NaN. -/
def e3m5 (b : Nat) : Nat × Int :=
  let e := field b 5 3; let m := field b 0 5
  if e = 0 then (m, -7) else (32 + m, (e : Int) - 8)
/-- Eight elements of a block as integers, their multiplier and whether the block is poisoned (R82). `f` is 2 bf16, 4 e4m3, 6 s8 or
7 fp4. DESIGN CHOICE (notes/assumptions/96): a NaN or infinite element, for which the rule gives no integer, gives 0 and does not enter
Emax. -/
def blockInts (f : Nat) (els : List Nat) (scale : Nat) : List Int × (Nat × Int) × Bool :=
  match f with
  | 7 =>
    let (m, e) := e3m5 scale
    (els.map e2m1Int, (m, e - 1), scale == 0xFF)
  | 6 => (els.map (asInt true 8), (1, 0), false)
  | f =>
    let fm := palFloat f
    let p := fm.mbits + 1
    let w : Int := if f = 2 then 15 else 7
    let vs := els.map (fDecode fm)
    let bad := vs.any (fun v => match v with
      | .fin .. => false
      | _ => true)
    let emin : Int := 1 - (fm.bias : Int)
    let emax := vs.foldl (fun (a : Option Int) v => match v with
      | .fin _ m e => if m = 0 then a else (match a with
        | none => some (e + p - 1)
        | some x => some (max x (e + p - 1)))
      | _ => a) none
    let emax := emax.getD emin
    let one := fun (v : Fv) => match v with
      | .fin n m e =>
        let sh := e + p - 1 - emax + w - p
        let a : Nat := if 0 ≤ sh then m * 2 ^ sh.toNat else m / 2 ^ (-sh).toNat
        if n then -(a : Int) else (a : Int)
      | _ => 0
    (vs.map one, (1, emax - w + 1), bad)
/-- A list cut into pieces of n. -/
def chunksOf {α : Type} (n : Nat) : Nat → List α → List (List α)
  | 0, _ => []
  | k + 1, l => l.take n :: chunksOf n k (l.drop n)
/-- A row of 128 elements: its integers, its sixteen multipliers and its sixteen poison flags. -/
def rowInts (f : Nat) (els : List Nat) (scales : List Nat) : List Int × List (Nat × Int) × List Bool :=
  let bs := (chunksOf 8 16 els).zip ((List.range 16).map (fun i => scales.getD i 0))
  let rs := bs.map (fun (e, s) => blockInts f e s)
  (rs.flatMap (fun r => r.1), rs.map (fun r => r.2.1), rs.map (fun r => r.2.2))
end Blocked

end Sys2Proof.Machine
end

