-- ==== Sys2Proof/Machine/Sync.lean ====
section
/-! DEFINITION. custom-1: full-empty accesses, queued reservations, scoped fences, workgroup and wire barriers (07 R166–R178). -/
namespace Sys2Proof.Machine

section FullEmpty
/-- A scalar full-empty access (R166): its fault, a wait for the agent's own writes to the word (14 R318) or for a copy that owns it,
or the request to the owner. -/
def feOp (bits : DWord) (op : FeOp) (regs : List Reg) (rd : Reg) (rs1 : Reg) (data : Hart → DWord) (imm : BitVec 12) (s : State) : Out :=
  scalar bits true regs s (fun h =>
    let va := h.getX rs1 + sext12 imm
    let acc := match op with
      | .ldfe | .ldff => Acc.load
      | _ => Acc.store
    accessAt s h acc .fe va 4 (fun s l =>
      match flushWord s s.cur l.loc 4 with
      | (s, false) => heldCur s (.place l.loc 4 true)
      | (s, true) =>
        if heldWrite s s.cur l.loc 4 || unanswered s s.cur l.loc 4 then heldCur s (.place l.loc 4 true)
        else feSend s { agent := s.cur, op := op, loc := l.loc, va := va, data := (data h).setWidth 32, rd := rd }))
def execLdfe (rd rs1 : Reg) (imm : BitVec 12) (s : State) : Out :=
  feOp (insnBits (.ldfe rd rs1 imm)) .ldfe [rd, rs1] rd rs1 (fun _ => 0) imm s
def execLdff (rd rs1 : Reg) (imm : BitVec 12) (s : State) : Out :=
  feOp (insnBits (.ldff rd rs1 imm)) .ldff [rd, rs1] rd rs1 (fun _ => 0) imm s
def execStef (rs1 rs2 : Reg) (imm : BitVec 12) (s : State) : Out :=
  feOp (insnBits (.stef rs1 rs2 imm)) .stef [rs1, rs2] 0 rs1 (fun h => h.getX rs2) imm s
def execStff (rs1 rs2 : Reg) (imm : BitVec 12) (s : State) : Out :=
  feOp (insnBits (.stff rs1 rs2 imm)) .stff [rs1, rs2] 0 rs1 (fun h => h.getX rs2) imm s
/-- Whether a range of full-empty words lies wholly in one bank, or in one mailbox page (R169). -/
def feRangeOk (l : Loc) (len : Nat) : Bool :=
  match l with
  | .win o => decide (field o 0 17 + len ≤ 0x18000)
  | .mbox b => decide (b % 256 + len ≤ 256)
  | _ => false
/-- Empties words in ascending order and serves what each releases. -/
def emptyWords (s : State) (l : Loc) (words : Nat) : State :=
  (List.range words).foldl (fun s i => servePlace (modMem s (fun m => setFull m (l.add (4 * i)) false)) (l.add (4 * i))) s
/-- FECLR (R169). -/
def execFeclr (rs1 rs2 : Reg) (s : State) : Out :=
  scalar (insnBits (.feclr rs1 rs2)) true [rs1, rs2] s (fun h =>
    let base := h.getX rs1; let len := (h.getX rs2).toNat
    if len = 0 then retireCur s h
    else if base.toNat % 4 ≠ 0 ∨ len % 4 ≠ 0 then trapCur s { cause := 7, tval := base, gva := h.virt }
    else accessAt s h .store .fe base 4 (fun s l =>
      if !feRangeOk l.loc len then trapCur s { cause := 7, tval := base, gva := h.virt }
      else match flushWord s s.cur l.loc len with
        | (s, false) => heldCur s (.place l.loc len true)
        | (s, true) => if heldWrite s s.cur l.loc len || unanswered s s.cur l.loc len then heldCur s (.place l.loc len true)
            else retire (emptyWords s l.loc (len / 4))))
end FullEmpty

section Queued
/-- The queue bound to a dword. -/
def resvQueue (m : Mem) (d : Nat) : Option ResvQ := m.resvs.find? (fun q => q.dword == d)
/-- The first waiter of a queue without a holder becomes holder: the home reads the location at this point in home order, and the
LRW retires (R170). -/
def grantResv (s : State) (d : Nat) : State :=
  match resvQueue s.mem d with
  | some { holder := none, waiters := r :: rest, .. } =>
    if heldRead s (.mem r.addr) r.width || unanswered s r.agent (.mem r.addr) r.width then s
    else
      let v := readLoc s.mem (.mem r.addr) r.width
      let s := modMem s (fun m => { m with resvs := m.resvs.map (fun q => if q.dword == d then
        { q with holder := some { r with since := s.clk, broken := false }, waiters := rest } else q) })
      let s := acquireAll (l2Loc s (.mem r.addr) r.width) r.agent
      modHart s r.agent (fun h => wakeHart (h.setX r.rd (extS r.width v)))
  | _ => s
/-- Joins the queue of a dword, if the home core has room (R172). -/
def joinQueue (m : Mem) (r : Resv) : Option Mem :=
  let d := r.addr / 8
  match resvQueue m d with
  | some q => if q.waiters.length < 32 then
      some { m with resvs := m.resvs.map (fun q => if q.dword == d then { q with waiters := q.waiters ++ [r] } else q) } else none
  | none =>
    if (m.resvs.filter (fun q => homeOf (q.dword * 8) == homeOf r.addr)).length < 32 then
      some { m with resvs := m.resvs ++ [{ dword := d, waiters := [r] }] } else none
/-- A refused LRW (R172): a group counts a bounce and is sent again after 256 clk, a tasklet leaves its slot for a run queue
(01 R34). -/
def refuseLrw (s : State) (va : DWord) : State :=
  let h := curHart s
  if h.tasklet then (match leaveSlot s s.cur h.tile with
    | some s => s
    | none => heldCur s .nothing)
  else if h.feLimit ≤ h.bounces + 1 then takeTrap s s.cur { cause := 30, tval := va, gva := h.virt }
  else setCur s { h with run := .waitSync, bounces := h.bounces + 1, pauseTo := s.clk + 256 }
/-- LRW (R170): gives up an earlier reservation, joins the queue, and is granted at once where it heads a queue without a holder. -/
def lrwOp (bits : DWord) (rd rs1 : Reg) (n : Nat) (s : State) : Out :=
  scalar bits true [rd, rs1] s (fun h =>
    let va := h.getX rs1
    accessAt s h .load .lrw va n (fun s l =>
      match l.loc with
      | .mem a =>
        match flushWord (releaseResv s s.cur) s.cur l.loc n with
        | (s, false) => heldCur s (.place l.loc n false)
        | (s, true) =>
          match joinQueue s.mem { agent := s.cur, addr := a, width := n, rd := rd, since := s.clk, va := va } with
          | none => refuseLrw (count s 3 (homeOf a) 0 4 1) va
          | some m => grantResv (waitCur { s with mem := m } .lrw) (a / 8)
      | _ => heldCur s .nothing))
def execLrwW (rd rs1 : Reg) (s : State) : Out := lrwOp (insnBits (.lrwW rd rs1)) rd rs1 4 s
def execLrwD (rd rs1 : Reg) (s : State) : Out := lrwOp (insnBits (.lrwD rd rs1)) rd rs1 8 s
/-- The result of SCH: x[rd], or PW.SUCC of a tasklet with rd = x0. -/
def schResult (h : Hart) (rd : Reg) (ok : Bool) : Hart :=
  if rd = 0 && h.tasklet then h.setC 0x808 (setBitAt (h.getC 0x808) 0 ok) else h.setX rd (if ok then 1 else 0)
/-- Whether an agent holds the reservation of exactly this span, unbroken (R171). -/
def holdsResv (m : Mem) (k a n : Nat) : Bool :=
  match resvQueue m (a / 8) with
  | some { holder := some r, .. } => r.agent == k && r.addr == a && r.width == n && !r.broken
  | _ => false
/-- Passes a held reservation on. -/
def passResv (s : State) (k d : Nat) : State :=
  modMem s (fun m => trimQueues { m with resvs := m.resvs.map (fun q => match q.holder with
    | some r => if q.dword == d && r.agent == k then { q with holder := none } else q
    | none => q) })
/-- SCH (R171): a release at system scope. -/
def schOp (bits : DWord) (rd rs1 rs2 : Reg) (n : Nat) (s : State) : Out :=
  scalar bits true [rd, rs1, rs2] s (fun h =>
    accessAt s h .store .lrw (h.getX rs1) n (fun s l =>
      match l.loc with
      | .mem a =>
        afterRelease s (fun s =>
          if dropped s h.actsFor h.tile l.loc then heldCur s (.place l.loc n true)
          else if holdsResv s.mem s.cur a n then
            let s := if l.mode = 1 then dropCopies s h.tile l.loc n else s
            match homeWriteN s s.cur l.loc n (h.getX rs2) with
            | (s, false) => heldCur s (.place l.loc n true)
            | (s, true) => modCur (passResv s s.cur (a / 8)) (fun h => retireHart (schResult h rd true))
          else modCur (passResv s s.cur (a / 8)) (fun h => retireHart (schResult h rd false)))
      | _ => heldCur s .nothing))
def execSchW (rd rs1 rs2 : Reg) (s : State) : Out := schOp (insnBits (.schW rd rs1 rs2)) rd rs1 rs2 4 s
def execSchD (rd rs1 rs2 : Reg) (s : State) : Out := schOp (insnBits (.schD rd rs1 rs2)) rd rs1 rs2 8 s
end Queued

section Fence
/-- An ACCST failure that is known and not yet taken: the tile is bound again, and the group traps ACC_FAULT (09 R240). -/
def accFaultTake (s : State) (k : Nat) : Option State :=
  let h := hartAt s k
  match h.accFails with
  | [] => none
  | f :: rest =>
    let s := setHart s k { h with accFails := rest }
    some (takeTrapAt s k { cause := 48, tval := f.addr, gva := h.virt, lane := some f.lane,
                           detail := some (0x80 + 16 * f.kind + f.name) } (excTarget h 48) h.laneQ.head?)
/-- FENCE.S (R173). -/
def execFenceS (kind : BitVec 2) (scope : BitVec 3) (s : State) : Out :=
  scalar (insnBits (.fenceS kind scope)) true [] s (fun _ =>
    let acq := fun (s : State) => retire (if kind.getLsbD 0 then acquireAll s s.cur else s)
    if kind.getLsbD 1 then (match accFaultTake s s.cur with
      | some s => s
      | none => afterRelease s acq)
    else acq s)
end Fence

section Barriers
/-- BARRIER_FAULT of a workgroup barrier, or of a wire barrier, whose numbers start at 16 (R174). -/
def barFault (s : State) (n : Nat) : State := trapCur s { cause := 50, tval := dw n }
/-- A barrier instruction on a workgroup barrier that exists. -/
def onBar (bits : DWord) (n : Reg) (regs : List Reg) (s : State) (f : Hart → Bar → State) : Out :=
  scalar bits false regs s (fun h =>
    let w := wgAt s h.wg
    if w.nbars ≤ n.toNat then barFault s n.toNat else f h (barOf w n.toNat))
def token (p : Bool) : DWord := if p then 1 else 0
/-- BAR.INIT (R175). -/
def execBarInit (n rs1 : Reg) (s : State) : Out :=
  onBar (insnBits (.barInit n rs1)) n [rs1] s (fun h b =>
    let e := (h.getX rs1).toNat
    if e < 1 ∨ 16 < e ∨ b.arrived ≠ 0 ∨ b.copies ≠ 0 then barFault s n.toNat
    else retireCur (putBar s h.wg n.toNat { b with expected := e }) h)
/-- BAR.ARRIVE (R176): the group's earlier writes and updates are performed first (04 R97, R108; 11 R262). -/
def execBarArrive (rd n : Reg) (s : State) : Out :=
  onBar (insnBits (.barArrive rd n)) n [rd] s (fun h b =>
    if b.arrived = b.expected then barFault s n.toNat
    else afterRelease s (fun s =>
      retireX (settleBar s h.wg n.toNat { b with arrived := b.arrived + 1 }) rd (token b.phase)))
/-- A wait for a phase bit to leave the token's (R176); its completion is an acquire. -/
def phaseWait (s : State) (phase tok : Bool) (w : WaitOn) : State :=
  if phase != tok then retire (acquireAll s s.cur) else waitCur s w
def execBarWait (n rs1 : Reg) (s : State) : Out :=
  onBar (insnBits (.barWait n rs1)) n [rs1] s (fun h b =>
    let t := bitAt (h.getX rs1) 0
    phaseWait s b.phase t (.bar n.toNat t))
/-- BAR.QUERY (R177). -/
def execBarQuery (rd n : Reg) (s : State) : Out :=
  onBar (insnBits (.barQuery rd n)) n [rd] s (fun _ b =>
    retireX s rd (dw (b.expected * 65536 + b.copies % 64 * 256 + b.arrived * 2 + (if b.phase then 1 else 0))))
def onGbar (bits : DWord) (n : Reg) (regs : List Reg) (s : State) (f : Hart → Bar → State) : Out :=
  scalar bits false regs s (fun h =>
    let l := launchAt s h.lkey
    if l.gbarn ≤ n.toNat then barFault s (n.toNat + 16) else f h (tget {} l.gbars n.toNat))
/-- A group's arrival at a wire barrier: its workgroup arrives with its last group (R176). -/
def gbarArrived (s : State) (h : Hart) (b : Bar) : Bar :=
  let g := tput b.groups (h.wg * 16 + h.rank) 1
  let n := (g.filter (fun e => e.1 / 16 == h.wg)).length
  { b with groups := g, arrived := if n = (wgAt s h.wg).size then b.arrived + 1 else b.arrived }
/-- A wire barrier after an arrival; a completed phase releases its waiters in the whole launch (R176). -/
def settleGbar (s : State) (l n : Nat) (b : Bar) : State :=
  let t := modLaunch s l (fun l => { l with gbars := tput l.gbars n (barSettle b) })
  if (barSettle b).phase == b.phase then t
  else releaseWaiters t ((s.harts.filter (fun e => e.2.lkey == l && !e.2.tasklet)).map (fun e => e.1)) (.gbar n b.phase)
def execGbarArrive (rd n : Reg) (s : State) : Out :=
  onGbar (insnBits (.gbarArrive rd n)) n [rd] s (fun h b =>
    if (tfind b.groups (h.wg * 16 + h.rank)).isSome then barFault s (n.toNat + 16)
    else afterRelease s (fun s =>
      retireX (settleGbar s h.lkey n.toNat (gbarArrived s h b)) rd (token b.phase)))
def execGbarWait (n rs1 : Reg) (s : State) : Out :=
  onGbar (insnBits (.gbarWait n rs1)) n [rs1] s (fun h b =>
    let t := bitAt (h.getX rs1) 0
    phaseWait s b.phase t (.gbar n.toNat t))
end Barriers

end Sys2Proof.Machine
end

