-- ==== Sys2Proof/Machine/Copy.lean ====
section
/-! DEFINITION. Streamer copies: CPY, CPY.RS, CPY.PF (07 R180–R182) and the streamer's own events (07 R182–R186; 13 R304, R305; 04
R106). A row is read and written when its last source byte is moved: rows before a faulting row are complete and the faulting
row has written nothing (R184). -/
namespace Sys2Proof.Machine

section Shape
/-- Fields of the shape word (R181). -/
def shLen (v : DWord) : Nat := bitsOf v 0 22
def shCv (v : DWord) : Nat := bitsOf v 22 2
def shRows (v : DWord) : Nat := bitsOf v 24 16
def shStride (v : DWord) : DWord := sextFrom 24 (bitsOf v 40 24)
/-- Check 1 of R182. -/
def shapeOk (form : Nat) (v : DWord) : Bool :=
  shCv v != 3 && shRows v != 0 && shLen v != 0 && shLen v % 4 == 0 && (shStride v).toNat % 4 == 0 &&
    (shCv v == 0 || (shLen v % 16 == 0 && form != 2))
/-- Check 2. DESIGN CHOICE (notes/assumptions/93): CPY.PF, which does not use CPYSTRIDE (R180), is exempt from its clause. -/
def copyAligned (form : Nat) (src dst shape stride : DWord) : Bool :=
  src.toNat % 4 == 0 && (form == 2 || dst.toNat % 4 == 0) && (form == 2 || shRows shape ≤ 1 || stride.toNat % 4 == 0)
/-- Check 3: the trap of a source or destination in the wrong region. -/
def copyRegion (s : State) (h : Hart) (form : Nat) (src dst shape : DWord) : Option Trap :=
  let d := windowOff s h.lkey dst.toNat
  let bad : Trap := { cause := 7, tval := dst, gva := h.virt }
  if form = 0 ∧ d.any (fun o => field o 21 8 != h.tile) then some bad
  else if form = 1 ∧ d.isNone then some bad
  else if shCv shape = 1 ∧ d.isNone then some bad
  else if shCv shape = 2 ∧ (windowOff s h.lkey src.toNat).isNone then some { cause := 5, tval := src, gva := h.virt }
  else none
end Shape

section Queue
/-- The entries of a cluster's queue (R305). -/
def clusterCopies (s : State) (c : Nat) : Table Copy := s.copies.filter (fun e => e.1 / 64 == c)
def freeEntry (s : State) (c : Nat) : Option Nat :=
  (List.range 64).find? (fun i => (tfind s.copies (c * 64 + i)).isNone)
def setCopy (s : State) (k : Nat) (c : Copy) : State := { s with copies := tput s.copies k c }
/-- The entry that a core's next copy takes: nothing while its cluster's queue is full or 40 entries are its own (R305). -/
def cpyEntry (s : State) (tile : Nat) : Option Nat :=
  let c := clusterOf tile
  if decide (40 ≤ ((clusterCopies s c).filter (fun e => e.2.tile == tile)).length) then none else freeEntry s c
/-- A CPY that passes its checks stands at a full queue (R182, R305). -/
def cpyBlocked (s : State) (h : Hart) (form : Nat) (bar rs1 rs2 rs3 : Reg) : Bool :=
  let src := h.getX rs1; let dst := h.getX rs2; let shape := h.getX rs3
  (cpyEntry s h.tile).isNone && shapeOk form shape && copyAligned form src dst shape (h.getC 0x807) &&
    (form == 2 || (copyRegion s h form src dst shape).isNone) && decide (bar.toNat < (wgAt s h.wg).nbars)
end Queue

section Places
/-- Pieces of a span that no 4 KiB page boundary cuts: address, length and offset in the span. -/
def pieces : Nat → Nat → Nat → Nat → List (Nat × Nat × Nat)
  | 0, _, _, _ => []
  | f + 1, va, n, off =>
    if n = 0 then []
    else
      let k := min n (4096 - va % 4096)
      (va, k, off) :: pieces f (va + k) (n - k) (off + k)
/-- The CAUSE of a fault message (R184). -/
def copyCause (t : Trap) : Nat := if t.cause = 12 ∨ t.cause = 13 ∨ t.cause = 15 ∨ t.cause = 20 ∨ t.cause = 21 ∨ t.cause = 23 then 1 else 2
/-- The context of a copy's accesses: its launch's, through its streamer's translations (14 R315). -/
def copyCtx (s : State) (c : Copy) : Ctx := { launchCtx (launchAt s c.lkey) (256 + clusterOf c.tile) with lkey := c.lkey }
def copyPieces (va : DWord) (n : Nat) : List (Nat × Nat × Nat) := pieces (n / 4096 + 2) va.toNat n 0
/-- The places of a span of a copy in its launch's address space, or the cause that parks it. -/
def copyPlaces (s : State) (c : Copy) (acc : Acc) (va : DWord) (n : Nat) : Except Nat (List (Nat × Loc × Nat)) :=
  (copyPieces va n).foldr (fun p r =>
    match locate s (copyCtx s c) c.lkey false acc .copy (dw p.1) 4 with
    | .error t => .error (copyCause t)
    | .ok l =>
      let tooFar : Bool := match l.loc with
        | .win o => decide (0x18000 < field o 0 17 + p.2.1)
        | .mem a => acc != .store && anyPoison s a p.2.1
        | _ => false
      if tooFar then .error 2
      else match r with
        | .error e => .error e
        | .ok q => .ok ((p.2.2, l.loc, p.2.1) :: q)) (.ok [])
/-- A span of a copy whose walk meets a held table entry waits (14 R316). -/
def copyWaits (s : State) (c : Copy) (acc : Acc) (va : DWord) (n : Nat) : Bool :=
  (copyPieces va n).any (fun p => walkWaits s (copyCtx s c) c.lkey acc (dw p.1))
/-- What the accesses of a span leave behind besides their data: the streamer's walks, the tag checks of what is read, and, with `lines`,
the lines in their L2 slices (14 R316; 15 R339, R342). -/
def copyTraces (lines : Bool) (s : State) (c : Copy) (acc : Acc) (va : DWord) (n : Nat) : State :=
  (copyPieces va n).foldl (fun s p =>
    match locate s (copyCtx s c) c.lkey false acc .copy (dw p.1) 4 with
    | .error _ => notePoisonAt s (copyCtx s c) c.lkey acc (dw p.1) 4
    | .ok l => match l.loc, acc with
      | .mem a, .load => let t := notePoisonSpan (l.note s) a p.2.1; if lines then l2Span t a p.2.1 else t
      | _, _ => l.note s) s
def copyNotes (s : State) (c : Copy) (acc : Acc) (va : DWord) (n : Nat) : State := copyTraces true s c acc va n
/-- The palette code of a window address's bank, as captured when the copy began (02 R55). -/
def bankFmt (c : Copy) (o : Nat) : Nat := palFmt (tget 0 c.pals (o / 2 ^ 17))
/-- A window place met under a conversion: reserved codes never pass, raw banks and fp4 banks convert nothing (R183). -/
def fmtOk (cv f : Nat) : Bool := decide (f < 8) && (cv == 0 || (decide (1 ≤ f) && decide (f ≤ 6)))
def rowSrc (c : Copy) (r : Nat) : DWord := c.src + dw r * shStride c.shape
def rowDst (c : Copy) (r : Nat) : DWord := c.dst + dw r * c.stride
/-- Bytes that a row writes (R183), given its destination's palette code and its source's. -/
def rowOut (c : Copy) (df sf : Nat) : Nat :=
  match shCv c.shape with
  | 1 => shLen c.shape * fmtWidth df / 32
  | 2 => shLen c.shape * 32 / fmtWidth sf
  | _ => shLen c.shape
/-- The palette code of an address if it is a window word; 0 elsewhere. -/
def fmtAt (s : State) (c : Copy) (va : DWord) : Option Nat := (windowOff s c.lkey va.toNat).map (bankFmt c)
/-- The destination of a row. Of several faults the FORMAT faults of the conversion come first, then those of the destination's bytes, then
those of the source, which the rule does not say (notes/assumptions/71). DESIGN CHOICE (notes/assumptions/94): a window bank with FMT 0 or 7
is a FORMAT fault on the side that the conversion reads or writes through its palette, and not on the other. -/
def rowDest (s : State) (c : Copy) (r : Nat) : Except Nat (List (Nat × Loc × Nat)) :=
  let cv := shCv c.shape
  let df := (fmtAt s c (rowDst c r)).getD 0; let sf := (fmtAt s c (rowSrc c r)).getD 0
  if cv = 2 ∧ !fmtOk 2 sf then .error 3
  else if cv = 1 ∧ !fmtOk 1 df then .error 3
  else match copyPlaces s c .store (rowDst c r) (rowOut c df sf) with
    | .error e => .error e
    | .ok q => if q.any (fun p => match p.2.1 with
        | .win o => !fmtOk (if cv = 1 then 1 else 0) (bankFmt c o)
        | _ => false) then .error 3 else .ok q
/-- The source bytes of a row. -/
def rowSource (s : State) (c : Copy) (r : Nat) : Except Nat (List (Nat × Loc × Nat)) :=
  match copyPlaces s c .load (rowSrc c r) (shLen c.shape) with
  | .error e => .error e
  | .ok q => if q.any (fun p => match p.2.1 with
      | .win o => !fmtOk (if shCv c.shape = 2 then 2 else 0) (bankFmt c o)
      | _ => false) then .error 3 else .ok q
/-- Bytes that a copy's row writes. -/
def rowLen (s : State) (c : Copy) (r : Nat) : Nat := rowOut c ((fmtAt s c (rowDst c r)).getD 0) ((fmtAt s c (rowSrc c r)).getD 0)
end Places

section Issue
/-- A CPY invalidates, as it issues, its core's cached copies of every destination word that its addresses name then (14 R327). -/
def issueDrops (s : State) (c : Copy) : State :=
  (List.range (shRows c.shape)).foldl (fun s r => (copyPieces (rowDst c r) (rowLen s c r)).foldl (fun s p =>
    match locate s (copyCtx s c) c.lkey false .store .copy (dw p.1) 4 with
    | .ok l => dropCopies s c.tile l.loc p.2.1
    | .error _ => s) s) s
/-- The common frame of the three forms (R182): the copy follows every earlier write that the group's releases cover (04 R106). -/
def cpyOp (bits : DWord) (form : Nat) (bar rs1 rs2 rs3 : Reg) (s : State) : Out :=
  scalar bits false [rs1, rs2, rs3] s (fun h =>
    let src := h.getX rs1; let dst := h.getX rs2; let shape := h.getX rs3; let stride := h.getC 0x807
    if !shapeOk form shape || !copyAligned form src dst shape stride then trapCur s (illegal shape)
    else match (if form = 2 then none else copyRegion s h form src dst shape) with
      | some t => trapCur s t
      | none =>
        let w := wgAt s h.wg
        if w.nbars ≤ bar.toNat then barFault s bar.toNat
        else
          match cpyEntry s h.tile with
          | none => heldCur s .copyQueue
          | some i =>
            match flushAgent s s.cur with
            | (s, false) => heldCur s .writes
            | (s, true) =>
              let k := clusterOf h.tile * 64 + i
              let e : Copy := { form := form, src := src, dst := dst, shape := shape, stride := stride, wg := h.wg,
                                bar := bar.toNat, hart := s.cur, tile := h.tile, lkey := h.lkey, pid := w.pid,
                                weight := h.sweight, seq := s.seqNo }
              let b := barOf w bar.toNat
              let s := if form = 2 then s else issueDrops s { e with pals := s.pal }
              let s := putBar (bumpSeq (setCopy s k e)) h.wg bar.toNat { b with copies := b.copies + 1 }
              modCur s (fun h => { h with run := .waitDep, wait := .copyOwn k }))
def execCpy (bar rs1 rs2 rs3 : Reg) (s : State) : Out := cpyOp (insnBits (.cpy bar rs1 rs2 rs3)) 0 bar rs1 rs2 rs3 s
def execCpyRs (bar rs1 rs2 rs3 : Reg) (s : State) : Out := cpyOp (insnBits (.cpyRs bar rs1 rs2 rs3)) 1 bar rs1 rs2 rs3 s
def execCpyPf (bar rs1 rs3 : Reg) (s : State) : Out := cpyOp (insnBits (.cpyPf bar rs1 rs3)) 2 bar rs1 0 rs3 s
end Issue

section Ownership
def localLoc : Loc → Bool
  | .mem _ => true
  | .win _ => true
  | _ => false
/-- The spans of a row's destination that carry ownership (04 R106). -/
def rowSegs (r : Nat) (q : List (Nat × Loc × Nat)) : List (Nat × Nat × Loc × Nat) :=
  (q.filter (fun p => localLoc p.2.1)).map (fun p => (r, p.1, p.2.1, p.2.2))
/-- The state in which a copy's own ownership holds nothing back. -/
def withoutOwn (s : State) (k : Nat) : State := setCopy s k { copyAt s k with segs := [] }
/-- Claims a row: its fault, a wait for a walk or for another copy that owns part of it, or the copy with the row owned. -/
def claimRow (s : State) (k : Nat) (c : Copy) : Except Nat (Option Copy) :=
  if copyWaits s c .store (rowDst c c.ownRow) (rowLen s c c.ownRow) then .ok none
  else match rowDest s c c.ownRow with
  | .error e => .error e
  | .ok q =>
    let segs := rowSegs c.ownRow q
    if segs.any (fun g => let o := ownSpan g.2.2.1 g.2.2.2; ownedByCopy (withoutOwn s k) o.1 o.2) then .ok none
    else .ok (some { c with segs := c.segs ++ segs, ownRow := c.ownRow + 1 })
/-- Claims rows in order until all are owned, one faults, or one must wait. -/
def claimRows : Nat → State → Nat → Copy → Copy
  | 0, _, _, c => c
  | f + 1, s, k, c =>
    if c.ownRow ≥ shRows c.shape then c
    else match claimRow s k c with
      | .ok (some c) => claimRows f s k c
      | _ => c
/-- A copy with what it has come to own: the issuing core drops again its own cached copies of those lines, which may have come back since
the CPY issued, or were not known then (04 R106; 14 R327). -/
def ownRows (s : State) (k : Nat) (c : Copy) : State :=
  c.segs.foldl (fun s g => dropCopies s c.tile g.2.2.1 g.2.2.2) (setCopy s k c)
/-- The CPY that waits for a copy's ownership retires (R182). -/
def cpyRetire (s : State) (k : Nat) : State :=
  let h := (copyAt s k).hart
  if (hartAt s h).wait == .copyOwn k then modHart s h retireHart else s
/-- Parks a copy at its current row (R184), after what its accesses to the row have left behind. -/
def parkCopy (s : State) (k cause : Nat) : State :=
  let c := copyAt s k
  let s := copyNotes (copyNotes s c .store (rowDst c c.row) (rowLen s c c.row)) c .load (rowSrc c c.row) (shLen c.shape)
  cpyRetire (count (bumpSeq (setCopy s k { c with parked := true, cause := cause, msgSent := false, pos := 0, parkSeq := s.seqNo }))
    4 (k / 64) 0 2 1) k
/-- COPY_OWNERSHIP (R182, R184; 02 R55): palettes are read once, and rows are claimed up to the first that faults. The copy parks
when it reaches that row. -/
def execCopyOwnership (k : Nat) (s : State) : Out :=
  match tfind s.copies k with
  | none => .next s
  | some c =>
    if c.parked then .next s
    else
      let c := if c.started then c else { c with started := true, pals := s.pal }
      let c := if c.form = 2 then { c with ownRow := shRows c.shape } else claimRows (shRows c.shape) s k c
      let s := ownRows s k c
      .next (if c.ownRow ≥ shRows c.shape then cpyRetire s k else s)
end Ownership

section Rows
/-- Bytes a copy reads at a place: those of another package are free values (notes/assumptions/19). -/
def copyRead (s : State) (l : Loc) (n : Nat) : State × List Byte :=
  match l with
  | .far p a => ({ s with free := s.free + 1 }, (List.range n).map (fun i => Config.farByte s.free p (a + i)))
  | l => (s, readBytes s.mem l n)
/-- Elements of a byte string, each of w bits. -/
def bytesEls (w : Nat) (bs : List Byte) : List Nat :=
  (List.range (bs.length * 8 / w)).map (fun i => leNat ((bs.drop (i * (w / 8))).take (w / 8)))
/-- A row's bytes converted (R183). -/
def convRow (cv df sf : Nat) (bs : List Byte) : List Byte :=
  match cv with
  | 1 => (bytesEls 32 bs).flatMap (fun x => leBytes (fmtWidth df / 8) (toPal df 0 true x).1)
  | 2 => (bytesEls (fmtWidth sf) bs).flatMap (fun x => leBytes 4 (fromPal sf x).1)
  | _ => bs
/-- Poison under a copy's write (15 R342): granules it covers whole are cleared; a poisoned one it covers in part faults. -/
def partPoison (s : State) (a n : Nat) : Bool :=
  (a % 64 != 0 && poisoned s (.mem (a / 64 * 64)) 64) || ((a + n) % 64 != 0 && poisoned s (.mem ((a + n) / 64 * 64)) 64)
def clearPoison (m : Mem) (a n : Nat) : Mem :=
  let lo := (a + 63) / 64; let hi := (a + n) / 64
  { m with poison := tfilter (fun g => !(decide (lo ≤ g ∧ g < hi))) m.poison,
           tagXor := tfilter (fun g => !(decide (lo ≤ g ∧ g < hi))) m.tagXor }
/-- The granules a write covers in part are read for it: their tag checks (R342). -/
def partNotes (s : State) (a n : Nat) : State :=
  let s := if a % 64 = 0 then s else noteGranule s (a / 64)
  if (a + n) % 64 = 0 then s else noteGranule s ((a + n) / 64)
/-- Far writes of a row, eight bytes at a time. -/
def farWrites (s : State) (k r : Nat) (l : Loc) (bs : List Byte) : State :=
  let c := copyAt s k
  match l with
  | .far p a =>
    let e := tget {} s.hub.far p
    let ws := (chunksOf 8 ((bs.length + 7) / 8) bs).zipIdx.map (fun (b, i) =>
      ({ req := { agent := 0xFFFFFB, loc := .far p (a + 8 * i), size := b.length, data := dw (leNat b), lkey := c.lkey, pid := c.pid,
                  src := c.tile }, port := e.port,
         part := e.part, copy := some (k, r) } : FarWrite))
    modMem s (fun m => { m with farOut := m.farOut ++ ws })
  | _ => s
/-- Writes the pieces of a row: false, with nothing written, where one is held. -/
def writePieces (k r : Nat) (bs : List Byte) : State → List (Nat × Loc × Nat) → State × Bool
  | s, [] => (s, true)
  | s, (off, l, n) :: rest =>
    let b := (bs.drop off).take n
    match l with
    | .far _ _ => writePieces k r bs (farWrites s k r l b) rest
    | .mem a =>
      (match homeWrite (modMem s (fun m => clearPoison m a n)) 0xFFFFFB l b with
      | (s, true) => writePieces k r bs s rest
      | (s, false) => (s, false))
    | l =>
      (match homeWrite s 0xFFFFFB l b with
      | (s, true) => writePieces k r bs s rest
      | (s, false) => (s, false))
/-- Reads the pieces of a row. -/
def readPieces : State → List (Nat × Loc × Nat) → State × List Byte
  | s, [] => (s, [])
  | s, (_, l, n) :: rest =>
    let (s, b) := copyRead s l n
    let (s, r) := readPieces s rest
    (s, b ++ r)
/-- A row with a place that no packet of the copy reaches: it is never moved (15 R335, R336). -/
def rowDropped (s : State) (c : Copy) (q : List (Nat × Loc × Nat)) : Bool := q.any (fun p => dropped s c.pid c.tile p.2.1)
/-- Moves one whole row: it parks the copy, is held, or completes the row. Its source is read and its destination written with
the copy's own ownership aside (04 R106). -/
def moveRow (s : State) (k : Nat) (c : Copy) : State :=
  let s0 := withoutOwn s k
  let src := rowSource s0 c c.row
  let dst := rowDest s0 c c.row
  let df := (fmtAt s c (rowDst c c.row)).getD 0; let sf := (fmtAt s c (rowSrc c c.row)).getD 0
  if copyWaits s c .store (rowDst c c.row) (rowLen s c c.row) || copyWaits s c .load (rowSrc c c.row) (shLen c.shape) then s
  else match dst, src with
  | .error e, _ => parkCopy s k e
  | _, .error e => parkCopy s k e
  | .ok d, .ok q =>
    if d.any (fun p => match p.2.1 with
      | .mem a => partPoison s a p.2.2
      | _ => false) then
      parkCopy (d.foldl (fun s p => match p.2.1 with
        | .mem a => partNotes s a p.2.2
        | _ => s) s) k 2
    else if rowDropped s c d || rowDropped s c q || q.any (fun p => heldRead s0 p.2.1 p.2.2) ||
        d.any (fun p => lrHolds s0 0xFFFFFB p.2.1 p.2.2) then s
    else
      let (s1, bs) := readPieces s0 q
      match writePieces k c.row (convRow (shCv c.shape) df sf bs) s1 d with
      | (s2, false) => modMem s (fun m => { m with inits := s2.mem.inits })
      | (s2, true) =>
        let s3 := copyNotes (copyNotes s2 c .store (rowDst c c.row) (rowLen s c c.row)) c .load (rowSrc c c.row) (shLen c.shape)
        setCopy s3 k { c with row := c.row + 1, pos := 0, segs := c.segs.filter (fun g => g.1 != c.row) }
/-- A row of CPY.PF (R186): its lines come into their home L2 slices; any fault drops the whole row, and a line that is held keeps it
waiting. -/
def prefetchRow (s : State) (k : Nat) (c : Copy) : State :=
  let src := rowSrc c c.row; let n := shLen c.shape
  let next := fun (s : State) => setCopy s k { c with row := c.row + 1, pos := 0 }
  if copyWaits s c .load src n then s
  else match copyPlaces s c .load src n with
  | .error _ => next (copyTraces false s c .load src n)
  | .ok q =>
    if q.any (fun p => match p.2.1 with
      | .mem _ => false
      | _ => true) then next (copyTraces false s c .load src n)
    else if rowDropped s c q || q.any (fun p => heldRead s p.2.1 p.2.2) then s
    else next (copyNotes s c .load src n)
/-- One burst of a copy (13 R304): 4,096 source bytes, or the rest of a row. -/
def burst (s : State) (k : Nat) : State :=
  match tfind s.copies k with
  | none => s
  | some c =>
    let n := min 4096 (shLen c.shape - c.pos)
    let moved := fun (s : State) => count s 4 (k / 64) 0 0 n
    if c.pos + n < shLen c.shape then moved (setCopy s k { c with pos := c.pos + n })
    else
      let t := if c.form = 2 then prefetchRow s k c else moveRow s k c
      if c.row < (copyAt t k).row then moved t else t
end Rows

section Rounds
/-- A copy that a visit may serve: not parked, its next row owned or due to fault, and not finished. -/
def servable (c : Copy) : Bool := c.started && !c.parked && decide (c.row < shRows c.shape)
/-- The oldest servable copy of a workgroup in a cluster's queue. -/
def oldestCopy (s : State) (c wg : Nat) : Option Nat :=
  ((clusterCopies s c).foldl (fun (a : Option (Nat × Nat)) e =>
    if e.2.wg == wg && servable e.2 then (match a with
      | none => some (e.2.seq, e.1)
      | some b => if e.2.seq < b.1 then some (e.2.seq, e.1) else some b) else a) none).map Prod.snd
/-- Lowest group slot of a workgroup. DESIGN CHOICE (notes/assumptions/95): a parked workgroup, which holds none, stands where its members
stood before the park, and one of which no slot is known stands last. -/
def lowestSlot (s : State) (wg : Nat) : Nat :=
  let w := wgAt s wg
  (w.members.map (fun e => (hartAt s e.2).slot) ++ w.saved.map (fun e => e.2.slot)).foldl min 95
/-- Inserts by a rising key. -/
def insertBy {α : Type} (key : α → Nat) (x : α) : List α → List α
  | [] => [x]
  | y :: r => if key x < key y then x :: y :: r else y :: insertBy key x r
/-- The workgroups of a cluster's queue with a copy that is not parked, in the order a round visits them (R304). -/
def visitOrder (s : State) (c : Nat) : List (Nat × Nat) :=
  let ws := ((clusterCopies s c).filter (fun e => !e.2.parked)).map (fun e => (e.2.wg, e.2.weight))
  let ws := ws.foldl (fun (a : List (Nat × Nat)) x => if a.any (fun y => y.1 == x.1) then a else a ++ [x]) []
  ws.foldl (fun a x => insertBy (fun w => (wgAt s w.1).tile * 96 + lowestSlot s w.1) x a) []
/-- One unit of credit: a burst of the workgroup's oldest servable copy; at a row not yet owned the row is claimed first, or the
copy parks. -/
def spend (s : State) (c wg : Nat) : State :=
  match oldestCopy s c wg with
  | none => s
  | some k =>
    let e := copyAt s k
    if e.row < e.ownRow then burst s k
    else match claimRow s k e with
      | .error cause => parkCopy s k cause
      | .ok none => s
      | .ok (some e) => burst (ownRows s k e) k
/-- STREAMER_ROUND (R304). -/
def execStreamerRound (c : Nat) (s : State) : Out :=
  .next ((visitOrder s c).foldl (fun s w => (List.range w.2).foldl (fun s _ => spend s c w.1) s) s)
end Rounds

section Ends
/-- A copy leaves its queue entry and its barrier phase (R185, R186). -/
def detachCopy (s : State) (k : Nat) : State := dropCopy (cpyRetire s k) k
/-- Whether every destination byte of a copy has been written. -/
def copyFinished (s : State) (k : Nat) (c : Copy) : Bool :=
  !c.parked && decide (shRows c.shape ≤ c.row) && !s.mem.farOut.any (fun f => match f.copy with
    | some (j, _) => j == k
    | none => false)
/-- COPY_COMPLETE (R186). -/
def execCopyComplete (k : Nat) (s : State) : Out :=
  match tfind s.copies k with
  | none => .next s
  | some c => if copyFinished s k c then .next (count (detachCopy s k) 4 (k / 64) 0 1 1) else .next s
/-- Discards a parked copy: its rows stay, its ownership goes, CDISC records it (R185; 01 R26). -/
def discardCopy (s : State) (k : Nat) : State :=
  let l := (copyAt s k).lkey
  modLaunch (detachCopy s k) l (fun l => { l with cdisc := true })
/-- The fault message (R184). -/
def faultMessage (k : Nat) (c : Copy) : Word :=
  wd (2 ^ 31 + c.cause * 2 ^ 28 + (k / 64) * 2 ^ 22 + (k % 64) * 2 ^ 16 + c.row % 65536)
/-- COPY_FAULT_MESSAGE (R184): messages to one MBOX word queue in the order in which they began to wait. -/
def execCopyFaultMessage (k : Nat) (s : State) : Out :=
  match tfind s.copies k with
  | none => .next s
  | some c =>
    if !c.parked || c.msgSent then .next s
    else
      let l := launchAt s c.lkey
      if !issuerOwns s l l.mbox then .next (discardCopy s k)
      else if isFull s.mem l.mbox || heldWrite s 0xFFFFFB l.mbox 4 || messageBefore s l.mbox c.parkSeq then .next s
      else .next (setFullWrite (setCopy s k { c with msgSent := true }) l.mbox (faultMessage k c))
/-- Takes a launch's copy command word with LDFE semantics (R185). -/
def takeCommand (s : State) (l : Nat) : Option (State × Nat) :=
  match tfind s.launches l with
  | none => none
  | some r =>
    if !issuerOwns s r r.cmdw || !isFull s.mem r.cmdw || heldWrite s 0xFFFFFB r.cmdw 4 then none
    else
      let v := (readLoc s.mem r.cmdw 4).toNat
      some (servePlace (modMem s (fun m => setFull m r.cmdw false)) r.cmdw, v)
/-- The parked copy that a command names: cluster and entry. -/
def commandCopy (s : State) (v : Nat) : Option Nat :=
  let k := field v 22 6 * 64 + field v 16 6
  match tfind s.copies k with
  | some c => if c.parked then some k else none
  | none => none
/-- What a command does. -/
def doCommand (s : State) (v : Nat) : State :=
  match commandCopy s v with
  | none => s
  | some k =>
    if field v 30 2 = 1 then setCopy s k { copyAt s k with parked := false, msgSent := false, cause := 0, pos := 0 }
    else if field v 30 2 = 2 then discardCopy s k
    else s
/-- COPY_RESUME and COPY_DISCARD (R185): a full command word is taken and acted on. Each acts on its own CMD, and either takes a
word that commands neither. -/
def copyCommand (s : State) (l cmd other : Nat) : State :=
  match takeCommand s l with
  | none => s
  | some (s', v) => if field v 30 2 = other ∧ cmd ≠ other then s else doCommand s' v
def execCopyResume (l : Nat) (s : State) : Out := .next (copyCommand s l 1 2)
def execCopyDiscard (l : Nat) (s : State) : Out := .next (copyCommand s l 2 1)
end Ends

end Sys2Proof.Machine
end

