-- ==== Sys2Proof/Machine/LaneIssue.lean ====
section
/-! DEFINITION. custom-0: lane issue, masks and mask branches (06 R143–R151). -/
namespace Sys2Proof.Machine

section LaneFetch
/-- Ninety-six bits at a lane pc (01 R15; 06 R145): three words, the first faulting one deciding. -/
def fetchLane (s : State) (h : Hart) (a : DWord) : Except Trap LaneWords :=
  match fetchWord s h a with
  | .error t => .error t
  | .ok (_, w0) =>
    match fetchWord s h (a + 4) with
    | .error t => .error t
    | .ok (_, w1) =>
      match fetchWord s h (a + 8) with
      | .error t => .error t
      | .ok (_, w2) => .ok (w2 ++ w1 ++ w0)
/-- The x registers a lane instruction captures (02 R43): those its kind-01 sources name. -/
def capturedRegs (w : LaneWords) : List Reg :=
  let l := laneL w
  let one := fun (k : BitVec 2) (f : BitVec 10) => if k = 1#2 then [f.extractLsb' 0 5] else []
  one l.base.ka l.base.sa ++ one l.base.kb l.base.sb ++ (if w.getLsbD 7 then [] else one l.kc l.sc)
/-- The values captured for SA, SB and SC. -/
def captureEntry (h : Hart) (w : LaneWords) (pc a : DWord) (rem : Nat) : LaneEntry :=
  let l := laneL w
  let one := fun (k : BitVec 2) (f : BitVec 10) => if k = 1#2 then h.getX (f.extractLsb' 0 5) else 0
  { word := w, capA := one l.base.ka l.base.sa, capB := one l.base.kb l.base.sb,
    capC := if w.getLsbD 7 then 0 else one l.kc l.sc, lpc := a, pc := pc, rem := rem }
/-- The entries of a batch, up to the first whose fetch faults. -/
def batchEntries (s : State) (h : Hart) (pc : DWord) : Nat → DWord → List LaneEntry
  | 0, _ => []
  | r + 1, a =>
    match fetchLane s h a with
    | .error t => [{ bad := some t, lpc := a, pc := pc, rem := r + 1 }]
    | .ok w => captureEntry h w pc a (r + 1) :: batchEntries s h pc r (a + 12)
/-- A fetch waits: for a held table entry of its walk, for a copy or an initialisation at its place, or for a write that the group's
acquires have obtained (04 R101, R106; 14 R316; 17 R390). -/
def fetchHeld (s : State) (k : Nat) (h : Hart) (a : DWord) : Bool :=
  walkWaits s (fetchCtx h) h.lkey .fetch a || (match fetchWord s h a with
    | .ok (l, _) => heldRead s l.loc 4 || unanswered s k l.loc 4
    | .error _ => false)
/-- What it waits for. -/
def fetchWait (s : State) (h : Hart) (a : DWord) : WaitOn :=
  match fetchWord s h a with
  | .ok (l, _) => .place l.loc 4 false
  | .error _ => walkWait s (fetchCtx h) h.lkey .fetch a
/-- What the fetch of one word by the scalar or the lane side leaves behind: its walk, its line, and a tag check that failed (14 R316; 15
R342; 17 R390). -/
def fetchNote (s : State) (h : Hart) (lane : Bool) (a : DWord) : State :=
  match fetchWord s h a with
  | .ok (l, _) => noteFetch (l.note s) h lane l
  | .error _ => notePoisonAt s (fetchCtx h) h.lkey .fetch a 4
/-- Addresses of the words of a batch of n lane instructions. -/
def batchWords (n : Nat) (a : DWord) : List DWord := (List.range (3 * n)).map (fun i => a + dw (4 * i))
/-- The words of a batch up to the first that faults (06 R145). -/
def batchFetched (s : State) (h : Hart) (n : Nat) (a : DWord) : List DWord :=
  (batchWords n a).takeWhile (fun b => match fetchWord s h b with
    | .ok _ => true
    | .error _ => walkWaits s (fetchCtx h) h.lkey .fetch b)
/-- Whether the fetch of a batch waits, and for what. -/
def batchHeld (s : State) (k : Nat) (h : Hart) (n : Nat) (a : DWord) : Bool := (batchFetched s h n a).any (fetchHeld s k h)
def batchWait (s : State) (k : Nat) (h : Hart) (n : Nat) (a : DWord) : WaitOn :=
  (((batchFetched s h n a).find? (fetchHeld s k h)).map (fetchWait s h)).getD .nothing
/-- What its fetch leaves behind, up to the word that faults. -/
def batchNotes (s : State) (h : Hart) (n : Nat) (a : DWord) : State :=
  let ws := batchWords n a
  let ok := ws.takeWhile (fun b => match fetchWord s h b with
    | .ok _ => true
    | .error _ => false)
  (ws.take (ok.length + 1)).foldl (fun s b => fetchNote s h true b) s
/-- x registers that queued LRED and DISP instructions will write (08 R194). -/
def queuedX (h : Hart) : List Nat :=
  h.laneQ.filterMap (fun e => match field e.word.toNat 0 8 with
    | 0x43 => some (field e.word.toNat 16 5)
    | 0x45 => some (field e.word.toNat 20 5)
    | _ => none)
/-- Whether a register will be written by a queued instruction. -/
def regQueued (h : Hart) (r : Reg) : Bool := r != 0 && (queuedX h).contains r.toNat
/-- Whether a batch captures a register that a queued instruction writes: its LRUN waits for the write (08 R194). -/
def capturesQueued (h : Hart) (es : List LaneEntry) : Bool := es.any (fun e => (capturedRegs e.word).any (regQueued h))
/-- Whether a batch of n instructions must wait for the queue: for n free entries, or for a write it captures (R144; 08 R194). -/
def batchWaits (s : State) (h : Hart) (n : Nat) : Bool :=
  decide (64 < h.laneQ.length + n) || capturesQueued h (batchEntries s h h.pc n h.lpc)
/-- Appends a batch of n instructions from LPC (R144): nothing while the queue lacks n free entries or the fetch waits. The LRUN moves the
pc on; its last instruction counts it retired, and reports the count of an LRUNR. -/
def appendBatch (s : State) (h : Hart) (n : Nat) (cnt : Option Nat) : State :=
  if batchWaits s h n then setCur s { h with run := .waitDep, wait := .laneSpace n }
  else if batchHeld s s.cur h n h.lpc then heldCur s (batchWait s s.cur h n h.lpc)
  else
    let es := (batchEntries s h h.pc n h.lpc).map (fun (e : LaneEntry) => { e with cnt := cnt })
    setCur (batchNotes s h n h.lpc)
      { h with laneQ := h.laneQ ++ es, lpc := h.lpc + dw (12 * n), pc := h.pc + 4, run := .ready, wait := .nothing }
def execLrun (n : BitVec 12) (s : State) : Out :=
  scalar (insnBits (.lrun n)) false [] s (fun h => appendBatch s h n.toNat none)
/-- LRUNR: its count waits for a queued write of its register (08 R194); a count above 64 is illegal once the queue before it is empty; a
count of 0 retires with no effect. -/
def execLrunr (rs1 : Reg) (s : State) : Out :=
  scalar (insnBits (.lrunr rs1)) false [rs1] s (fun h =>
    let n := (h.getX rs1).toNat
    if regQueued h rs1 ∨ ((64 < n ∨ n = 0) ∧ !h.laneQ.isEmpty) then setCur s { h with run := .waitDep, wait := .laneSpace 64 }
    else if 64 < n then trapCur s (illegal (insnBits (.lrunr rs1)))
    else if n = 0 then retireCur (traceEvent s s.cur (.cnt 0)) h
    else appendBatch s h n (some n))
/-- LPC (R148). -/
def execLpc (imm : BitVec 12) (rs1 : Reg) (s : State) : Out :=
  scalar (insnBits (.lpc imm rs1)) false [rs1] s (fun h =>
    let v := (h.getX rs1 + sext12 imm) &&& ~~~(3 : DWord)
    retireCur (traceEvent s s.cur (.lpc v)) { h with lpc := v })
end LaneFetch

section Masks
/-- The lowest segment of the bound limbs that holds both 1 and 0 bits (R150). -/
def partialSeg (limbs : Nat) (m : Mask) : Option Nat :=
  if limbs = 0 then none
  else (List.range (128 / limbs)).find? (fun j =>
    let n := ((List.range limbs).filter (fun i => m.getLsbD (j * limbs + i))).length
    n != 0 && n != limbs)
/-- Writes mask n and retires with `h`; a write that would leave EM partial within a segment traps LIMB_DIVERGE and changes
nothing (R150). -/
def writeMask (s : State) (h : Hart) (n : Reg) (v : Mask) : State :=
  match (if n.toNat = 15 then partialSeg h.limbs v else none) with
  | some j => trapCur s { cause := 27, tval := dw j, detail := some 0 }
  | none =>
    let s := if n.toNat = 15 then traceEvent s s.cur (.mask v) else s
    retireCur s (h.setM n.toNat v)
def maskStackTrap (s : State) (h : Hart) : State := trapCur s { cause := 28, tval := dw h.msp }
def maskOp2 (bits : DWord) (rd ma mb : Reg) (s : State) (f : Mask → Mask → Mask) : Out :=
  scalar bits false [] s (fun h => writeMask s h rd (f (h.getM ma.toNat) (h.getM mb.toNat)))
def maskOp1 (bits : DWord) (rd ma : Reg) (s : State) (f : Mask → Mask) : Out :=
  scalar bits false [] s (fun h => writeMask s h rd (f (h.getM ma.toNat)))
def execMand (rd ma mb : Reg) (s : State) : Out :=
  maskOp2 (insnBits (.mand rd ma mb)) rd ma mb s (fun a b => a &&& b)
def execMor (rd ma mb : Reg) (s : State) : Out :=
  maskOp2 (insnBits (.mor rd ma mb)) rd ma mb s (fun a b => a ||| b)
def execMxor (rd ma mb : Reg) (s : State) : Out :=
  maskOp2 (insnBits (.mxor rd ma mb)) rd ma mb s (fun a b => a ^^^ b)
def execMandn (rd ma mb : Reg) (s : State) : Out :=
  maskOp2 (insnBits (.mandn rd ma mb)) rd ma mb s (fun a b => a &&& ~~~b)
def execMnot (rd ma : Reg) (s : State) : Out :=
  maskOp1 (insnBits (.mnot rd ma)) rd ma s (fun a => ~~~a)
def execMmov (rd ma : Reg) (s : State) : Out :=
  maskOp1 (insnBits (.mmov rd ma)) rd ma s (fun a => a)
def execMpush (ma : Reg) (s : State) : Out :=
  scalar (insnBits (.mpush ma)) false [] s (fun h =>
    if 16 ≤ h.msp then maskStackTrap s h else retireCur s { h.setS h.msp (h.getM ma.toNat) with msp := h.msp + 1 })
/-- MPOP clears the entry it pops once it has read it (02 R47). -/
def execMpop (rd : Reg) (s : State) : Out :=
  scalar (insnBits (.mpop rd)) false [] s (fun h =>
    if h.msp = 0 then maskStackTrap s h
    else writeMask s { h.setS (h.msp - 1) 0 with msp := h.msp - 1 } rd (h.getS (h.msp - 1)))
def execMpeek (rd e : Reg) (s : State) : Out :=
  scalar (insnBits (.mpeek rd e)) false [] s (fun h =>
    if h.msp ≤ e.toNat then maskStackTrap s h else writeMask s h rd (h.getS e.toNat))
def execMpoke (e ma : Reg) (s : State) : Out :=
  scalar (insnBits (.mpoke e ma)) false [] s (fun h =>
    if h.msp ≤ e.toNat then maskStackTrap s h else retireCur s (h.setS e.toNat (h.getM ma.toNat)))
def execMcnt (rd ma : Reg) (s : State) : Out :=
  scalar (insnBits (.mcnt rd ma)) false [] s (fun h => retireX s rd (dw (countOnes (h.getM ma.toNat))))
def execMfirst (rd ma : Reg) (s : State) : Out :=
  scalar (insnBits (.mfirst rd ma)) false [] s (fun h => retireX s rd (dw ((lowestOne (h.getM ma.toNat)).getD 128)))
def execMgetx (rd ma half : Reg) (s : State) : Out :=
  scalar (insnBits (.mgetx rd ma half)) false [] s (fun h =>
    retireX s rd ((h.getM ma.toNat).extractLsb' (64 * half.toNat) 64))
def execMsetx (rd rs1 half : Reg) (s : State) : Out :=
  scalar (insnBits (.msetx rd rs1 half)) false [rs1] s (fun h =>
    let old := h.getM rd.toNat
    writeMask s h rd (if half.toNat = 0 then old.extractLsb' 64 64 ++ h.getX rs1 else h.getX rs1 ++ old.extractLsb' 0 64))
/-- A branch on one mask as it stands (R151). -/
def maskBranch (bits : DWord) (ma : Reg) (off : BitVec 12) (s : State) (c : Mask → Bool) : Out :=
  scalar bits false [] s (fun h =>
    let t := c (h.getM ma.toNat)
    let dest := h.pc + (off ++ (0 : BitVec 1)).signExtend 64
    if t && dest.toNat % 4 != 0 then jumpTo s h dest
    else
      let s := traceEvent s s.cur (.br t)
      if t then jumpTo s h dest else retireCur s h)
def execBmany (ma : Reg) (off : BitVec 12) (s : State) : Out :=
  maskBranch (insnBits (.bmany ma off)) ma off s (fun m => m != 0)
def execBmnone (ma : Reg) (off : BitVec 12) (s : State) : Out :=
  maskBranch (insnBits (.bmnone ma off)) ma off s (fun m => m == 0)
def execBmall (ma : Reg) (off : BitVec 12) (s : State) : Out :=
  maskBranch (insnBits (.bmall ma off)) ma off s (fun m => m == BitVec.allOnes 128)
end Masks

end Sys2Proof.Machine
end

