-- ==== Sys2Proof/Machine/LaneInt.lean ====
section
/-! DEFINITION. Integer lane instructions (08 R196–R198). Each computes words from operand words; the frame writes them in active
lanes. -/
namespace Sys2Proof.Machine

section Plans
/-- Checks of FN and TY (08 R193): an unlisted FN fails check 9, and check 3 then takes the types of any FN. -/
def withTypes (x : LaneOp) (fns : List Nat) (tys : Nat → List Nat) (p : Plan) : Plan :=
  { p with
    tyOk := if fns.contains (opFn x) then (tys (opFn x)).contains (opTy x) else fns.any (fun f => (tys f).contains (opTy x)),
    bad := p.bad || !fns.contains (opFn x) }
/-- Any kind of source. -/
def anySrc : Src := {}
/-- A source that is a vector register, or a vector or x register. -/
def vecSrc : Src := { kinds := [0] }
def vecSpan (n : Nat) : Src := { kinds := [0], span := n }
def vxSrc : Src := { kinds := [0, 1] }
/-- TY codes of whole words, and those and the packed integers. -/
def words01 : List Nat := [0, 1]
def intTypes : List Nat := [0, 1, 7, 8, 9, 10]
/-- Bit 3 of the modifiers: saturate. -/
def satBit : Nat := 8
end Plans

section Compute
/-- Elements of words combined one by one (R192). -/
def elWise (ty : Nat) (ws : List Word) (f : List Nat → Nat) : Word :=
  let w := tyWidth ty
  packWord w ((List.range (tyEls ty)).map (fun i => f (ws.map (fun v => elBits w v i))))
/-- The same on integers of TY's signedness, wrapped or clamped (R71). -/
def elInts (x : LaneOp) (ws : List Word) (f : List Int → Int) : Word :=
  let ty := opTy x; let w := tyWidth ty
  elWise ty ws (fun es =>
    let r := f (es.map (asInt (tySigned ty) w))
    if opSat x then clampTo (tySigned ty) w r else wrapTo w r)
/-- A 64-bit result as the two words of a pair. -/
def pairOf (n : Nat) : List Word := [wd n, wd (n / 2 ^ 32)]
def int32 (x : LaneOp) (w : Word) : Int := asInt (tySigned (opTy x)) 32 w.toNat
/-- A result of words without flags. -/
def plainly (l : List Word) : List Word × Flags := (l, 0)
/-- Two-source instructions of one word a lane. -/
def binLane (x : LaneOp) (p : Plan) (lat : Nat) (s : State) (f : Word → Word → Word) : Out :=
  laneCompute x p lat s (fun h l => plainly [f (opndA s h x l) (opndB s h x l)])
def unLane (x : LaneOp) (p : Plan) (lat : Nat) (s : State) (f : Word → Word) : Out :=
  laneCompute x p lat s (fun h l => plainly [f (opndA s h x l)])
def first2 (f : Int → Int → Int) (l : List Int) : Int := f (l.getD 0 0) (l.getD 1 0)
end Compute

section AddSub
/-- IADD and ISUB, element-wise or wide (R196, R197). -/
def addPlan (x : LaneOp) : Plan :=
  let wide := opFn x == 1
  let src : Src := { anySrc with pair := wide }
  withTypes x [0, 1] (fun f => if f = 1 then words01 else intTypes)
    { a := some src, b := some src, assigned := if opFn x = 0 then satBit else 0, vspan := if wide then 2 else 1, vpair := wide }
def addLane (x : LaneOp) (s : State) (sub : Bool) : Out :=
  laneCompute x (addPlan x) 4 s (fun h l =>
    if opFn x = 1 then
      let a := opnd64A s h x l; let b := opnd64B s h x l
      plainly (pairOf (if sub then a - b else a + b).toNat)
    else plainly [elInts x [opndA s h x l, opndB s h x l] (first2 (fun a b => if sub then a - b else a + b))])
def execIadd (f : LaneL) (s : State) : Out := addLane (lOp 0x00 f) s false
def execIaddJ (f : LaneJ) (s : State) : Out := addLane (jOp 0x80 f) s false
def execIsub (f : LaneL) (s : State) : Out := addLane (lOp 0x01 f) s true
def execIsubJ (f : LaneJ) (s : State) : Out := addLane (jOp 0x81 f) s true
end AddSub

section Multiply
/-- IMUL: low product of each element, or the exact 64-bit product into a pair. -/
def mulPlan (x : LaneOp) : Plan :=
  let wide := opFn x == 1
  withTypes x [0, 1] (fun f => if f = 1 then words01 else intTypes)
    { a := some anySrc, b := some anySrc, assigned := if opFn x = 0 then satBit else 0, vspan := if wide then 2 else 1, vpair := wide }
def mulLane (x : LaneOp) (s : State) : Out :=
  laneCompute x (mulPlan x) 6 s (fun h l =>
    let a := opndA s h x l; let b := opndB s h x l
    if opFn x = 1 then plainly (pairOf (wrapTo 64 (int32 x a * int32 x b)))
    else plainly [elInts x [a, b] (first2 (fun a b => a * b))])
def execImul (f : LaneL) (s : State) : Out := mulLane (lOp 0x02 f) s
def execImulJ (f : LaneJ) (s : State) : Out := mulLane (jOp 0x82 f) s
/-- IMULH: the high word of the exact product; FN 1 takes b unsigned. -/
def mulhPlan (x : LaneOp) : Plan :=
  withTypes x [0, 1] (fun f => if f = 1 then [0] else words01) { a := some anySrc, b := some anySrc }
def mulhLane (x : LaneOp) (s : State) : Out :=
  binLane x (mulhPlan x) 6 s (fun a b =>
    let y : Int := if opFn x = 1 then (b.toNat : Int) else int32 x b
    wd (wrapTo 64 (int32 x a * y) / 2 ^ 32))
def execImulh (f : LaneL) (s : State) : Out := mulhLane (lOp 0x03 f) s
def execImulhJ (f : LaneJ) (s : State) : Out := mulhLane (jOp 0x83 f) s
/-- IMAD: a × b + c on whole words; FN 1 adds a 64-bit c into a pair. -/
def madPlan (x : LaneOp) : Plan :=
  let wide := opFn x == 1
  withTypes x [0, 1] (fun _ => words01)
    { a := some anySrc, b := some anySrc, c := some { anySrc with pair := wide }, assigned := if opFn x = 0 then satBit else 0,
      vspan := if wide then 2 else 1, vpair := wide }
def madLane (x : LaneOp) (s : State) : Out :=
  laneCompute x (madPlan x) 6 s (fun h l =>
    let a := opndA s h x l; let b := opndB s h x l
    if opFn x = 1 then plainly (pairOf (wrapTo 64 (int32 x a * int32 x b + ((opnd64C s h x l).toNat : Int))))
    else plainly [elInts x [a, b, opndC s h x l] (fun e => e.getD 0 0 * e.getD 1 0 + e.getD 2 0)])
def execImad (f : LaneL) (s : State) : Out := madLane (lOp 0x04 f) s
end Multiply

section MinMax
def minPlan (x : LaneOp) : Plan := withTypes x [0] (fun _ => intTypes) { a := some anySrc, b := some anySrc }
def minLane (x : LaneOp) (s : State) : Out :=
  binLane x (minPlan x) 4 s (fun a b => elInts x [a, b] (first2 (fun a b => min a b)))
def maxLane (x : LaneOp) (s : State) : Out :=
  binLane x (minPlan x) 4 s (fun a b => elInts x [a, b] (first2 (fun a b => max a b)))
def execImin (f : LaneL) (s : State) : Out := minLane (lOp 0x05 f) s
def execIminJ (f : LaneJ) (s : State) : Out := minLane (jOp 0x85 f) s
def execImax (f : LaneL) (s : State) : Out := maxLane (lOp 0x06 f) s
def execImaxJ (f : LaneJ) (s : State) : Out := maxLane (jOp 0x86 f) s
/-- IABS: wraps at the most negative value, or saturates. -/
def absPlan (x : LaneOp) : Plan := withTypes x [0] (fun _ => [0, 7, 9]) { a := some anySrc, assigned := satBit }
def execIabs (f : LaneL) (s : State) : Out :=
  let x := lOp 0x07 f
  unLane x (absPlan x) 4 s (fun a => elInts x [a] (fun e => ((e.getD 0 0).natAbs : Int)))
end MinMax

section Shifts
def shiftPlan (x : LaneOp) : Plan := withTypes x [0] (fun _ => intTypes) { a := some anySrc, b := some anySrc }
/-- Shifts per element by the amount modulo the element width (R198), whatever the signedness of TY. -/
def shiftLane (x : LaneOp) (s : State) (f : Nat → Nat → Nat → Nat) : Out :=
  let w := tyWidth (opTy x)
  binLane x (shiftPlan x) 4 s (fun a b => elWise (opTy x) [a, b] (fun e => f w (e.getD 0 0) (e.getD 1 0 % w)))
def elShl (_w a n : Nat) : Nat := a * 2 ^ n
def elShr (_w a n : Nat) : Nat := a / 2 ^ n
def elSar (w a n : Nat) : Nat := wrapTo w (asInt true w a / 2 ^ n)
def execShl (f : LaneL) (s : State) : Out := shiftLane (lOp 0x08 f) s elShl
def execShlJ (f : LaneJ) (s : State) : Out := shiftLane (jOp 0x88 f) s elShl
def execShr (f : LaneL) (s : State) : Out := shiftLane (lOp 0x09 f) s elShr
def execShrJ (f : LaneJ) (s : State) : Out := shiftLane (jOp 0x89 f) s elShr
def execSar (f : LaneL) (s : State) : Out := shiftLane (lOp 0x0A f) s elSar
def execSarJ (f : LaneJ) (s : State) : Out := shiftLane (jOp 0x8A f) s elSar
end Shifts

section Logic
def logicPlan (x : LaneOp) : Plan := withTypes x [0] (fun _ => words01) { a := some anySrc, b := some anySrc }
def andLane (x : LaneOp) (s : State) : Out := binLane x (logicPlan x) 4 s (fun a b => a &&& b)
def orLane (x : LaneOp) (s : State) : Out := binLane x (logicPlan x) 4 s (fun a b => a ||| b)
def xorLane (x : LaneOp) (s : State) : Out := binLane x (logicPlan x) 4 s (fun a b => a ^^^ b)
def execLaneAnd (f : LaneL) (s : State) : Out := andLane (lOp 0x0B f) s
def execLaneAndJ (f : LaneJ) (s : State) : Out := andLane (jOp 0x8B f) s
def execLaneOr (f : LaneL) (s : State) : Out := orLane (lOp 0x0C f) s
def execLaneOrJ (f : LaneJ) (s : State) : Out := orLane (jOp 0x8C f) s
def execLaneXor (f : LaneL) (s : State) : Out := xorLane (lOp 0x0D f) s
def execLaneXorJ (f : LaneJ) (s : State) : Out := xorLane (jOp 0x8D f) s
/-- A three-input function by truth table (R198). -/
def lop3Word (t : Nat) (a b c : Word) : Word :=
  (List.range 32).foldl (fun r n =>
    let i := (if a.getLsbD n then 1 else 0) + (if b.getLsbD n then 2 else 0) + (if c.getLsbD n then 4 else 0)
    if t.testBit i then r ||| (1 <<< n) else r) 0
def lop3Plan (x : LaneOp) : Plan :=
  withTypes x [0] (fun _ => words01) { a := some anySrc, b := some anySrc, c := some anySrc, assigned := 0xFF00 }
def execLop3 (f : LaneL) (s : State) : Out :=
  let x := lOp 0x0E f
  laneCompute x (lop3Plan x) 4 s (fun h l =>
    plainly [lop3Word (modF x 8 8) (opndA s h x l) (opndB s h x l) (opndC s h x l)])
def onePlan (x : LaneOp) : Plan := withTypes x [0] (fun _ => words01) { a := some anySrc }
def popWord (a : Word) : Nat := ((List.range 32).filter (fun i => a.getLsbD i)).length
def clzWord (a : Word) : Nat := 32 - bitLenOf a.toNat
where
  bitLenOf (n : Nat) : Nat := if n = 0 then 0 else Nat.log2 n + 1
def execPopc (f : LaneL) (s : State) : Out :=
  let x := lOp 0x0F f
  unLane x (onePlan x) 4 s (fun a => wd (popWord a))
def execClz (f : LaneL) (s : State) : Out :=
  let x := lOp 0x10 f
  unLane x (onePlan x) 4 s (fun a => wd (clzWord a))
end Logic

section Fields
/-- Position and width of a bit field (R198). -/
def fieldAt (b c : Word) : Nat × Nat :=
  let pos := field b.toNat 0 5
  (pos, min (field c.toNat 0 6) (32 - pos))
def bfeWord (sg : Bool) (a b c : Word) : Word :=
  let (pos, n) := fieldAt b c
  if n = 0 then 0 else wd (wrapTo 32 (asInt sg n (field a.toNat pos n)))
def bfiWord (old a b c : Word) : Word :=
  let (pos, n) := fieldAt b c
  let m := (2 ^ n - 1) * 2 ^ pos
  (old &&& ~~~(wd m)) ||| wd (field a.toNat 0 n * 2 ^ pos)
def bfePlan (x : LaneOp) : Plan :=
  withTypes x [0] (fun _ => words01) { a := some anySrc, b := some anySrc, c := some anySrc }
def execBfe (f : LaneL) (s : State) : Out :=
  let x := lOp 0x11 f
  laneCompute x (bfePlan x) 4 s (fun h l =>
    plainly [bfeWord (opTy x == 0) (opndA s h x l) (opndB s h x l) (opndC s h x l)])
/-- BFI reads its destination as a source. -/
def execBfi (f : LaneL) (s : State) : Out :=
  let x := lOp 0x12 f
  laneCompute x { bfePlan x with vread := true } 4 s (fun h l =>
    plainly [bfiWord (h.getV (opVd x) l) (opndA s h x l) (opndB s h x l) (opndC s h x l)])
end Fields

end Sys2Proof.Machine
end

