-- ==== Sys2Proof/Machine/LaneFloat.lean ====
section
/-! DEFINITION. Floating-point and conversion lane instructions (08 R199–R204; 03 R65–R78). -/
namespace Sys2Proof.Machine

section Arithmetic
def floatTypes : List Nat := [2, 3, 4, 5, 6]
/-- Rounding and saturate bits. -/
def roundBits : Nat := 7
def floatPlan (x : LaneOp) : Plan :=
  withTypes x [0] (fun _ => floatTypes) { a := some anySrc, b := some anySrc, assigned := roundBits + satBit }
/-- Elements of words combined into elements with flags. -/
def elFloat (ty : Nat) (ws : List Word) (f : List Nat → Nat × Flags) : List Word × Flags :=
  let w := tyWidth ty
  let rs := (List.range (tyEls ty)).map (fun i => f (ws.map (fun v => elBits w v i)))
  ([packWord w (rs.map Prod.fst)], rs.foldl (fun a r => a ||| r.2) 0)
/-- A two-source operation of R200, rounded once. -/
def floatLane (x : LaneOp) (s : State) (op : Fmt → Nat → Bool → Nat → Nat → Nat × Flags) : Out :=
  laneCompute x (floatPlan x) 6 s (fun h l =>
    elFloat (opTy x) [opndA s h x l, opndB s h x l] (fun e =>
      op (tyFmt (opTy x)) (opRound h x) (opSat x) (e.getD 0 0) (e.getD 1 0)))
def execFadd (f : LaneL) (s : State) : Out := floatLane (lOp 0x20 f) s fAdd
def execFaddJ (f : LaneJ) (s : State) : Out := floatLane (jOp 0xA0 f) s fAdd
def execFsub (f : LaneL) (s : State) : Out := floatLane (lOp 0x21 f) s fSub
def execFsubJ (f : LaneJ) (s : State) : Out := floatLane (jOp 0xA1 f) s fSub
def execFmul (f : LaneL) (s : State) : Out := floatLane (lOp 0x22 f) s fMul
def execFmulJ (f : LaneJ) (s : State) : Out := floatLane (jOp 0xA2 f) s fMul
def execFfma (f : LaneL) (s : State) : Out :=
  let x := lOp 0x23 f
  laneCompute x { floatPlan x with c := some anySrc } 6 s (fun h l =>
    elFloat (opTy x) [opndA s h x l, opndB s h x l, opndC s h x l] (fun e =>
      fFma (tyFmt (opTy x)) (opRound h x) (opSat x) (e.getD 0 0) (e.getD 1 0) (e.getD 2 0)))
/-- Whether a orders below b: −0 below +0 (R200). -/
def fvBelow (a b : Fv) : Bool :=
  match a, b with
  | .fin na 0 _, .fin nb 0 _ => na && !nb
  | a, b => fvCmp a b < 0
/-- minimumNumber and maximumNumber (R200). -/
def fMinMax (f : Fmt) (mx : Bool) (a b : Nat) : Nat × Flags :=
  let va := fDecode f a; let vb := fDecode f b
  let r := if va == .nan then (if vb == .nan then f.canonNan else b)
    else if vb == .nan then a
    else if fvBelow va vb then (if mx then b else a) else (if mx then a else b)
  (r, nvOf f [a, b])
def minMaxLane (x : LaneOp) (s : State) (mx : Bool) : Out :=
  laneCompute x { floatPlan x with assigned := 0 } 6 s (fun h l =>
    elFloat (opTy x) [opndA s h x l, opndB s h x l] (fun e => fMinMax (tyFmt (opTy x)) mx (e.getD 0 0) (e.getD 1 0)))
def execFmin (f : LaneL) (s : State) : Out := minMaxLane (lOp 0x24 f) s false
def execFminJ (f : LaneJ) (s : State) : Out := minMaxLane (jOp 0xA4 f) s false
def execFmax (f : LaneL) (s : State) : Out := minMaxLane (lOp 0x25 f) s true
def execFmaxJ (f : LaneJ) (s : State) : Out := minMaxLane (jOp 0xA5 f) s true
end Arithmetic

section Special
/-- A one-source f32 function of the special-function unit (R201). -/
def sfuPlan (x : LaneOp) : Plan :=
  withTypes x [0] (fun _ => [2]) { a := some anySrc, assigned := roundBits + satBit }
def sfuLane (x : LaneOp) (s : State) (f : Fv → Fv × Flags) : Out :=
  laneCompute x (sfuPlan x) 20 s (fun h l =>
    let a := (opndA s h x l).toNat
    let (v, fl) := f (fDecode fmtF32 a)
    let (r, fl') := fEncode fmtF32 (opRound h x) (opSat x) v
    plainlyWith [wd r] (fl ||| fl' ||| nvOf fmtF32 [a]))
where
  plainlyWith (l : List Word) (fl : Flags) : List Word × Flags := (l, fl)
def rcpFv : Fv → Fv × Flags
  | .nan => (.nan, 0)
  | .inf n => (.fin n 0 0, 0)
  | .fin n m e =>
    if m = 0 then (.inf n, flDZ)
    else
      let r := recipDyadic m e
      (.fin n r.1 r.2, 0)
def rsqFv : Fv → Fv × Flags
  | .nan => (.nan, 0)
  | .inf n => if n then (.nan, flNV) else (.fin false 0 0, 0)
  | .fin n m e =>
    if m = 0 then (.inf n, flDZ)
    else if n then (.nan, flNV)
    else
      let r := rsqrtDyadic m e
      (.fin false r.1 r.2, 0)
def ex2Fv : Fv → Fv × Flags
  | .nan => (.nan, 0)
  | .inf n => if n then (.fin false 0 0, 0) else (.inf false, 0)
  | .fin n m e =>
    if m = 0 then (.fin false 1 0, 0)
    else
      let r := exp2Dyadic n m e
      (.fin false r.1 r.2, 0)
def lg2Fv : Fv → Fv × Flags
  | .nan => (.nan, 0)
  | .inf n => if n then (.nan, flNV) else (.inf false, 0)
  | .fin n m e => if m = 0 then (.inf true, flDZ) else if n then (.nan, flNV) else (log2Fv m e, 0)
def execFrcp (f : LaneL) (s : State) : Out := sfuLane (lOp 0x26 f) s rcpFv
def execFrsq (f : LaneL) (s : State) : Out := sfuLane (lOp 0x27 f) s rsqFv
def execFex2 (f : LaneL) (s : State) : Out := sfuLane (lOp 0x28 f) s ex2Fv
def execFlg2 (f : LaneL) (s : State) : Out := sfuLane (lOp 0x29 f) s lg2Fv
end Special

section Conversions
/-- One element converted between types (R72). -/
def cvtEl (src dst mode : Nat) (sat : Bool) (b : Nat) : Nat × Flags :=
  match tyFloat src, tyFloat dst with
  | true, true => cvtFF (tyFmt src) (tyFmt dst) mode sat b
  | true, false => cvtFI (tyFmt src) (tySigned dst) (tyWidth dst) mode b
  | false, true => fEncode (tyFmt dst) mode sat (fvOfInt (asInt (tySigned src) (tyWidth src) b))
  | false, false =>
    let v := asInt (tySigned src) (tyWidth src) b
    (if sat then clampTo (tySigned dst) (tyWidth dst) v else wrapTo (tyWidth dst) v, 0)
/-- CVT (R202). -/
def cvtPlan (x : LaneOp) : Plan :=
  let src := modF x 4 4
  let ks := tyEls src; let kd := tyEls (opTy x); let n := max ks kd
  withTypes x [0] (fun _ => List.range 11)
    { a := some (vecSpan (n / ks)), vspan := n / kd, assigned := 0xFF, bad := decide (11 ≤ src) || src == opTy x }
def execCvt (f : LaneL) (s : State) : Out :=
  let x := lOp 0x30 f
  laneCompute x (cvtPlan x) 6 s (fun h l =>
    let src := modF x 4 4; let dst := opTy x
    let ks := tyEls src; let kd := tyEls dst; let n := max ks kd
    let rs := (List.range n).map (fun i =>
      cvtEl src dst (opRound h x) (opSat x) (elBits (tyWidth src) (h.getV (opSa x + i / ks) l) (i % ks)))
    ((chunksOf kd (n / kd) (rs.map Prod.fst)).map (packWord (tyWidth dst)), rs.foldl (fun a r => a ||| r.2) 0))

/-- The E2M1 code nearest a ratio num / den, ties to even M (R77). -/
def e2m1Near (num den : Nat) : Nat :=
  let mids := [1, 3, 5, 7, 10, 14, 20]
  ((List.range 7).filter (fun c =>
    let m := mids.getD c 0 * den
    decide (m < 4 * num) || (decide (m = 4 * num) && c % 2 == 1))).length
/-- The magnitude of a finite f32 value in units of 2^−149, and of a bf16 value in units of 2^−133. -/
def unitsOf (v : Fv) (q : Int) : Nat :=
  match v with
  | .fin _ m e => m * 2 ^ (e - q).toNat
  | _ => 0
def fvIsNeg : Fv → Bool
  | .nan => false
  | .inf n => n
  | .fin n _ _ => n
def fvFinite : Fv → Bool
  | .fin .. => true
  | _ => false
/-- A block scale in units of 2^−7 (R74). -/
def scaleUnits (b : Nat) : Nat := let (m, e) := e3m5 b; m * 2 ^ (e + 7).toNat
/-- QNT of eight f32 values under a bf16 band scale (R77): code word, scale byte and flags. -/
def quantise (xs : List Nat) (band : Nat) : Word × Nat × Flags :=
  let vs := xs.map (fDecode fmtF32)
  let bv := fDecode fmtBF16 band
  let b := unitsOf bv (-133)
  if !fvFinite bv || fvIsNeg bv || b = 0 || vs.any (fun v => !fvFinite v) then (0, 0xFF, flNV)
  else
    let us := vs.map (fun v => unitsOf v (-149))
    let mx := us.foldl max 0
    if mx = 0 then (packWord 4 (vs.map (fun v => if fvIsNeg v then 8 else 0)), 0, 0)
    else
      let tooBig := decide (6 * 3968 * b * 512 < mx)
      let sc := if tooBig then 0xFE
        else ((List.range 254).find? (fun i => decide (mx ≤ 6 * scaleUnits (i + 1) * b * 512))).getD 0xFD + 1
      let d := scaleUnits sc * b * 512
      let cs := us.map (fun u => e2m1Near u d)
      let inexact := (cs.zip us).any (fun (c, u) => e2m1Twice c * d != 2 * u)
      (packWord 4 ((cs.zip vs).map (fun (c, v) => if fvIsNeg v then c + 8 else c)), sc,
        (if tooBig then flOF else 0) ||| (if inexact then flNX else 0))
def qntPlan (x : LaneOp) : Plan :=
  withTypes x [0] (fun _ => [11]) { a := some (vecSpan 8), b := some vxSrc, vspan := 2, assigned := roundBits }
def execQnt (f : LaneL) (s : State) : Out :=
  let x := lOp 0x31 f
  laneCompute x (qntPlan x) 6 s (fun h l =>
    let (w, sc, fl) := quantise ((List.range 8).map (fun i => (h.getV (opSa x + i) l).toNat)) (field (opndB s h x l).toNat 0 16)
    ([w, wd sc], fl))
/-- The exact value of an fp4 code under its scales (R75). -/
def fp4Fv (code scale band : Nat) : Fv :=
  match fDecode fmtBF16 band with
  | .fin n m e =>
    if scale = 0xFF then .nan
    else
      let (sm, se) := e3m5 scale
      .fin (e2m1Neg code != n) (e2m1Twice code * sm * m) (e + se - 1)
  | _ => .nan
def dqtPlan (x : LaneOp) : Plan :=
  withTypes x [0] (fun _ => [2]) { a := some vxSrc, b := some vxSrc, c := some vxSrc, vspan := 8, assigned := roundBits }
def execDqt (f : LaneL) (s : State) : Out :=
  let x := lOp 0x32 f
  laneCompute x (dqtPlan x) 6 s (fun h l =>
    let codes := opndA s h x l
    let sc := field (opndB s h x l).toNat 0 8; let band := field (opndC s h x l).toNat 0 16
    let rs := (List.range 8).map (fun i => fEncode fmtF32 (opRound h x) false (fp4Fv (elBits 4 codes i) sc band))
    (rs.map (fun r => wd r.1), rs.foldl (fun a r => a ||| r.2) 0))
end Conversions

end Sys2Proof.Machine
end

