-- ==== Sys2Proof/Machine/LaneMove.lean ====
section
/-! DEFINITION. Comparison, selection, movement, reduction and dispatch in lanes (08 R205–R213). -/
namespace Sys2Proof.Machine

section Compare
/-- A result that is one mask: its bits in active lanes (R205). -/
def maskResult (lat md : Nat) (m : Mask) (f : Nat → Bool × Flags) : Pending :=
  let rs := (lanesOf m).map (fun l => (l, f l))
  { latency := lat, wr := [1024 + md],
    mask := some (md, m, rs.foldl (fun b r => if r.2.1 then b ||| (1 <<< r.1) else b) 0),
    flags := flAll (rs.map (fun r => r.2.2)) }
def compareLane (x : LaneOp) (p : Plan) (lat : Nat) (s : State) (f : Nat → Nat → Bool × Flags) : Out :=
  laneRun x p s (fun s h m => laneIssued s x (some (maskResult lat (opVd x % 16) m
    (fun l => f (opndA s h x l).toNat (opndB s h x l).toNat))))
/-- VD names mask m0–m14 and its other bits are 0. -/
def maskDestBad (x : LaneOp) : Bool := decide (15 ≤ opVd x)
def icmpPlan (x : LaneOp) : Plan :=
  withTypes x (List.range 6) (fun _ => words01)
    { a := some anySrc, b := some anySrc, vspan := 0, vwrite := false, maskWr := [opVd x % 16], bad := maskDestBad x }
/-- Conditions 0–5 of R205 from an ordering and equality. -/
def condOf (fn : Nat) (lt eq : Bool) : Bool :=
  match fn with
  | 0 => eq
  | 1 => !eq
  | 2 => lt
  | 3 => lt || eq
  | 4 => !(lt || eq)
  | _ => !lt
def icmpLane (x : LaneOp) (s : State) : Out :=
  compareLane x (icmpPlan x) 4 s (fun a b =>
    let i := asInt (opTy x == 0) 32 a; let j := asInt (opTy x == 0) 32 b
    (condOf (opFn x) (decide (i < j)) (i == j), 0))
def execIcmp (f : LaneL) (s : State) : Out := icmpLane (lOp 0x38 f) s
def execIcmpJ (f : LaneJ) (s : State) : Out := icmpLane (jOp 0xB8 f) s
def fcmpPlan (x : LaneOp) : Plan :=
  withTypes x (List.range 8) (fun _ => [2])
    { a := some anySrc, b := some anySrc, vspan := 0, vwrite := false, maskWr := [opVd x % 16], bad := maskDestBad x }
/-- FCMP of two f32 patterns (R205). -/
def fcmpBits (fn a b : Nat) : Bool × Flags :=
  let va := fDecode fmtF32 a; let vb := fDecode fmtF32 b
  let un := va == .nan || vb == .nan
  let nv := if decide (2 ≤ fn ∧ fn ≤ 5) && un then flNV else nvOf fmtF32 [a, b]
  let c := fvCmp va vb
  let r := match fn with
    | 6 => un
    | 7 => !un
    | 1 => un || c != 0
    | fn => !un && condOf fn (decide (c < 0)) (c == 0)
  (r, nv)
def fcmpLane (x : LaneOp) (s : State) : Out := compareLane x (fcmpPlan x) 6 s (fcmpBits (opFn x))
def execFcmp (f : LaneL) (s : State) : Out := fcmpLane (lOp 0x39 f) s
def execFcmpJ (f : LaneJ) (s : State) : Out := fcmpLane (jOp 0xB9 f) s
/-- SEL by the mask in MOD20 11:8 (R206). -/
def selPlan (x : LaneOp) : Plan :=
  withTypes x [0] (fun _ => words01)
    { a := some anySrc, b := some anySrc, assigned := 0xF00, maskRd := [modF x 8 4], bad := modF x 8 4 == 15 }
def execSel (f : LaneL) (s : State) : Out :=
  let x := lOp 0x3A f
  laneCompute x (selPlan x) 4 s (fun h l =>
    plainly [if (h.getM (modF x 8 4)).getLsbD l then opndA s h x l else opndB s h x l])
end Compare

section Move
/-- MOV; its J form takes the immediate (R207). -/
def movPlan (x : LaneOp) : Plan :=
  let wide := opFn x == 1
  withTypes x [0, 1] (fun _ => words01)
    { a := some { kinds := if x.j then [2] else [0, 1, 2, 3], pair := wide }, vspan := if wide then 2 else 1, vpair := wide }
def movLane (x : LaneOp) (s : State) : Out :=
  laneCompute x (movPlan x) 4 s (fun h l =>
    if opFn x = 1 then plainly (pairOf (opnd64A s h x l).toNat) else plainly [opndA s h x l])
def execMov (f : LaneL) (s : State) : Out := movLane (lOp 0x40 f) s
def execMovi (f : LaneJ) (s : State) : Out := movLane (jOp 0xC0 f) s
/-- Segment size (R195). -/
def segSize (h : Hart) (x : LaneOp) : Nat :=
  if x.mods.testBit 11 then (if h.limbs = 0 then 128 else h.limbs) else 128 / 2 ^ modF x 8 3
def segBad (x : LaneOp) : Bool := x.mods.testBit 11 && modF x 8 3 != 0
def shflPlan (x : LaneOp) : Plan :=
  withTypes x [0, 1, 2, 3] (fun _ => words01)
    { a := some vecSrc, b := some { kinds := [0, 1, 3] }, assigned := 0x1F00,
      bad := segBad x || (x.mods.testBit 12 && opFn x != 1 && opFn x != 2) }
/-- The lane a shuffle reads, if any (R208). -/
def shflFrom (fn s l d : Nat) : Option Nat :=
  let p := l % s; let base := l - p
  match fn with
  | 0 => some (base + d % s)
  | 1 => if d ≤ p then some (l - d) else none
  | 2 => if p + d < s then some (l + d) else none
  | _ => some (base + Nat.xor p (d % s))
def execShfl (f : LaneL) (s : State) : Out :=
  let x := lOp 0x41 f
  laneCompute x (shflPlan x) 8 s (fun h l =>
    plainly [match shflFrom (opFn x) (segSize h x) l (field (opndB s h x l).toNat 0 8) with
      | some j => h.getV (opSa x) j
      | none => if x.mods.testBit 12 then 0 else h.getV (opSa x) l])
def bcstPlan (x : LaneOp) : Plan :=
  withTypes x [0] (fun _ => words01) { a := some vecSrc, b := some { kinds := [1] }, assigned := 0xF00, bad := segBad x }
def execBcst (f : LaneL) (s : State) : Out :=
  let x := lOp 0x42 f
  laneCompute x (bcstPlan x) 8 s (fun h l =>
    let n := segSize h x
    plainly [h.getV (opSa x) (l / n * n + field (opndB s h x l).toNat 0 8 % n)])
end Move

section Reduce
/-- FN and TY pairs of LRED and LSCAN: every integer operation, and add, min and max on f32 (R210). DEDUCED
(notes/assumptions/72): TY 2 with FN 3 to 5 fails check 9, as R210 words it, where R193 and 05 R136 would have it fail check 3. -/
def redPlan (x : LaneOp) : Plan :=
  { withTypes x (List.range 6) (fun _ => [0, 1, 2]) { a := some vecSrc } with
    bad := decide (5 < opFn x) || (opTy x == 2 && decide (2 < opFn x)) }
/-- The exact f32 sum of values, rounded once (R210). -/
def sumF32 (mode : Nat) (es : List Nat) : Nat × Flags :=
  let vs := es.map (fDecode fmtF32)
  let nv := nvOf fmtF32 es
  let pos := vs.any (fun v => v == .inf false); let neg := vs.any (fun v => v == .inf true)
  if vs.any (fun v => v == .nan) then (fmtF32.canonNan, nv ||| (if pos && neg then flNV else 0))
  else if pos && neg then (fmtF32.canonNan, flNV)
  else if pos || neg then (fmtF32.infBits neg, 0)
  else
    let t : Int := vs.foldl (fun a v => if fvIsNeg v then a - (unitsOf v (-149) : Int) else a + (unitsOf v (-149) : Int)) 0
    if t = 0 then
      let n := if !vs.isEmpty && vs.all fvIsNeg then true else if vs.all (fun v => !fvIsNeg v) then false else mode == 2
      (fmtF32.signBit n, 0)
    else fRound fmtF32 mode false (decide (t < 0)) t.natAbs (-149)
/-- minimumNumber or maximumNumber over values; the identity of none. -/
def mmF32 (mx : Bool) : List Nat → Nat × Flags
  | [] => (fmtF32.infBits mx, 0)
  | [a] => if fDecode fmtF32 a == .nan then (fmtF32.canonNan, nvOf fmtF32 [a]) else (a, 0)
  | a :: r => r.foldl (fun acc b =>
      let q := fMinMax fmtF32 mx acc.1 b
      (q.1, acc.2 ||| q.2)) (a, nvOf fmtF32 [a])
/-- An integer reduction, exact for add (R210). -/
def redInt (fn : Nat) (sg : Bool) (es : List Nat) : Int :=
  let is := es.map (asInt sg 32)
  match fn with
  | 0 => is.foldl (fun a b => a + b) 0
  | 1 => is.foldl (fun a b => min a b) (if sg then 2 ^ 31 - 1 else 2 ^ 32 - 1)
  | 2 => is.foldl (fun a b => max a b) (if sg then -(2 ^ 31) else 0)
  | 3 => asInt sg 32 (es.foldl Nat.land (2 ^ 32 - 1))
  | 4 => asInt sg 32 (es.foldl Nat.lor 0)
  | _ => asInt sg 32 (es.foldl Nat.xor 0)
def redF32 (fn mode : Nat) (es : List Nat) : Nat × Flags :=
  match fn with
  | 0 => sumF32 mode es
  | 1 => mmF32 false es
  | _ => mmF32 true es
/-- The f32 add alone rounds. -/
def redRound (x : LaneOp) : Nat := if opFn x = 0 ∧ opTy x = 2 then roundBits else 0
def lredPlan (x : LaneOp) : Plan :=
  let p := redPlan x
  { p with vspan := 0, vwrite := false, assigned := redRound x, bad := p.bad || decide (32 ≤ opVd x) }
def execLred (f : LaneL) (s : State) : Out :=
  let x := lOp 0x43 f
  laneRun x (lredPlan x) s (fun s h m =>
    let es := (lanesOf m).map (fun l => (h.getV (opSa x) l).toNat)
    let rd : Reg := BitVec.ofNat 5 (opVd x)
    let (v, fl) : DWord × Flags := if opTy x = 2 then
        let r := redF32 (opFn x) (opRound h x) es
        (dw r.1, r.2)
      else (dw (wrapTo 64 (redInt (opFn x) (opTy x == 0) es)), 0)
    laneIssued s x (some { board := true, x := some (rd, v), flags := fl }))
/-- LSCAN (R211). -/
def lscanPlan (x : LaneOp) : Plan :=
  let p := redPlan x
  { p with assigned := 0x2F00 + redRound x, bad := p.bad || segBad x }
/-- The active lanes a scan's lane reduces over. -/
def scanLanes (n l : Nat) (excl : Bool) (m : Mask) : List Nat :=
  (List.range 128).filter (fun j => m.getLsbD j && j / n == l / n && (if excl then decide (j < l) else decide (j ≤ l)))
def execLscan (f : LaneL) (s : State) : Out :=
  let x := lOp 0x44 f
  laneRun x (lscanPlan x) s (fun s h m =>
    laneIssued s x (some (vectorResult x (lscanPlan x) none m (fun l =>
      let es := (scanLanes (segSize h x) l (x.mods.testBit 13) m).map (fun j => (h.getV (opSa x) j).toNat)
      if opTy x = 2 then
        let r := redF32 (opFn x) (opRound h x) es
        ([wd r.1], r.2)
      else plainly [wd (wrapTo 32 (redInt (opFn x) (opTy x == 0) es))]))))
end Reduce

section Dispatch
/-- DISP (R212): VD holds the destination mask and x register. -/
def dispPlan (x : LaneOp) : Plan :=
  withTypes x [0] (fun _ => [1])
    { a := some vecSrc, vspan := 0, vwrite := false, maskWr := [opVd x % 16],
      bad := decide (512 ≤ opVd x) || opVd x % 16 == 15 }
/-- The trap of a lane memory access: its lane, the PART and CLASS of DETAIL, and the performed lanes (09 R219, R222). -/
def laneFault (t : Trap) (l : Nat) (detail : Option Nat) (stm : Option Mask) : Trap :=
  { t with lane := some l, detail := detail, stm := stm }
/-- DISP. A page or access fault of its table read names a lane; DESIGN CHOICE (notes/assumptions/73): SLANE.DETAIL and the mask of
performed lanes keep their earlier values then, which R212 and 09 R222 leave open. -/
def execDisp (f : LaneL) (s : State) : Out :=
  let x := lOp 0x45 f
  laneRun x (dispPlan x) s (fun s h m =>
    let rd : Reg := BitVec.ofNat 5 (opVd x / 16)
    let idx := fun l => (h.getV (opSa x) l).toNat
    match lowestOne m with
    | none => laneIssued s x (some { board := true, x := some (rd, 0) })
    | some l0 =>
      match (lanesOf m).find? (fun l => decide ((h.getC 0x806).toNat ≤ idx l)) with
      | some l => laneTrap s { cause := 29, tval := dw (idx l), lane := some l, detail := some 0 }
      | none =>
        let k := idx l0
        let va := h.getC 0x805 + dw (8 * k)
        if walkWaits s (dataCtx h) h.lkey .load va then laneHeld s (walkWait s (dataCtx h) h.lkey .load va) else
        match locate s (dataCtx h) h.lkey false .load .scalar va 8 with
        | .error t => laneTrap (notePoisonAt s (dataCtx h) h.lkey .load va 8) (laneFault t l0 none none)
        | .ok a =>
          match agentLoad (a.note s) s.cur a.loc a.mode 8 with
          | (s, none) => laneHeld s (.place a.loc 8 false)
          | (s, some e) =>
            let bits := (lanesOf m).foldl (fun (b : Mask) l => if idx l = k then b ||| (1 <<< l) else b) 0
            laneIssued s x (some { board := true, wr := [1024 + opVd x % 16], mask := some (opVd x % 16, m, bits),
                                   x := some (rd, e) }))
end Dispatch

section Nop
/-- NOP (R213): every field but OPC, ST and YL at its default. -/
def nopPlan (x : LaneOp) : Plan :=
  { tyOk := opTy x == 0, vspan := 0, vwrite := false,
    bad := opFn x != 0 || opVd x != 0 || opSa x != 0 || opSb x != 0 || x.sc != 0 || opKa x != 0 || opKb x != 0 || x.kc != 0 ||
      opMs x != 15 }
def execNop (f : LaneL) (s : State) : Out :=
  let x := lOp 0x78 f
  laneRun x (nopPlan x) s (fun s _ _ => laneIssued s x none)
end Nop

end Sys2Proof.Machine
end

