-- ==== Sys2Proof/Machine/LaneLimb.lean ====
section
/-! DEFINITION. The limb chain: long-integer operations over segments of lanes (09 R241–R244). -/
namespace Sys2Proof.Machine

section Frame
/-- The segments of a binding whose lanes are all active. -/
def wholeSegs (s : Nat) (m : Mask) : List Nat :=
  if s = 0 then []
  else (List.range (128 / s)).filter (fun j => (List.range s).all (fun i => m.getLsbD (j * s + i)))
/-- val(v, j) (R241). -/
def segVal (h : Hart) (v s j : Nat) : Nat := (List.range s).foldr (fun i n => (h.getV v (j * s + i)).toNat + 2 ^ 32 * n) 0
/-- The lanes of a segment receive a value modulo 2^(32 s). -/
def segPut (r s j n : Nat) : List (Nat × Nat × Word) := (List.range s).map (fun i => (r, j * s + i, wd (n / 2 ^ (32 * i))))
def segTop (s j : Nat) : Nat := j * s + s - 1
/-- A mask written by whole segments: the top lane's bit is the result, the others 0 (02 R49). -/
def segMask (s : Nat) (rs : List (Nat × Bool)) : Mask × Mask :=
  rs.foldl (fun (a : Mask × Mask) r =>
    ((List.range s).foldl (fun (m : Mask) i => m ||| ((1 : Mask) <<< (r.1 * s + i))) a.1,
     if r.2 then a.2 ||| ((1 : Mask) <<< segTop s r.1) else a.2)) (0, 0)
/-- The common rules of R241: bound limbs, whole segments, then the operation on each whole segment. -/
def limbRun (x : LaneOp) (p : Plan) (s : State) (body : Hart → List Nat → Pending) : Out :=
  laneRun x { p with bad := p.bad || (curHart s).limbs == 0 } s (fun s h m =>
    match partialSeg h.limbs m with
    | some j => laneTrap s { cause := 27, tval := dw j, detail := some 0 }
    | none => laneIssued s x (some (body h (wholeSegs h.limbs m))))
end Frame

section AddSub
/-- COUT and CIN of LADD and LSUB; 15 is none (R242). -/
def limbCout (x : LaneOp) : Nat := modF x 8 4
def limbCin (x : LaneOp) : Nat := modF x 12 4
def limbAddPlan (x : LaneOp) : Plan :=
  withTypes x [0] (fun _ => [1])
    { a := some vecSrc, b := some vecSrc, assigned := 0xFF00, maskRd := if limbCin x = 15 then [] else [limbCin x],
      maskWr := if limbCout x = 15 then [] else [limbCout x] }
/-- LADD and LSUB (R243): the result of a segment and its carry or borrow. -/
def limbAdd (x : LaneOp) (sub : Bool) (h : Hart) (segs : List Nat) : Pending :=
  let s := h.limbs; let md := 2 ^ (32 * s)
  let rs := segs.map (fun j =>
    let a := segVal h (opSa x) s j; let b := segVal h (opSb x) s j
    let c := if limbCin x ≠ 15 ∧ (h.getM (limbCin x)).getLsbD (segTop s j) then 1 else 0
    let r : Int := if sub then (a : Int) - b - c else (a : Int) + b + c
    (j, (r % (md : Int)).toNat, decide (r < 0) || decide ((md : Int) ≤ r)))
  let mk := segMask s (rs.map (fun r => (r.1, r.2.2)))
  { latency := 8, wr := planWrites x (limbAddPlan x), vs := rs.flatMap (fun r => segPut (opVd x) s r.1 r.2.1),
    mask := if limbCout x = 15 then none else some (limbCout x, mk.1, mk.2) }
def execLadd (f : LaneL) (s : State) : Out :=
  let x := lOp 0x70 f
  limbRun x (limbAddPlan x) s (limbAdd x false)
def execLsub (f : LaneL) (s : State) : Out :=
  let x := lOp 0x71 f
  limbRun x (limbAddPlan x) s (limbAdd x true)
end AddSub

section Shift
def limbShiftPlan (x : LaneOp) : Plan := withTypes x [0] (fun _ => words01) { a := some vecSrc, b := some vxSrc }
/-- The amount of a segment: bits 4:0 of x, or of its lowest lane. -/
def limbAmount (h : Hart) (x : LaneOp) (j : Nat) : Nat :=
  if opKb x = 1 then bitsOf h.iss.capB 0 5 else field (h.getV (opSb x) (j * h.limbs)).toNat 0 5
def limbShift (x : LaneOp) (h : Hart) (segs : List Nat) (f : Nat → Nat → Nat) : Pending :=
  { latency := 6, wr := planWrites x (limbShiftPlan x),
    vs := segs.flatMap (fun j => segPut (opVd x) h.limbs j (f (segVal h (opSa x) h.limbs j) (limbAmount h x j))) }
def execLshl (f : LaneL) (s : State) : Out :=
  let x := lOp 0x72 f
  limbRun x (limbShiftPlan x) s (fun h segs => limbShift x h segs (fun a n => a * 2 ^ n))
/-- LSHR: logical for TY 1, arithmetic for TY 0. -/
def execLshr (f : LaneL) (s : State) : Out :=
  let x := lOp 0x73 f
  limbRun x (limbShiftPlan x) s (fun h segs => limbShift x h segs (fun a n =>
    if opTy x = 1 then a / 2 ^ n else wrapTo (32 * h.limbs) (asInt true (32 * h.limbs) a / 2 ^ n)))
end Shift

section MultiplyAdd
/-- LMAC (R242): K below the segment size, and 0 for an x multiplier; SC is written and is not VD. -/
def limbK (x : LaneOp) : Nat := modF x 8 7
def lmacPlan (h : Hart) (x : LaneOp) : Plan :=
  let p := withTypes x [0] (fun _ => [1])
    { a := some vecSrc, b := some vxSrc, c := some { kinds := [0], dest := true }, assigned := 0x7F00, vread := true }
  { p with bad := p.bad || (if opKb x = 1 then limbK x != 0 else decide (h.limbs ≤ limbK x)) || x.sc == opVd x }
def execLmac (f : LaneL) (s : State) : Out :=
  let x := lOp 0x74 f
  limbRun x (lmacPlan (curHart s) x) s (fun h segs =>
    let n := h.limbs; let md := 2 ^ (32 * n)
    let rs := segs.map (fun j =>
      let b := if opKb x = 1 then bitsOf h.iss.capB 0 32 else (h.getV (opSb x) (j * n + limbK x)).toNat
      (j, segVal h (opVd x) n j + segVal h (opSa x) n j * b))
    { latency := 12, wr := planWrites x (lmacPlan h x),
      vs := rs.flatMap (fun r => segPut (opVd x) n r.1 (r.2 % md) ++ [(x.sc, segTop n r.1, wd (r.2 / md))]) })
end MultiplyAdd

section Compare
def lcmpPlan (x : LaneOp) : Plan :=
  withTypes x (List.range 6) (fun _ => words01)
    { a := some vecSrc, b := some vecSrc, vspan := 0, vwrite := false, maskWr := [opVd x % 16], bad := maskDestBad x }
def execLcmp (f : LaneL) (s : State) : Out :=
  let x := lOp 0x75 f
  limbRun x (lcmpPlan x) s (fun h segs =>
    let n := h.limbs
    let v := fun (r j : Nat) => asInt (opTy x == 0) (32 * n) (segVal h r n j)
    let mk := segMask n (segs.map (fun j =>
      let a := v (opSa x) j; let b := v (opSb x) j
      (j, condOf (opFn x) (decide (a < b)) (a == b))))
    { latency := 8, wr := [1024 + opVd x % 16], mask := some (opVd x % 16, mk.1, mk.2) })
end Compare

end Sys2Proof.Machine
end

