-- ==== Sys2Proof/Machine/Engine.lean ====
section
/-! DEFINITION. custom-3 besides copies: weight loads, accumulator tile names, limb binding and trace markers (07 R187–R190; 02
R48–R52). -/
namespace Sys2Proof.Machine

section Tiles
/-- State of a tile name (R50): 0 UNBOUND, 1 BOUND, 2 PINNED. -/
def accSt (h : Hart) (n : Nat) : Nat := tget 0 h.accState n
def setAccSt (h : Hart) (n v : Nat) : Hart := { h with accState := tset 0 h.accState n v }
def boundNames (h : Hart) : Nat := h.accState.length
/-- Element (i, l) of tile n. -/
def getAcc (h : Hart) (n i l : Nat) : Word := tget 0 h.acc (n * 1024 + i * 128 + l)
def setAcc (h : Hart) (n i l : Nat) (w : Word) : Hart := { h with acc := tset 0 h.acc (n * 1024 + i * 128 + l) w }
def clearAcc (h : Hart) (n : Nat) : Hart := { h with acc := tfilter (fun k => k / 1024 != n) h.acc }
/-- Binds a name on demand, zeroed: nothing where the quota is fully bound. -/
def bindName (h : Hart) (n : Nat) : Option Hart :=
  if accSt h n ≠ 0 then some h
  else if boundNames h < h.accQuota then some (setAccSt (clearAcc h n) n 1) else none
def unbindName (h : Hart) (n : Nat) : Hart := setAccSt (clearAcc h n) n 0
/-- The common frame of ACC.GET, ACC.PUT and ACC.ZERO (R188): a failed ACCST of the name is taken first (09 R240), and a PINNED name
holds the instruction. -/
def accOp (bits : DWord) (t : Reg) (s : State) (f : Hart → Option Hart) : Out :=
  scalar bits false [] s (fun h =>
    if h.accFails.any (fun e => e.name == t.toNat) then (match accFaultTake s s.cur with
      | some s => s
      | none => heldCur s .nothing)
    else if accSt h t.toNat = 2 then heldCur s (.tile t.toNat)
    else match f h with
      | some h => retireCur s h
      | none => trapCur s { cause := 48, tval := dw t.toNat, detail := some t.toNat })
def execAccGet (t : Reg) (s : State) : Out := accOp (insnBits (.accGet t)) t s (fun h => bindName h t.toNat)
def execAccPut (t : Reg) (s : State) : Out := accOp (insnBits (.accPut t)) t s (fun h => some (unbindName h t.toNat))
def execAccZero (t : Reg) (s : State) : Out :=
  accOp (insnBits (.accZero t)) t s (fun h => (bindName h t.toNat).map (fun h => clearAcc h t.toNat))
/-- Free physical tiles of a sub-core. -/
def tilePool (s : State) (h : Hart) : Nat :=
  16 - sumOf (fun g => g.accState.length) (groupsOn s h.tile (subcoreOf h.slot))
/-- ACC.QUERY (R188). -/
def execAccQuery (rd : Reg) (s : State) : Out :=
  scalar (insnBits (.accQuery rd)) false [rd] s (fun h =>
    let st := (List.range 16).foldl (fun a n => a + accSt h n * 2 ^ (2 * n)) 0
    retireX s rd (dw (tilePool s h * 2 ^ 40 + h.accQuota * 2 ^ 32 + st)))
end Tiles

section WeightLoad
/-- Columns of a slot loaded from a format (03 R81). -/
def slotCols (f : Nat) : Nat :=
  match f with
  | 7 => 128
  | 2 => 32
  | _ => 64
/-- Width of an element of an MLD source format. -/
def mldWidth (f : Nat) : Nat := if f = 7 then 4 else fmtWidth f
/-- Offsets of the scale bytes and band scale bytes of fp4 rows (03 R76). -/
def scaleOffs (p : DWord) (r : Nat) : List Nat :=
  (List.range 16).map (fun b => palSbase p + r * (palRow p / 4) + b)
def bandOffs (p : DWord) (r : Nat) : List Nat := [palBbase p + 2 * (r / 64), palBbase p + 2 * (r / 64) + 1]
/-- A scratchpad byte of the workgroup. -/
def ownByte (m : Mem) (w : Wg) (o : Nat) : Byte := ((readBytes m (ownLoc w o) 1).headD 0)
/-- Elements of a row. -/
def rowEls (m : Mem) (w : Wg) (o width : Nat) : List Nat :=
  (List.range 128).map (fun i =>
    if width = 4 then field (ownByte m w (o + i / 2)).toNat (i % 2 * 4) 4
    else leNat ((List.range (width / 8)).map (fun j => ownByte m w (o + i * (width / 8) + j))))
/-- The checks of MLD, in order. -/
def mldCheck (s : State) (h : Hart) (w : Wg) (slot : Nat) (o : DWord) : Option Trap :=
  let n := o.toNat
  let p := palAt s h.tile (ownBank w n)
  let f := palFmt p; let q := palRow p; let c := slotCols f
  let fmtT : Trap := { cause := 31, tval := o, detail := some (ownBank w n) }
  let rel := n % 98304; let r0 := rel / q
  if (wslotAt s (wslotKey h.tile (subcoreOf h.slot) slot)).owner ≠ h.wg then
    some { cause := 49, tval := dw slot, detail := some slot }
  else if !ownOk w n 1 then some { cause := 5, tval := o }
  else if f ≠ 2 ∧ f ≠ 4 ∧ f ≠ 6 ∧ f ≠ 7 then some fmtT
  else if rel % q ≠ 0 ∨ q < 128 * mldWidth f / 8 ∨ 98304 < rel + c * q ∨ (f = 7 ∧ r0 % 64 ≠ 0) then some fmtT
  else if f = 7 then
    let offs := (List.range c).flatMap (fun j => scaleOffs p (r0 + j) ++ bandOffs p (r0 + j))
    match (offs.filter (fun x => !ownOk w x 1)).foldl (fun (a : Option Nat) x => some (match a with
      | none => x
      | some y => min x y)) none with
    | some x => some { cause := 5, tval := dw x }
    | none => none
  else none
/-- The slot that an MLD leaves. -/
def mldSlot (s : State) (h : Hart) (w : Wg) (n : Nat) : WSlot :=
  let p := palAt s h.tile (ownBank w n)
  let f := palFmt p; let q := palRow p
  let r0 := n % 98304 / q
  let rows := (List.range (slotCols f)).map (fun j =>
    rowInts f (rowEls s.mem w (n + j * q) (mldWidth f))
      (if f = 7 then (scaleOffs p (r0 + j)).map (fun x => (ownByte s.mem w x).toNat) else []))
  { owner := h.wg, loaded := true, fmt := f, ints := rows.map (fun r => r.1), mults := rows.map (fun r => r.2.1),
    poison := rows.map (fun r => r.2.2),
    bands := (List.range (slotCols f)).map (fun j =>
      if f = 7 then BitVec.ofNat 16 (leNat ((bandOffs p (r0 + j)).map (fun x => ownByte s.mem w x))) else 0x3F80) }
/-- The places an MLD reads: its rows, and the scale and band bytes of fp4 rows. -/
def mldSpans (p : DWord) (w : Wg) (n : Nat) : List (Loc × Nat) :=
  let f := palFmt p; let r0 := n % 98304 / palRow p
  (List.range (slotCols f)).map (fun j => (ownLoc w (n + j * palRow p), 16 * mldWidth f)) ++
    (if f = 7 then ((List.range (slotCols f)).flatMap (fun j => scaleOffs p (r0 + j) ++ bandOffs p (r0 + j))).map
      (fun x => (ownLoc w x, 1)) else [])
/-- The first of some spans that cannot be read yet. -/
def spansWait (s : State) (k : Nat) (spans : List (Loc × Nat)) : WaitOn :=
  ((spans.find? (fun b => placeBlocked s k b.1 b.2 false)).map (fun b => WaitOn.place b.1 b.2 false)).getD .nothing
/-- MLD (R187), indivisible: it waits while a write of its own to a place it reads is on its way, a copy owns one, or a write that its
acquires obtained has not reached one (04 R101). Its writes to a word go together (09 R223). -/
def execMld (slot : Reg) (imm : BitVec 12) (rs1 : Reg) (s : State) : Out :=
  scalar (insnBits (.mld slot imm rs1)) false [rs1] s (fun h =>
    let o := h.getX rs1 + sext12 imm
    let w := wgAt s h.wg
    match mldCheck s h w slot.toNat o with
    | some t => trapCur s t
    | none =>
      let spans := mldSpans (palAt s h.tile (ownBank w o.toNat)) w o.toNat
      let words := spans.map (fun b => wordSpan b.1 b.2)
      match flushIf (fun r => r.agent == s.cur && words.any (fun b => overlaps r.loc r.size b.1 b.2)) s with
      | (s, false) => heldWhole s (spansWait s s.cur spans)
      | (s, true) =>
        if spans.any (fun b => heldRead s b.1 b.2 || unanswered s s.cur b.1 b.2) then heldWhole s (spansWait s s.cur spans)
        else
          let s' := { s with wslots := tput s.wslots (wslotKey h.tile (subcoreOf h.slot) slot.toNat) (mldSlot s h w o.toNat) }
          retire (count s' 1 h.tile (subcoreOf h.slot) 3 1))
end WeightLoad

section Misc
/-- LBIND (R189). -/
def execLbind (n : BitVec 12) (s : State) : Out :=
  scalar (insnBits (.lbind n)) false [] s (fun h =>
    match partialSeg n.toNat h.em with
    | some j => trapCur s { cause := 27, tval := dw j, detail := some 0 }
    | none => retireCur s { h with limbs := n.toNat })
/-- MARK (R190). -/
def execMark (n : BitVec 12) (s : State) : Out :=
  scalar (insnBits (.mark n)) true [] s (fun _ => retire (traceEvent s s.cur (.mark n.toNat)))
end Misc

end Sys2Proof.Machine
end

