-- ==== Sys2Proof/Machine/Irq.lean ====
section
/-! DEFINITION. Pending interrupts of a hart and the one it takes (12 R272, R273, R277–R279). -/
namespace Sys2Proof.Machine

/-- Highest-priority identity of an interrupt file that is pending, enabled and within the threshold: the lowest number
(R278, the AIA rule); 0 when there is none. -/
def fileTop (f : IrqFile) : Nat :=
  let t := bitsOf f.threshold 0 6
  match (List.range 64).find? (fun i => i != 0 && (f.eip &&& f.eie).getLsbD i && (t == 0 || decide (i < t))) with
  | some i => i
  | none => 0
def fileSignals (f : IrqFile) : Bool := bitAt f.delivery 0 && fileTop f != 0
/-- stopei: the top identity in bits 26:16 and 10:0. -/
def topei (f : IrqFile) : DWord := let i := fileTop f; dw (i * 65536 + i)

/-- vstime of a guest. -/
def guestTime (s : State) (h : Hart) : DWord := dw (timeOf s) + h.getC 0x605
/-- The pending bits of a hart, standard numbers (mip), without PREEMPT: timers from stimecmp and vstimecmp (R277), external from
the interrupt files (R278), software and injected bits as stored. -/
def mipOf (s : State) (h : Hart) : DWord :=
  let stce := bitAt (h.getC 0x30A) 63
  let sw := h.getC 0x344 &&& (if stce then 0x202 else 0x222)
  let hv := h.getC 0x645 &&& 0x444
  let st := if stce && decide ((h.getC 0x14D).toNat ≤ timeOf s) then 0x20 else (0 : DWord)
  let vst := if stce && decide ((h.getC 0x24D).toNat ≤ (guestTime s h).toNat) && bitAt (h.getC 0x60A) 63 then 0x40 else (0 : DWord)
  let ext := if fileSignals h.irqS then 0x200 else (0 : DWord)
  let g := fileSignals h.irqG
  let vext := if g && bitsOf (h.getC 0x600) 12 6 == 1 then 0x400 else (0 : DWord)
  let sgei := if g && bitAt (h.getC 0x607) 1 then 0x1000 else (0 : DWord)
  sw ||| hv ||| st ||| vst ||| ext ||| vext ||| sgei
/-- mideleg as hardware uses it: the VS-level bits and SGEI are always delegated to HS; PREEMPT is a supervisor interrupt. -/
def midelegOf (h : Hart) : DWord := (h.getC 0x303 &&& 0x222) ||| 0x1444
/-- hideleg: VS-level bits as written; bits 16 and 17 read as 1 (R272). -/
def hidelegOf (h : Hart) : DWord := (h.getC 0x603 &&& 0x444) ||| 0x30000

/-- Whether interrupts of a receiving mode are enabled (R272: SIE counts only in the receiving supervisor mode itself;
notes/assumptions/15). -/
def mOpen (h : Hart) : Bool := h.priv != .m || bitAt (h.getC 0x300) 3
def hsOpen (h : Hart) : Bool := h.priv != .m && (h.virt || h.priv == .u || bitAt (h.getC 0x300) 1)
def vsOpen (h : Hart) : Bool := h.virt && h.priv != .m && (h.priv == .u || bitAt (h.getC 0x200) 1)
/-- sie bit 16 in the receiving mode's view. -/
def preemptEnabled (h : Hart) : Bool := if h.virt then bitAt (h.getC 0x204) 16 else bitAt (h.getC 0x304) 16

/-- The interrupt a hart takes at a boundary, with its receiving mode (R273): to M, then HS, then VS, and within one level
PREEMPT, external, software, timer. -/
def pendingIrq (s : State) (h : Hart) : Option (Trap × Target) :=
  let on := mipOf s h &&& h.getC 0x304
  let pick := fun (m : DWord) (l : List Nat) => l.find? (fun i => bitAt m i)
  let toM := on &&& ~~~(midelegOf h)
  let toHS := on &&& midelegOf h &&& ~~~(hidelegOf h)
  let toVS := on &&& midelegOf h &&& hidelegOf h
  let pre := h.preempt && preemptEnabled h
  let ev := fun (c : Nat) (t : Target) => some ({ cause := c, intr := true : Trap }, t)
  match (if mOpen h then pick toM [9, 1, 5] else none) with
  | some c => ev c .m
  | none =>
    if hsOpen h && pre && !h.virt then ev 16 .hs
    else match (if hsOpen h then pick toHS [9, 1, 5, 12, 10, 2, 6] else none) with
      | some c => ev c .hs
      | none =>
        if vsOpen h && pre && h.virt then ev 16 .vs
        else match (if vsOpen h then pick toVS [10, 2, 6] else none) with
          | some c => ev c .vs
          | none => none
/-- An interrupt is pending, enabled or not, for WFI (R279). -/
def anyPending (s : State) (h : Hart) : Bool := mipOf s h != 0 || h.preempt

/-- Whether a group stands where an interrupt may be taken (R279): not inside an indivisible instruction, not while a translation fence
waits (14 R317), not STOPPED, and no renewal outstanding (14 R326). -/
def atBoundary (h : Hart) : Bool :=
  !h.tasklet && h.run != .empty && h.run != .stopped && h.run != .exited && h.spec.isEmpty && !h.indiv &&
    (match h.wait with
     | .placing .. => false
     | .fence => false
     | _ => true)
/-- The head of a group's lane queue is an MMA that its partition's energy allowance holds (13 R307). -/
def energyStuck (s : State) (h : Hart) : Bool :=
  match h.laneQ with
  | [] => false
  | e :: _ => field e.word.toNat 0 8 == 0x68 && (partAt s (ownerOf s h)).allow != 0 && energyHeld s (ownerOf s h)
/-- Whether an interrupt may be taken now: an LRUN that waits for queue space is reached only through what is queued before it (06 R146),
unless that is held; a terminated member takes none (01 R23). -/
def mayInterrupt (s : State) (h : Hart) : Bool :=
  atBoundary h && !(wgAt s h.wg).terminated &&
    (match h.wait with
     | .laneSpace _ => h.laneQ.isEmpty || energyStuck s h
     | _ => true)
/-- A posted store that met a poisoned granule at its home, known and not yet taken: its agent takes the store/AMO access fault (15 R342;
notes/assumptions/87). -/
def lateFaultTake (s : State) (k : Nat) : Option State :=
  let h := hartAt s k
  match h.lateFaults with
  | [] => none
  | va :: rest =>
    let s := setHart s k { h with lateFaults := rest }
    if h.tasklet then some (taskletTrapOp s k 7 va)
    else some (takeTrapAt s k { cause := 7, tval := va, gva := h.virt } (excTarget h 7) h.laneQ.head?)
/-- Takes the fault of a posted store, or the interrupt, that is due at this boundary, if any (R273, R279; 06 R146; 15 R342). -/
def takeIrq (s : State) (k : Nat) : Option State :=
  let h := hartAt s k
  if h.tasklet then lateFaultTake s k
  else if !mayInterrupt s h then none
  else if !h.lateFaults.isEmpty then lateFaultTake s k
  else match pendingIrq s h with
    | none => none
    | some (t, tgt) =>
      let s := if h.wait == .wfi then setHart s k (retireHart h) else s
      some (takeTrapAt s k t tgt h.laneQ.head?)

end Sys2Proof.Machine
end

