-- ==== Sys2Proof/Machine/LaneMem.lean ====
section
/-! DEFINITION. Lane loads and stores, the scratchpad forms, the lane full-empty operations, prefetch, atomics and remote updates (09
R215–R231), and the speculative use of S copies (14 R326). -/
namespace Sys2Proof.Machine

section Address
/-- SCALE; a J form takes 0 (R215). -/
def memScale (x : LaneOp) : Nat := if x.j then 0 else modF x 8 2
/-- The offset of a lane (R216): sign-extended, but for a special value. -/
def memOff (s : State) (h : Hart) (x : LaneOp) (l : Nat) : Int :=
  let v := opndB s h x l
  (if opKb x = 3 then (v.toNat : Int) else v.toInt) * 2 ^ memScale x
/-- ea(l). -/
def laneEa (s : State) (h : Hart) (x : LaneOp) (l : Nat) : DWord := opnd64A s h x l + BitVec.ofInt 64 (memOff s h x l)
/-- eo(l), exact. -/
def laneEo (s : State) (h : Hart) (x : LaneOp) (l : Nat) : Int := ((opndA s h x l).toNat : Int) + memOff s h x l
/-- Registers an access spans, and its bytes a lane (R218). -/
def memRegs (x : LaneOp) : Nat := match opFn x with
  | 0 => 1
  | 1 => 2
  | _ => 4
def memBytes (x : LaneOp) : Nat := if opFn x = 0 then tyWidth (opTy x) / 8 else 4 * memRegs x
/-- A loaded element as a register word. -/
def memExt (x : LaneOp) (n : Nat) : Word :=
  if opFn x = 0 then wd (wrapTo 32 (asInt (tySigned (opTy x)) (tyWidth (opTy x)) n)) else wd n
/-- The pieces an access is made of: byte offset and size. -/
def memPieces (bytes : Nat) : List (Nat × Nat) :=
  if bytes ≤ 4 then [(0, bytes)] else (List.range (bytes / 4)).map (fun i => (4 * i, 4))
end Address

section Plans
/-- The common fields of R215: KA 00 or 01, SC and KC 0. -/
def memPlan (x : LaneOp) (pairBase : Bool) (fns : List Nat) (tys : Nat → List Nat) (p : Plan) : Plan :=
  let q := withTypes x fns tys p
  { q with a := some { kinds := [0, 1], pair := pairBase }, b := some anySrc,
           assigned := if x.j then 0 else Nat.lor p.assigned 0x300, bad := q.bad || x.sc != 0 || x.kc != 0 }
def lsTypes (fn : Nat) : List Nat := if fn = 0 then [0, 1, 2, 7, 8, 9, 10] else [0, 1, 2]
/-- The data span of an access: pair or four registers. -/
def spanOf (x : LaneOp) (p : Plan) : Plan :=
  { p with vspan := memRegs x, vpair := opFn x == 1, bad := p.bad || (opFn x == 2 && opVd x % 4 != 0) }
def loadPlan (x : LaneOp) : Plan := spanOf x (memPlan x true [0, 1, 2] lsTypes {})
def storePlan (x : LaneOp) : Plan := { loadPlan x with vread := true, vwrite := false }
/-- PAL of LDS and STS. -/
def palBit (x : LaneOp) : Bool := !x.j && x.mods.testBit 10
def padPlan (x : LaneOp) (extra : Nat) : Plan :=
  if palBit x then memPlan x false [0] (fun _ => [2]) { assigned := 0x400 + extra }
  else spanOf x (memPlan x false [0, 1, 2] lsTypes { assigned := 0x400 })
def stsPlan (x : LaneOp) : Plan := { padPlan x 15 with vread := true, vwrite := false }
def fePlan (h : Hart) (x : LaneOp) (load : Bool) : Plan :=
  let p := memPlan x true [0] (fun _ => words01) {}
  { p with vread := !load, vwrite := load, bad := p.bad || h.limbs != 0 }
def pfPlan (x : LaneOp) : Plan :=
  let p := memPlan x true [0, 1] (fun _ => [0]) {}
  { p with vspan := 0, vwrite := false, bad := p.bad || opVd x != 0 }
end Plans

section Reads
/-- One piece of a lane load (R217; 14 R318, R326): its value, and the copy it used although that is not usable. Nothing while it is
held. -/
def lanePiece (s : State) (k : Nat) (l : Loc) (mode n : Nat) : State × Option (DWord × Option SCopy) :=
  match forwarded s k l n with
  | some v => (s, some (v, none))
  | none =>
    let (s, ok) := flushWord s k l n
    if !ok || heldRead s l n || unanswered s k l n then (s, none)
    else match l with
      | .mem a =>
        if mode = 1 then
          let h := hartAt s k; let line := a / 64
          match copyFind s.mem (l1Holder h.tile) line with
          | some c => (s, some (copyBytes c a n, if usable s h c then none else some c))
          | none => (fillCopy s (l1Holder h.tile) line, some (readLoc s.mem l n, none))
        else (l2Loc s l n, some (readLoc s.mem l n, none))
      | _ => (s, some (readLoc s.mem l n, none))
/-- The pieces of one lane's access, first to last. -/
def laneRead (s : State) (k : Nat) (l : Loc) (mode : Nat) : List (Nat × Nat) → State × Option (List DWord × List SCopy)
  | [] => (s, some ([], []))
  | (o, n) :: r =>
    match lanePiece s k (l.add o) mode n with
    | (s, none) => (s, none)
    | (s, some (v, line)) =>
      match laneRead s k l mode r with
      | (s, none) => (s, none)
      | (s, some (vs, ls)) => (s, some (v :: vs, line.toList ++ ls))
/-- Every lane's access: values by lane, and the copies used speculatively. -/
def readLanes (s : State) (k : Nat) : List (Nat × Loc × Nat × Nat) → State × Option (List (Nat × List DWord) × List SCopy)
  | [] => (s, some ([], []))
  | (l, loc, mode, bytes) :: r =>
    match laneRead s k loc mode (memPieces bytes) with
    | (s, none) => (s, none)
    | (s, some (vs, ls)) =>
      match readLanes s k r with
      | (s, none) => (s, none)
      | (s, some (m, ls')) => (s, some ((l, vs) :: m, ls ++ ls'))
/-- A load has used these copies speculatively: the group's state before it is kept (14 R326). -/
def speculate (h : Hart) (lines : List SCopy) : Hart :=
  if lines.isEmpty then h
  else { h with spec := h.spec ++ [{ v := h.v, m := h.m, pend := h.pend, lfflags := h.getC 0x803, lines := lines.eraseDups }] }
/-- The first piece of a load that is held. -/
def loadWait (s : State) (k : Nat) (locs : List (Nat × Loc × Nat × Nat)) : WaitOn :=
  ((locs.flatMap (fun e => (memPieces e.2.2.2).map (fun p => (e.2.1.add p.1, p.2)))).find? (fun p =>
    (forwarded s k p.1 p.2).isNone && placeBlocked s k p.1 p.2 false)).elim .nothing (fun p => .place p.1 p.2 false)
/-- A load instruction over the lanes it may perform: `f` makes a lane's registers from its values. -/
def laneLoads (s : State) (x : LaneOp) (p : Plan) (locs : List (Nat × Loc × Nat × Nat))
    (f : Nat → List DWord → List Word × Flags) : State :=
  match readLanes s s.cur locs with
  | (s, none) => laneHeld s (loadWait s s.cur locs)
  | (s, some (vals, lines)) =>
    let res := fun (l : Nat) => f l (((vals.find? (fun e => e.1 == l)).map Prod.snd).getD [])
    let m := vals.foldl (fun (m : Mask) e => m ||| ((1 : Mask) <<< e.1)) 0
    laneIssued (modCur s (fun h => speculate h lines)) x (some (vectorResult x p none m res))
end Reads

section Faults
/-- CLASS of DETAIL (R222). -/
def partDetail (part : Bool) (cls : Nat) : Nat := (if part then 128 else 0) + cls
/-- The lanes of an instruction in order, each with its place or its fault, up to the first fault. -/
def checkLanes {α : Type} (f : Nat → Except Trap α) : List Nat → List (Nat × α) × Option (Nat × Trap)
  | [] => ([], none)
  | l :: r =>
    match f l with
    | .error t => ([], some (l, t))
    | .ok a =>
      let q := checkLanes f r
      ((l, a) :: q.1, q.2)
/-- A faulting load: nothing is performed; lanes a resume had performed already stay recorded (R220, R221). -/
def loadFault (s : State) (l cls : Nat) (t : Trap) : State :=
  let done := (curHart s).iss.skip
  laneTrap s { t with lane := some l, detail := some (if t.cause = 31 then t.detail.getD 0 else partDetail (done != 0) cls),
                      stm := some done }
/-- The lanes below a fault that a side-effecting instruction had performed while no limbs are bound (R220): any, at the choice of the
hardware (notes/assumptions/10). -/
def performedLanes (s : State) (h : Hart) (locs : List Nat) : List Nat :=
  if h.limbs != 0 then [] else locs.filter (fun l => (Config.freeMask s.free).getLsbD l)
/-- The fault of a side-effecting instruction whose lanes `done` were performed. -/
def sideFault (s : State) (l cls : Nat) (done : List Nat) (t : Trap) : State :=
  let h := curHart s
  let m := done.foldl (fun (m : Mask) l => m ||| ((1 : Mask) <<< l)) h.iss.skip
  laneTrap { s with free := s.free + 1 }
    { t with lane := some l, detail := some (if t.cause = 31 then t.detail.getD 0 else partDetail (h.limbs == 0 || m != 0) cls),
             stm := some m }
/-- A located lane access: virtual addresses (R219). -/
def vaPlace (s : State) (h : Hart) (acc : Acc) (cls : Cls) (n : Nat) (va : DWord) : Except Trap Located :=
  locate s (dataCtx h) h.lkey false acc cls va n
/-- Walks noted for the located lanes. -/
def noteAll (s : State) (ls : List (Nat × Located)) : State := ls.foldl (fun s e => e.2.note s) s
/-- A lane's walk meets a held table entry: the instruction waits (14 R316). -/
def walksHeld (s : State) (h : Hart) (acc : Acc) (m : Mask) (ea : Nat → DWord) : Bool :=
  (lanesOf m).any (fun l => walkWaits s (dataCtx h) h.lkey acc (ea l))
/-- The first entry that the walks of some addresses wait for. -/
def walksWait (s : State) (h : Hart) (acc : Acc) (vas : List DWord) : WaitOn :=
  ((vas.findSome? (walkHeld s (dataCtx h) h.lkey acc)).map (fun l => WaitOn.place l 8 false)).getD .nothing
/-- The instruction waits for its walks. -/
def walksHold (s : State) (h : Hart) (acc : Acc) (m : Mask) (ea : Nat → DWord) : State :=
  laneHeld s (walksWait s h acc ((lanesOf m).map ea))
/-- The first place at which lanes that write are held. -/
def writeWait (s : State) (k n : Nat) (ls : List (Nat × Located)) : WaitOn :=
  ((ls.find? (fun e => placeBlocked s k e.2.loc n true)).map (fun e => WaitOn.place e.2.loc n true)).getD .nothing
def noteBad (s : State) (h : Hart) (acc : Acc) (va : DWord) (n : Nat) : State := notePoisonAt s (dataCtx h) h.lkey acc va n
/-- One word in each lane of a list, without results. -/
def flagsOnly (fl : Flags) : Pending := { board := true, flags := fl }
end Faults

section LoadStore
/-- LD (R224). -/
def ldLane (x : LaneOp) (s : State) : Out :=
  laneRun x (loadPlan x) s (fun s h m =>
    let n := memBytes x
    let ea := fun (l : Nat) => laneEa s h x l
    if walksHeld s h .load m ea then walksHold s h .load m ea
    else match checkLanes (fun l => vaPlace s h .load .lane n (ea l)) (lanesOf m) with
    | (_, some (l, t)) => loadFault (noteBad s h .load (ea l) n) l 1 t
    | (ls, none) =>
      laneLoads (noteAll s ls) x (loadPlan x) (ls.map (fun e => (e.1, e.2.loc, e.2.mode, n)))
        (fun _ vs => plainly (vs.map (fun v => memExt x v.toNat))))
def execLaneLd (f : LaneL) (s : State) : Out := ldLane (lOp 0x50 f) s
def execLaneLdJ (f : LaneJ) (s : State) : Out := ldLane (jOp 0xD0 f) s
/-- What the current agent has sent since `s` is of one lane instruction (R223). -/
def asGroup (s t : State) : State :=
  let n := s.mem.net.length
  modMem (bumpSeq t) (fun m => { m with net := m.net.take n ++ (m.net.drop n).map (fun (r : Req) => { r with group := t.seqNo + 1 }) })
/-- Issues the stores of the given lanes in increasing lane order (R223). -/
def storeLanes (s : State) (bytes : Nat) (ls : List (Nat × Loc × Nat)) (ea : Nat → DWord) (v : Nat → Nat → Nat) : State :=
  asGroup s <| ls.foldl (fun s e => (memPieces bytes).foldl (fun s p =>
    agentStore s s.cur (e.2.1.add p.1) e.2.2 p.2 (ea e.1 + dw p.1) (dw (v e.1 (p.1 / 4) % 2 ^ (8 * p.2)))) s) s
/-- ST. -/
def stLane (x : LaneOp) (s : State) : Out :=
  laneRun x (storePlan x) s (fun s h m =>
    let n := memBytes x
    let ea := fun (l : Nat) => laneEa s h x l
    let data := fun (l i : Nat) => (h.getV (opVd x + i) l).toNat
    if walksHeld s h .store m ea then walksHold s h .store m ea
    else match checkLanes (fun l => vaPlace s h .store .lane n (ea l)) (lanesOf m) with
    | (ls, some (l, t)) =>
      let done := performedLanes s h (ls.map Prod.fst)
      let go := ls.filter (fun e => done.contains e.1)
      let s' := storeLanes (noteAll s go) n (go.map (fun e => (e.1, e.2.loc, e.2.mode))) ea data
      sideFault (noteBad s' h .store (ea l) n) l 2 done t
    | (ls, none) =>
      laneIssued (storeLanes (noteAll s ls) n (ls.map (fun e => (e.1, e.2.loc, e.2.mode))) ea data) x none)
def execLaneSt (f : LaneL) (s : State) : Out := stLane (lOp 0x51 f) s
def execLaneStJ (f : LaneJ) (s : State) : Out := stLane (jOp 0xD1 f) s
end LoadStore

section Scratchpad
/-- A checked scratchpad access: its place, palette format where PAL converts, and size (R219, R225). -/
structure PadPlace where
  loc : Loc := .win 0
  fmt : Nat := 0
  bytes : Nat := 4
  deriving DecidableEq, Repr
/-- Checks 1, 2 and 5 of R219 at an offset. -/
def padPlace (s : State) (h : Hart) (x : LaneOp) (acc : Acc) (eo : Int) : Except Trap PadPlace :=
  let w := wgAt s h.wg
  let inside := decide (0 ≤ eo ∧ eo < (w.bankCount * 98304 : Nat))
  let bank := ownBank w eo.toNat
  let fmt := if inside then palFmt (palAt s h.tile bank) else 0
  let conv := decide (1 ≤ fmt ∧ fmt ≤ 6)
  let pal := palBit x
  let n := if pal then (if conv then fmtWidth fmt / 8 else 1) else memBytes x
  let tv : DWord := BitVec.ofInt 64 eo
  if (!pal || conv) && eo % (n : Int) != 0 then .error { cause := causeMisaligned acc, tval := tv, gva := h.virt }
  else if !inside || !ownOk w eo.toNat n then .error { cause := causeAccess acc, tval := tv, gva := h.virt }
  else if decide (8 ≤ fmt) || (pal && !conv) then .error { cause := 31, tval := tv, gva := h.virt, detail := some bank }
  else .ok { loc := ownLoc w eo.toNat, fmt := if pal then fmt else 0, bytes := n }
/-- LDS (R225). -/
def ldsLane (x : LaneOp) (s : State) : Out :=
  laneRun x (padPlan x 0) s (fun s h m =>
    match checkLanes (fun l => padPlace s h x .load (laneEo s h x l)) (lanesOf m) with
    | (_, some (l, t)) => loadFault s l 3 t
    | (ls, none) =>
      laneLoads s x (padPlan x 0) (ls.map (fun e => (e.1, e.2.loc, 2, e.2.bytes))) (fun l vs =>
        if palBit x then
          let r := fromPal (((ls.find? (fun e => e.1 == l)).map (fun e => e.2.fmt)).getD 0) (vs.getD 0 0).toNat
          ([wd r.1], r.2)
        else plainly (vs.map (fun v => memExt x v.toNat))))
def execLds (f : LaneL) (s : State) : Out := ldsLane (lOp 0x52 f) s
def execLdsJ (f : LaneJ) (s : State) : Out := ldsLane (jOp 0xD2 f) s
/-- STS (R225). -/
def stsLane (x : LaneOp) (s : State) : Out :=
  laneRun x (stsPlan x) s (fun s h m =>
    let out := fun (l : Nat) (p : PadPlace) =>
      if palBit x then toPal p.fmt (opRound h x) (opSat x) (h.getV (opVd x) l).toNat else (0, 0)
    let put := fun (s : State) (go : List (Nat × PadPlace)) =>
      asGroup s <| go.foldl (fun s e =>
        if palBit x then agentStore s s.cur e.2.loc 2 e.2.bytes 0 (dw (out e.1 e.2).1)
        else storeLanes s e.2.bytes [(e.1, e.2.loc, 2)] (fun _ => 0) (fun l i => (h.getV (opVd x + i) l).toNat)) s
    let fl := fun (go : List (Nat × PadPlace)) => go.foldl (fun (a : Flags) e => a ||| (out e.1 e.2).2) 0
    match checkLanes (fun l => padPlace s h x .store (laneEo s h x l)) (lanesOf m) with
    | (ls, some (l, t)) =>
      let done := if t.cause = 31 then [] else performedLanes s h (ls.map Prod.fst)
      let go := ls.filter (fun e => done.contains e.1)
      sideFault (modCur (put s go) (fun h => { h with pend := h.pend ++ [flagsOnly (fl go)] })) l 4 done t
    | (ls, none) => laneIssued (put s ls) x (if palBit x then some (flagsOnly (fl ls)) else none))
def execSts (f : LaneL) (s : State) : Out := stsLane (lOp 0x53 f) s
def execStsJ (f : LaneJ) (s : State) : Out := stsLane (jOp 0xD3 f) s
end Scratchpad

section FullEmpty
/-- Brings the group's writes to the words of every lane into home order, if none is held there. -/
def feClear (s : State) (k : Nat) : List (Nat × Located) → Option State
  | [] => some s
  | (_, l) :: r =>
    match flushWord s k l.loc 4 with
    | (_, false) => none
    | (s, true) => if heldWrite s k l.loc 4 || unanswered s k l.loc 4 then none else feClear s k r
/-- A lane full-empty instruction (R226): the checks of every lane, then every lane's access, each of which completes or parks. -/
def feLane (x : LaneOp) (op : FeOp) (s : State) : Out :=
  let load := match op with
    | .ldfe | .ldff => true
    | _ => false
  laneRun x (fePlan (curHart s) x load) s (fun s h m =>
    let acc := if load then Acc.load else Acc.store
    let cls := if load then 5 else 6
    let ea := fun (l : Nat) => laneEa s h x l
    let data := fun (l : Nat) => h.getV (opVd x) l
    if walksHeld s h acc m ea then walksHold s h acc m ea
    else match checkLanes (fun l => vaPlace s h acc .fe 4 (ea l)) (lanesOf m) with
    | (ls, some (l, t)) =>
      if load then loadFault (noteBad s h acc (ea l) 4) l cls t
      else
        let want := performedLanes s h (ls.map Prod.fst)
        let (s', done) := ls.foldl (fun (a : State × List Nat) e =>
          if want.contains e.1 then
            (match feClear a.1 a.1.cur [e] with
             | none => a
             | some s1 => match feTry s1.mem op e.2.loc (data e.1) with
               | some (m, _) => (servePlace { s1 with mem := m } e.2.loc, a.2 ++ [e.1])
               | none => a)
          else a) (s, [])
        sideFault (noteBad s' h acc (ea l) 4) l cls done t
    | (ls, none) =>
      match feClear (noteAll s ls) s.cur ls with
      | none => laneHeld s (writeWait s s.cur 4 ls)
      | some s =>
        if ls.isEmpty then laneIssued s x none
        else
          let fe : LaneFe := { entry := h.iss, todo := m, done := h.iss.skip, vd := opVd x, load := load }
          let s := occupy (modCur s (fun h =>
            let h := clearRecord (landIf (fun _ => true) h)
            { h with pend := pendTrim (h.pend.map (fun q => { q with dist := q.dist + opSt x })),
                     ylMark := x.b.yl == 1#1, laneFe := some fe, iss := {}, run := .waitSync, wait := .laneFullEmpty })) x
          ls.foldl (fun s e => feSend s { agent := s.cur, lane := some e.1, op := op, loc := e.2.loc, va := ea e.1, data := data e.1 }) s)
def execLaneLdfe (f : LaneL) (s : State) : Out := feLane (lOp 0x54 f) .ldfe s
def execLaneLdfeJ (f : LaneJ) (s : State) : Out := feLane (jOp 0xD4 f) .ldfe s
def execLaneLdff (f : LaneL) (s : State) : Out := feLane (lOp 0x55 f) .ldff s
def execLaneLdffJ (f : LaneJ) (s : State) : Out := feLane (jOp 0xD5 f) .ldff s
def execLaneStef (f : LaneL) (s : State) : Out := feLane (lOp 0x56 f) .stef s
def execLaneStefJ (f : LaneJ) (s : State) : Out := feLane (jOp 0xD6 f) .stef s
def execLaneStff (f : LaneL) (s : State) : Out := feLane (lOp 0x57 f) .stff s
def execLaneStffJ (f : LaneJ) (s : State) : Out := feLane (jOp 0xD7 f) .stff s
end FullEmpty

section Prefetch
/-- PFETCH (R227): with FN 0 an S line comes into the core's L1; any other line comes into its home L2 slice. A request that fails a
check is dropped. -/
def prefetchLine (s : State) (h : Hart) (l1 : Bool) (l : Located) : State :=
  match l.loc with
  | .mem a =>
    if heldRead s (.mem (a / 64 * 64)) 64 then s
    else if l.mode != 1 || !l1 then l2Touch s (a / 64)
    else match copyFind s.mem (l1Holder h.tile) (a / 64) with
      | some c => if usable s h c then s else count (fillCopy s (l1Holder h.tile) (a / 64)) 2 h.tile 0 4 1
      | none => fillCopy s (l1Holder h.tile) (a / 64)
  | _ => s
def pfLane (x : LaneOp) (s : State) : Out :=
  laneRun x (pfPlan x) s (fun s h m =>
    let s' := (lanesOf m).foldl (fun t l =>
      match vaPlace s h .load .lane 1 (laneEa s h x l) with
      | .error _ => noteBad t h .load (laneEa s h x l) 1
      | .ok q => prefetchLine (q.note t) h (opFn x == 0) q) s
    laneIssued s' x none)
def execPfetch (f : LaneL) (s : State) : Out := pfLane (lOp 0x58 f) s
def execPfetchJ (f : LaneJ) (s : State) : Out := pfLane (jOp 0xD8 f) s
end Prefetch

section Atomics
/-- WIDE, SCOPE and ORD (R228). -/
def amoWide (x : LaneOp) : Bool := x.mods.testBit 10
def amoScope (x : LaneOp) : Nat := modF x 11 3
def amoOrd (x : LaneOp) : Nat := modF x 14 2
def amoBytes (x : LaneOp) : Nat := if amoWide x then 8 else 4
/-- The fields AMO and RED share. -/
def atomPlan (x : LaneOp) (fns : List Nat) (bits : Nat) : Plan :=
  let p := withTypes x fns (fun f => if f = 0 then [0, 1, 2] else words01) {}
  { p with a := some { kinds := [0, 1], pair := true }, b := some anySrc, c := some { kinds := [0, 1], pair := amoWide x },
           assigned := bits, bad := p.bad || (amoWide x && opTy x == 2) }
/-- AMO's fields. DESIGN CHOICE (notes/assumptions/91): scope code 7, of which 04 R96 says illegal-instruction, fails check 9 of 05 R136 as
R228 has it, and raises LANE_ILLEGAL. -/
def amoPlan (x : LaneOp) : Plan :=
  let p := atomPlan x (List.range 8) 0xFF00
  { p with vspan := if amoWide x then 2 else 1, vpair := amoWide x, vread := opFn x == 7,
           bad := p.bad || amoScope x == 7 || (amoOrd x == 0 && amoScope x != 0) }
def redMemPlan (x : LaneOp) : Plan :=
  let p := atomPlan x (List.range 6) 0x700
  { p with vspan := 0, vwrite := false, bad := p.bad || opVd x != 0 }
/-- The operation of an FN and TY (R229). -/
def atomOp (x : LaneOp) : Rmw :=
  match opFn x with
  | 0 => if opTy x = 2 then .fadd else .add
  | 1 => if opTy x = 0 then .min else .minu
  | 2 => if opTy x = 0 then .max else .maxu
  | 3 => .and
  | 4 => .or
  | 5 => .xor
  | 6 => .swap
  | _ => .cas
def atomVal (s : State) (h : Hart) (x : LaneOp) (l : Nat) : DWord :=
  if amoWide x then opnd64C s h x l else (opndC s h x l).setWidth 64
def atomCmp (h : Hart) (x : LaneOp) (l : Nat) : DWord :=
  if amoWide x then h.getV (opVd x + 1) l ++ h.getV (opVd x) l else (h.getV (opVd x) l).setWidth 64
/-- The RMWs of the given lanes, one after another at their homes; the state at the first that is held where one is. -/
def amoLanes (s0 : State) (h : Hart) (x : LaneOp) : State → List (Nat × Located) → Except State (State × List (Nat × DWord))
  | s, [] => .ok (s, [])
  | s, (l, q) :: r =>
    match agentRmw s s.cur q.loc q.mode (amoBytes x) (atomOp x) (atomVal s0 h x l) (atomCmp h x l) with
    | (_, none) => .error (agentRmw s0 s0.cur q.loc q.mode (amoBytes x) (atomOp x) (atomVal s0 h x l) (atomCmp h x l)).1
    | (s, some v) =>
      match amoLanes s0 h x s r with
      | .error e => .error e
      | .ok (s, vs) => .ok (s, (l, v) :: vs)
/-- The old values as a result. -/
def amoResult (x : LaneOp) (p : Plan) (vs : List (Nat × DWord)) : Pending :=
  let m := vs.foldl (fun (m : Mask) e => m ||| ((1 : Mask) <<< e.1)) 0
  vectorResult x p none m (fun l =>
    let v := (((vs.find? (fun e => e.1 == l)).map Prod.snd).getD 0).toNat
    plainly (if amoWide x then pairOf v else [wd v]))
/-- AMO (R229, R231). -/
def execAmo (f : LaneL) (s : State) : Out :=
  let x := lOp 0x60 f
  let p := amoPlan x
  laneRun x p s (fun s h m =>
    let n := amoBytes x
    let ea := fun (l : Nat) => laneEa s h x l
    if walksHeld s h .store m ea then walksHold s h .store m ea
    else
    let chk := checkLanes (fun l => vaPlace s h .store .amo n (ea l)) (lanesOf m)
    let rel := if (amoOrd x).testBit 1 then flushAgent s s.cur else (s, true)
    match chk with
    | (ls, some (l, t)) =>
      let done := performedLanes s h (ls.map Prod.fst)
      let go := ls.filter (fun e => done.contains e.1)
      match rel with
      | (s, false) => laneHeld s .writes
      | (s, true) =>
        match amoLanes s h x (noteAll s go) go with
        | .error e => laneHeld e (writeWait e e.cur n go)
        | .ok (s, vs) =>
          let s := acquireIf ((amoOrd x).testBit 0 && !vs.isEmpty) s
          sideFault (noteBad (modCur s (fun h => { h with pend := h.pend ++ [amoResult x p vs] })) h .store (ea l) n) l 7 done t
    | (ls, none) =>
      match rel with
      | (s, false) => laneHeld s .writes
      | (s, true) =>
        match amoLanes s h x (noteAll s ls) ls with
        | .error e => laneHeld e (writeWait e e.cur n ls)
        | .ok (s, vs) => laneIssued (acquireIf ((amoOrd x).testBit 0) s) x (some (amoResult x p vs)))
/-- Sends remote updates (R230; 01 R37). -/
def redLanes (s : State) (h : Hart) (x : LaneOp) (ls : List (Nat × Located)) : State :=
  asGroup s <| ls.foldl (fun t e =>
    let t := if e.2.mode = 1 then dropCopies t h.tile e.2.loc (amoBytes x) else t
    modMem t (fun m => { m with net := m.net ++ [{
      newReq s s.cur e.2.loc e.2.mode (amoBytes x) (atomVal s h x e.1) with red := some (atomOp x), va := laneEa s h x e.1 }] })) s
/-- RED (R230). -/
def execRed (f : LaneL) (s : State) : Out :=
  let x := lOp 0x61 f
  laneRun x (redMemPlan x) s (fun s h m =>
    let n := amoBytes x
    let ea := fun (l : Nat) => laneEa s h x l
    if walksHeld s h .store m ea then walksHold s h .store m ea
    else match checkLanes (fun l => vaPlace s h .store .amo n (ea l)) (lanesOf m) with
    | (ls, some (l, t)) =>
      let done := performedLanes s h (ls.map Prod.fst)
      let go := ls.filter (fun e => done.contains e.1)
      sideFault (noteBad (redLanes (noteAll s go) h x go) h .store (ea l) n) l 8 done t
    | (ls, none) => laneIssued (redLanes (noteAll s ls) h x ls) x none)
end Atomics

section Renewal
/-- What a renewal reply reads: whether every version and word equals the copy's (14 R325). -/
def renewalMatches (m : Mem) (c : SCopy) : Bool :=
  (c.words == (List.range 16).map (fun i => (readLoc m (.mem (c.line * 64 + 4 * i)) 4).setWidth 32)) &&
  (c.vers == (List.range 4).map (fun q => tget 0 m.vers (c.line * 4 + q)))
/-- The group's state before a consuming load, with that load and all it has issued since back at the head of the queue (14 R326); counts of
LRUNRs among them have been traced (16 R370). -/
def replayHart (h : Hart) (p : Spec) (later : List Spec) : Hart :=
  let again := (p :: later).flatMap (fun q => q.issued)
  { h with v := p.v, m := p.m, pend := p.pend, csr := tset 0 h.csr 0x803 p.lfflags, spec := [],
           laneQ := again.map (fun (e : LaneEntry) => { e with cnt := none }) ++ h.laneQ,
           instret := h.instret - dw (again.filter (fun e => e.rem == 1)).length }
/-- LEASE_RENEWAL_REPLY (14 R325, R326): the reply for the oldest copy consumed whose renewal is outstanding. It is compared with what
was consumed. The oldest load, and what it has issued before the next consuming load, become final when its replies all match; where one does
not, the group issues again from that load. -/
def execLeaseRenewalReply (h : Nat) (s : State) : Out :=
  let k := hartAt s h
  match k.spec with
  | [] => .next s
  | p :: later =>
    match p.lines with
    | [] => .next (setHart s h { k with spec := later })
    | c :: rest =>
      if heldRead s (.mem (c.line * 64)) 64 then .next s
      else
        let p := { p with lines := rest, mismatch := p.mismatch || !renewalMatches s.mem c }
        let s := count (fillCopy s (l1Holder k.tile) c.line) 2 k.tile 0 4 1
        if !rest.isEmpty then .next (setHart s h { k with spec := p :: later })
        else if p.mismatch then .next (count (setHart s h (replayHart k p later)) 2 k.tile 0 5 1)
        else .next (setHart s h { k with spec := later })
end Renewal

end Sys2Proof.Machine
end

