-- ==== Sys2Proof/Machine/LaneMatrix.lean ====
section
/-! DEFINITION. MMA and the accumulator transfers (09 R232–R240; 03 R81–R85). -/
namespace Sys2Proof.Machine

section Tiles
/-- A tile field read as a source of kind 00 or as VD: bits 9:4 are 0 and VCNT does not bound it (R236). -/
def tileSrc : Src := { kinds := [0], span := 0 }
/-- Binds tile names in rising order, all or none: the first that the quota refuses (R50, R232). -/
def bindAll (h : Hart) : List Nat → Except Nat Hart
  | [] => .ok h
  | n :: r => match bindName h n with
    | some h => bindAll h r
    | none => .error n
/-- An instruction that names tiles (R236): a failure of an earlier ACCST on one of them is taken first (R240), a PINNED one holds it,
and the rest are bound. -/
def withTiles (names : List Nat) (s : State) (h : Hart) (f : State → Hart → State) : State :=
  if h.accFails.any (fun e => names.contains e.name) then
    (let s := laneHeld s .nothing
     match accFaultTake s s.cur with
     | some s => s
     | none => s)
  else if names.any (fun n => accSt h n == 2) then laneHeld s .nothing
  else match bindAll h names with
    | .error n => laneTrap s { cause := 48, tval := dw n, detail := some n }
    | .ok h => f (setCur s h) h
end Tiles

section Multiply
/-- TY of A as a format code: 7 fp4, 4 e4m3, 6 s8, 2 bf16. -/
def mmaFmt (ty : Nat) : Nat :=
  match ty with
  | 11 => 7
  | 5 => 4
  | 7 => 6
  | _ => 2
/-- Width of an A element, and the registers of the A span (R232). -/
def mmaWidth (f : Nat) : Nat := if f = 7 then 4 else fmtWidth f
def mmaSpan (f : Nat) : Nat := if f = 7 then 5 else mmaWidth f
/-- The operand pairs of R81. -/
def mmaPair (a b : Nat) : Bool := (a == b) || (a == 4 && b == 7)
/-- Lanes active in a quarter. -/
def quarterLanes (m : Mask) (q : Nat) : Nat := ((List.range 32).filter (fun j => m.getLsbD (32 * q + j))).length
def quarters (m : Mask) : List Nat := (List.range 4).filter (fun q => quarterLanes m q == 32)
def mmaSlot (x : LaneOp) : Nat := modF x 8 2
def mmaCol (x : LaneOp) : Nat := modF x 10 2
/-- The plan of MMA; `m` is its effective mask and `w` the slot it names, if its workgroup has claimed it and it is loaded. -/
def mmaPlan (x : LaneOp) (m : Mask) (w : Option WSlot) : Plan :=
  let f := mmaFmt (opTy x)
  withTypes x [0] (fun _ => [3, 5, 7, 11])
    { a := some (vecSpan (mmaSpan f)), b := if f = 7 then some { kinds := [1] } else none, assigned := 0xF00, vspan := 0,
      vwrite := false,
      bad := decide (16 ≤ opVd x) || (List.range 4).any (fun q => quarterLanes m q != 0 && quarterLanes m q != 32) ||
        (quarters m).any (fun q => decide (15 < opVd x + q)) ||
        (match w with
         | some w => decide (128 / slotCols w.fmt ≤ mmaCol x) || !mmaPair f w.fmt
         | none => false) }
/-- Row i of quarter q of A: integers, multipliers and poison flags (R233, R82). -/
def mmaRow (h : Hart) (x : LaneOp) (q i : Nat) : List Int × List (Nat × Int) × List Bool :=
  let f := mmaFmt (opTy x); let w := mmaWidth f; let k := 32 / w
  let els := (List.range 128).map (fun e =>
    elBits w (h.getV (opSa x + e % 32 / k) (32 * q + 4 * i + e / 32)) (e % k))
  let scales := (List.range 16).map (fun b =>
    if f = 7 then elBits 8 (h.getV (opSa x + 4) (32 * q + 4 * i + b / 4)) (b % 4) else 0)
  rowInts f els scales
/-- The exact sum F of a row and a column as a multiple of 2^−280 (R84). -/
def passSum (a b : List Int × List (Nat × Int) × List Bool) : Int :=
  (List.range 16).foldl (fun t k =>
    let p := ((a.1.drop (8 * k)).take 8).zip ((b.1.drop (8 * k)).take 8) |>.foldl (fun t e => t + e.1 * e.2) (0 : Int)
    let sa := a.2.1.getD k (1, 0); let sb := b.2.1.getD k (1, 0)
    t + p * (sa.1 * sb.1 : Nat) * 2 ^ (sa.2 + sb.2 + 280).toNat) 0
/-- One pass into one f32 accumulator element (R84). -/
def passF32 (a b : List Int × List (Nat × Int) × List Bool) (bandA bandB acc : Nat) : Nat × Flags :=
  let va := fDecode fmtBF16 bandA; let vb := fDecode fmtBF16 bandB
  let (t, fl) : Nat × Flags :=
    if a.2.2.any id || b.2.2.any id then (fmtF32.canonNan, flNV)
    else match va, vb with
      | .fin na ma ea, .fin nb mb eb =>
        let f := passSum a b
        let m := f.natAbs * ma * mb
        if m = 0 then (0, 0) else fRound fmtF32 0 false ((decide (f < 0) != na) != nb) m (ea + eb - 280)
      | _, _ => (fmtF32.canonNan, flNV)
  let r := fAdd fmtF32 0 false acc t
  (r.1, fl ||| r.2)
/-- One pass into one s32 accumulator element. -/
def passS32 (a b : List Int) (acc : Nat) : Nat := wrapTo 32 ((a.zip b).foldl (fun t e => t + e.1 * e.2) (acc : Int))
/-- The passes of one quarter (R234): the hart with its tile written, and the flags. -/
def mmaQuarter (x : LaneOp) (w : WSlot) (q : Nat) (h : Hart) (fl : Flags) : Hart × Flags :=
  let n := slotCols w.fmt; let tile := opVd x + q
  let bandA := if mmaFmt (opTy x) = 7 then bitsOf h.iss.capB 0 16 else 0x3F80
  (List.range 8).foldl (fun (st : Hart × Flags) i =>
    let a := mmaRow h x q i
    (List.range n).foldl (fun (st : Hart × Flags) j =>
      let b := (w.ints.getD j [], w.mults.getD j [], w.poison.getD j [])
      let l := mmaCol x * n + j
      let acc := (getAcc st.1 tile i l).toNat
      if mmaFmt (opTy x) = 6 then (setAcc st.1 tile i l (wd (passS32 a.1 b.1 acc)), st.2)
      else
        let r := passF32 a b bandA (w.bands.getD j 0).toNat acc
        (setAcc st.1 tile i l (wd r.1), st.2 ||| r.2)) st) (h, fl)
/-- Radix-4 digits of an A element (03 R81). -/
def mmaDigits (f : Nat) : Nat :=
  match f with
  | 7 => 3
  | 2 => 8
  | _ => 4
/-- Digit j of an A integer of d digits (03 R83): the last is signed. -/
def mmaDigit (d j : Nat) (a : Int) : Int :=
  let v := (a % 4 ^ d).toNat / 4 ^ j % 4
  if j + 1 = d ∧ 2 ≤ v then (v : Int) - 4 else v
/-- The integers presented at once for quarter q. DESIGN CHOICE (notes/assumptions/21): a slice spans the eight rows of a quarter, or of the
quarters that are fused, and not one row. -/
def passInts (h : Hart) (x : LaneOp) (q : Nat) : List Int := (List.range 8).flatMap (fun i => (mmaRow h x q i).1)
/-- Slices of a stream that are not skipped: those with a digit other than 0 (03 R83). -/
def liveSlices (d : Nat) (as : List Int) : Nat := ((List.range d).filter (fun j => as.any (fun a => mmaDigit d j a != 0))).length
/-- The quarters in the streams that present them: which of them are fused is the engine's choice (03 R85; notes/assumptions/21). -/
def fuseQuarters (choice : Nat) (qs : List Nat) : List (List Nat) :=
  qs.foldl (fun (a : List (List Nat)) q => match a.getLast? with
    | some g => if choice.testBit q then a.dropLast ++ [g ++ [q]] else a ++ [[q]]
    | none => [[q]]) []
/-- Slices streamed and skipped by the passes of an MMA (03 R83; 16 R362). -/
def sliceCounts (h : Hart) (x : LaneOp) (choice : Nat) (qs : List Nat) : Nat × Nat :=
  let d := mmaDigits (mmaFmt (opTy x))
  (fuseQuarters choice qs).foldl (fun (a : Nat × Nat) g =>
    let n := liveSlices d (g.flatMap (passInts h x))
    (a.1 + n, a.2 + (d - n))) (0, 0)
/-- MMA (R232–R235). DESIGN CHOICE (notes/assumptions/90): of several reasons to trap, an unclaimed or unloaded slot comes first, then an
energy allowance of 0, then a tile that the quota refuses. -/
def execMma (f : LaneL) (s : State) : Out :=
  let x := lOp 0x68 f
  let h := curHart s
  let h := laneReady s.clk h x (mmaPlan x 0 none)
  let key := wslotKey h.tile (subcoreOf h.slot) (mmaSlot x)
  let sl := wslotAt s key
  let mine := sl.owner == h.wg
  laneRun x (mmaPlan x (laneActive h x) (if mine && sl.loaded then some sl else none)) s (fun s h m =>
    if !mine || !sl.loaded then
      laneTrap s { cause := 49, tval := dw (mmaSlot x), detail := some ((if mine then 4 else 0) + mmaSlot x) }
    else if (partAt s (ownerOf s h)).allow = 0 then laneTrap s { cause := 52, tval := opWord0 x }
    else if energyHeld s (ownerOf s h) then laneHeld s .nothing
    else
      let qs := quarters m
      withTiles (qs.map (fun q => opVd x + q)) s h (fun s h =>
        let n := sliceCounts h x (Config.freeCount s.free) qs
        let (h, fl) := qs.foldl (fun (st : Hart × Flags) q => mmaQuarter x sl q st.1 st.2) (h, 0)
        let sc := subcoreOf h.slot
        let s := count (count (count s 1 h.tile sc 0 qs.length) 1 h.tile sc 1 n.1) 1 h.tile sc 2 n.2
        laneIssued (setCur { s with free := s.free + 1 } h) x (some (flagsOnly fl))))
end Multiply

section Transfers
def accTypes : List Nat := [0, 1, 2, 3, 4, 5, 6, 7, 9]
/-- An accumulator element in a type (R236): its bits and flags. -/
def accElement (h : Hart) (x : LaneOp) (w : Word) : Nat × Flags :=
  let ty := opTy x
  if ty ≤ 2 then (w.toNat, 0)
  else if tyFloat ty then cvtFF fmtF32 (tyFmt ty) (opRound h x) (opSat x) w.toNat
  else
    let v := w.toInt
    (if opSat x then clampTo true (tyWidth ty) v else wrapTo (tyWidth ty) v, 0)
/-- ACCLD (R237). -/
def accldPlan (x : LaneOp) : Plan :=
  withTypes x [0] (fun _ => [0, 1, 2]) { a := some (vecSpan 8), vspan := 0, vwrite := false, bad := decide (16 ≤ opVd x) }
def execAccld (f : LaneL) (s : State) : Out :=
  let x := lOp 0x69 f
  laneRun x (accldPlan x) s (fun s h m =>
    withTiles [opVd x] s h (fun s h =>
      let h := (lanesOf m).foldl (fun h l =>
        (List.range 8).foldl (fun h i => setAcc h (opVd x) i l (h.getV (opSa x + i) l)) h) h
      laneIssued (setCur s h) x none))
/-- ACCRD (R238). -/
def accrdPlan (x : LaneOp) : Plan :=
  withTypes x [0] (fun _ => accTypes)
    { a := some tileSrc, vspan := tyWidth (opTy x) / 4, assigned := roundBits + satBit, bad := decide (16 ≤ opSa x) }
def execAccrd (f : LaneL) (s : State) : Out :=
  let x := lOp 0x6A f
  laneRun x (accrdPlan x) s (fun s h m =>
    withTiles [opSa x] s h (fun s h =>
      let w := tyWidth (opTy x); let k := 32 / w
      laneIssued s x (some (vectorResult x (accrdPlan x) none m (fun l =>
        let rs := (List.range 8).map (fun i => accElement h x (getAcc h (opSa x) i l))
        ((chunksOf k (8 / k) (rs.map Prod.fst)).map (packWord w), rs.foldl (fun a r => a ||| r.2) 0))))))
end Transfers

section Epilogue
def accstPlan (x : LaneOp) : Plan :=
  withTypes x [0] (fun _ => accTypes)
    { a := some { kinds := [1] }, b := some { kinds := [1] }, assigned := 0x100 + roundBits + satBit, vspan := 0, vwrite := false,
      bad := decide (16 ≤ opVd x) }
/-- KIND of a failed element (R222). -/
def accKind (t : Trap) : Nat := if t.cause = 6 then 3 else if t.cause = 7 then 2 else 1
/-- Stores the elements in order up to the first that fails (R239, R240): row, lane and address of each. -/
def accStores (x : LaneOp) (put : Bool) (h : Hart) : State → Flags → List (Nat × Nat × DWord) → State × Flags × Option AccFail
  | s, fl, [] => (s, fl, none)
  | s, fl, (i, l, a) :: r =>
    let n := tyWidth (opTy x) / 8
    match vaPlace s h .store .amo n a with
    | .error t => (noteBad s h .store a n, fl, some { addr := a, lane := l, kind := accKind t, name := opVd x })
    | .ok q =>
      let e := accElement h x (getAcc h (opVd x) i l)
      let s := q.note s
      let s := if q.mode = 1 then dropCopies s h.tile q.loc n else s
      let s := modMem s (fun m => { m with net := m.net ++ [{
        newReq s s.cur q.loc q.mode n (dw e.1) with accName := if put then some (opVd x) else none, va := a }] })
      accStores x put h s (fl ||| e.2) r
/-- ACCST (R239): the tile is read at once; with PUT it is PINNED until its stores are acknowledged. -/
def execAccst (f : LaneL) (s : State) : Out :=
  let x := lOp 0x6B f
  laneRun x (accstPlan x) s (fun s h m =>
    withTiles [opVd x] s h (fun s h =>
      let put := x.mods.testBit 8
      let w := tyWidth (opTy x)
      let els := (List.range 8).flatMap (fun i => (lanesOf m).map (fun l =>
        (i, l, h.iss.capA + dw i * h.iss.capB + dw (l * (w / 8)))))
      if els.any (fun e => walkWaits s (dataCtx h) h.lkey .store e.2.2) then laneHeld s (walksWait s h .store (els.map (fun e => e.2.2)))
      else
      let (s, fl, bad) := accStores x put h s 0 els
      let h := match bad with
        | some e => { h with accFails := h.accFails ++ [e] }
        | none => if !put then h else if els.isEmpty then unbindName h (opVd x) else setAccSt h (opVd x) 2
      laneIssued (setCur s h) x (some (flagsOnly fl))))
/-- ACCST_STORES_ACKED (02 R50): a PINNED tile whose stores are all in home order becomes UNBOUND. -/
def execAccstStoresAcked (h t : Nat) (s : State) : Out :=
  let k := hartAt s h
  if (tfind s.harts h).isSome && accSt k t == 2 && !s.mem.net.any (fun r => r.agent == h && r.accName == some t) then
    .next (setHart s h (unbindName k t)) else .next s
/-- ACCST_STORE_FAULT (R240): a known failure is taken at the group's next boundary. -/
def execAccstStoreFault (h : Nat) (s : State) : Out :=
  if (tfind s.harts h).isSome && mayInterrupt s (hartAt s h) then
    (match accFaultTake s h with
     | some s => .next s
     | none => .next s) else .next s
end Epilogue

end Sys2Proof.Machine
end

