-- ==== Sys2Proof/Machine/Head.lean ====
section
/-! DEFINITION. Whether the head of a lane queue could issue: what an instruction asks of its fields by opcode, and the scoreboard's
holds (13 R299; 05 R135–R137; 14 R326; 09 R236; 13 R307). -/
namespace Sys2Proof.Machine

section Plans
/-- The fields of a lane word as its opcode's form reads them (05 R131). -/
def headOp (w : BitVec 96) : LaneOp :=
  let opc := field w.toNat 0 8
  if w.getLsbD 7 then jOp opc (laneJ w) else lOp opc (laneL w)
/-- Opcodes that have a J form (05 R135). -/
def hasJ (o : Nat) : Bool :=
  [0x00, 0x01, 0x02, 0x03, 0x05, 0x06, 0x08, 0x09, 0x0A, 0x0B, 0x0C, 0x0D, 0x20, 0x21, 0x22, 0x24, 0x25, 0x38, 0x39, 0x40].contains o ||
    decide (0x50 ≤ o ∧ o ≤ 0x58)
/-- The plan of an integer operation. -/
def intPlanOf (x : LaneOp) (o : Nat) : Option Plan :=
  if o ≤ 0x01 then some (addPlan x)
  else if o = 0x02 then some (mulPlan x)
  else if o = 0x03 then some (mulhPlan x)
  else if o = 0x04 then some (madPlan x)
  else if o ≤ 0x06 then some (minPlan x)
  else if o = 0x07 then some (absPlan x)
  else if o ≤ 0x0A then some (shiftPlan x)
  else if o ≤ 0x0D then some (logicPlan x)
  else if o = 0x0E then some (lop3Plan x)
  else if o ≤ 0x10 then some (onePlan x)
  else if o = 0x11 then some (bfePlan x)
  else if o = 0x12 then some { bfePlan x with vread := true }
  else none
/-- The plan of a floating-point, conversion, comparison, movement or reduction operation. -/
def movePlanOf (x : LaneOp) (o : Nat) : Option Plan :=
  if o < 0x20 then none
  else if o ≤ 0x22 then some (floatPlan x)
  else if o = 0x23 then some { floatPlan x with c := some anySrc }
  else if o ≤ 0x25 then some { floatPlan x with assigned := 0 }
  else if o ≤ 0x29 then some (sfuPlan x)
  else if o = 0x30 then some (cvtPlan x)
  else if o = 0x31 then some (qntPlan x)
  else if o = 0x32 then some (dqtPlan x)
  else if o = 0x38 then some (icmpPlan x)
  else if o = 0x39 then some (fcmpPlan x)
  else if o = 0x3A then some (selPlan x)
  else if o = 0x40 then some (movPlan x)
  else if o = 0x41 then some (shflPlan x)
  else if o = 0x42 then some (bcstPlan x)
  else if o = 0x43 then some (lredPlan x)
  else if o = 0x44 then some (lscanPlan x)
  else if o = 0x45 then some (dispPlan x)
  else none
/-- The hart as an MMA's effective mask sees it: every result the instruction waits for written. -/
def mmaReady (s : State) (h : Hart) (x : LaneOp) : Hart := laneReady s.clk h x (mmaPlan x 0 none)
/-- The plan of a memory, matrix, limb or empty operation. -/
def unitPlanOf (s : State) (h : Hart) (x : LaneOp) (o : Nat) : Option Plan :=
  if o = 0x50 then some (loadPlan x)
  else if o = 0x51 then some (storePlan x)
  else if o = 0x52 then some (padPlan x 0)
  else if o = 0x53 then some (stsPlan x)
  else if o = 0x54 ∨ o = 0x55 then some (fePlan h x true)
  else if o = 0x56 ∨ o = 0x57 then some (fePlan h x false)
  else if o = 0x58 then some (pfPlan x)
  else if o = 0x60 then some (amoPlan x)
  else if o = 0x61 then some (redMemPlan x)
  else if o = 0x68 then
    let sl := wslotAt s (wslotKey h.tile (subcoreOf h.slot) (mmaSlot x))
    some (mmaPlan x (laneActive (mmaReady s h x) x) (if sl.owner == h.wg && sl.loaded then some sl else none))
  else if o = 0x69 then some (accldPlan x)
  else if o = 0x6A then some (accrdPlan x)
  else if o = 0x6B then some (accstPlan x)
  else if 0x70 ≤ o ∧ o ≤ 0x75 then
    let p := if o ≤ 0x71 then limbAddPlan x else if o ≤ 0x73 then limbShiftPlan x else if o = 0x74 then lmacPlan h x else lcmpPlan x
    some { p with bad := p.bad || h.limbs == 0 }
  else if o = 0x78 then some (nopPlan x)
  else none
/-- What the instruction asks of its fields; nothing for a word that is no instruction (05 R136 checks 1 and 2). -/
def planOf (s : State) (h : Hart) (x : LaneOp) : Option Plan :=
  let o := x.opc % 128
  if x.j && !hasJ o then none
  else if o < 0x20 then intPlanOf x o
  else if o < 0x50 then movePlanOf x o
  else unitPlanOf s h x o
end Plans

section Held
/-- The accumulator tiles an instruction names (09 R236). -/
def namedTiles (s : State) (h : Hart) (x : LaneOp) : List Nat :=
  match x.opc with
  | 0x68 => (quarters (laneActive (mmaReady s h x) x)).map (fun q => opVd x + q)
  | 0x69 => [opVd x]
  | 0x6A => [opSa x]
  | 0x6B => [opVd x]
  | _ => []
/-- A tile it names is PINNED, and no failed store of one is to be taken first (09 R236, R240). -/
def tilesHeld (s : State) (h : Hart) (x : LaneOp) : Bool :=
  let names := namedTiles s h x
  !h.accFails.any (fun e => names.contains e.name) && names.any (fun n => accSt h n == 2)
/-- An MMA whose weight slot it may use and whose partition's energy allowance holds it (13 R307). -/
def energyHolds (s : State) (h : Hart) (x : LaneOp) : Bool :=
  let sl := wslotAt s (wslotKey h.tile (subcoreOf h.slot) (mmaSlot x))
  x.opc == 0x68 && sl.owner == h.wg && sl.loaded && (partAt s (ownerOf s h)).allow != 0 && energyHeld s (ownerOf s h)
/-- Whether the scoreboard, an accumulator tile or the energy allowance holds the entry in this clk (13 R299); one whose checks fail
issues into its trap, once no load value is speculative. -/
def headHeld (s : State) (k : Hart) (e : LaneEntry) : Bool :=
  let h := { k with iss := e }; let x := headOp e.word
  match (if e.bad.isSome then none else planOf s h x) with
  | none => !h.spec.isEmpty
  | some p =>
    specHeld h x || (match laneCheck h x p with
      | some _ => !h.spec.isEmpty
      | none => writeHeld s.clk h x p || energyHolds s h x || tilesHeld s h x)
end Held

end Sys2Proof.Machine
end

