-- ==== Sys2Proof/Machine/System.lean ====
section
/-! DEFINITION. System instructions: environment calls, returns, WFI, address-translation fences and hypervisor accesses
(05 R129; 06 R147; 12 R266, R274, R279; 14 R317). -/
namespace Sys2Proof.Machine

section Calls
/-- Cause of an environment call from each mode. -/
def ecallCause (h : Hart) : Nat :=
  match h.priv with
  | .u => 8
  | .s => if h.virt then 10 else 9
  | .m => 11
def execEcall (s : State) : Out :=
  scalar (insnBits .ecall) false [] s (fun h => trapCur s { cause := ecallCause h })
/-- EBREAK: the trap value is 0 or the pc, as the privileged architecture leaves open (notes/assumptions/18). -/
def execEbreak (s : State) : Out :=
  scalar (insnBits .ebreak) false [] s (fun h =>
    trapCur s { cause := 3, tval := if Config.ebreakTval then h.pc else 0, gva := Config.ebreakTval && h.virt })
end Calls

section Returns
/-- LRUN or LRUNR at an address, which an SRET may resume (R147). -/
def holdsLrun (s : State) (h : Hart) (a : DWord) : Bool :=
  match fetchWord s h a with
  | .error _ => false
  | .ok (_, w) => opF w == 0x0B && (match decodeCustom0 w with
    | .ok (.lrun n) => decide (1 ≤ n.toNat ∧ n.toNat ≤ 64)
    | .ok (.lrunr _) => true
    | _ => false)
/-- The count that the LRUNR at the pc reports when it retires (16 R370). -/
def resumeCount (s : State) (h : Hart) : Option Nat :=
  match fetchWord s h h.pc with
  | .ok (_, w) => (match decodeCustom0 w with
    | .ok (.lrunr r) => some (h.getX r).toNat
    | _ => none)
  | .error _ => none
/-- The batch an SRET resumes: SLREM instructions from LPC, the first without the lanes already performed (R147; 09 R221).
`vs` names the copies of the mode that executed the SRET (12 R270). DESIGN CHOICE (notes/assumptions/92): bit 15 of SLANE counts as PART
whatever the cause of the trap that wrote it, an ACC_FAULT's EPI among them. -/
def resumeBatch (s : State) (h : Hart) (vs : Bool) : Hart :=
  let k := bankKey vs
  let n := bitsOf (h.getC (k 0x5C4)) 0 7
  if n = 0 then { h with pc := h.pc + 4, instret := h.instret + 1 }
  else
    let es := (batchEntries s h h.pc n h.lpc).map (fun (e : LaneEntry) => { e with cnt := resumeCount s h })
    let part := bitAt (h.getC (k 0x5C0)) 15 && h.getC (k 0x5C3) == h.lpc
    let es := match es with
      | e :: r => (if part then { e with skip := h.getC (k 0x5C2) ++ h.getC (k 0x5C1), resumed := true, resVs := vs } else e) :: r
      | [] => []
    { h with laneQ := es, lpc := h.lpc + dw (12 * n), pc := h.pc + 4 }
/-- The resume of an LRUN or LRUNR by an SRET in state s, whose hart as it returns is h: it waits while the fetch of its batch does. -/
def resumeLrun (s t : State) (h : Hart) (vs : Bool) : State :=
  let n := bitsOf (h.getC (bankKey vs 0x5C4)) 0 7
  if batchHeld s s.cur h n h.lpc then heldCur s (batchWait s s.cur h n h.lpc)
  else
    let t := batchNotes (fetchNote t h false h.pc) h n h.lpc
    setCur (match n, resumeCount s h with
      | 0, some c => traceAt t t.cur h.pc (.cnt c)
      | _, _ => t) (resumeBatch s h vs)
/-- SRET, with the resume of an interrupted LRUN batch while LRES is set: what stands at the return address decides, and the SRET waits
while that word cannot be fetched (17 R390; 14 R316). -/
def doSret (s : State) (h : Hart) : State :=
  let k := bankKey h.virt
  let h1 := { sretHart h with instret := h.instret + 1, run := .ready, wait := .nothing }
  let t := traceEvent s s.cur (.ind h1.pc)
  if bitAt (h.getC (k 0x5C5)) 0 then
    let h2 := h1.setC (k 0x5C5) 0
    if fetchHeld s s.cur h2 h2.pc then heldCur s (fetchWait s h2 h2.pc)
    else if holdsLrun s h2 h2.pc then resumeLrun s t h2 h.virt else setCur t h2
  else setCur t h1
/-- SRET: illegal in U and where TSR forbids it; virtual-instruction in VU and where VTSR forbids it. -/
def execSret (s : State) : Out :=
  let bits := insnBits .sret
  scalar bits false [] s (fun h =>
    if h.priv == .u then trapCur s (if h.virt then virtualInstr bits else illegal bits)
    else if h.virt then (if bitAt (h.getC 0x600) 22 then trapCur s (virtualInstr bits) else doSret s h)
    else if h.priv == .s && bitAt (h.getC 0x300) 22 then trapCur s (illegal bits)
    else doSret s h)
def execMret (s : State) : Out :=
  let bits := insnBits .mret
  scalar bits false [] s (fun h =>
    if h.priv == .m then
      let h1 := { mretHart h with instret := h.instret + 1, run := .ready, wait := .nothing }
      setCur (traceEvent s s.cur (.ind h1.pc)) h1
    else trapCur s (illegal bits))
/-- WFI waits until an interrupt is pending, enabled or not (R279); TW and VTW as the standard states, with a time limit of 0. -/
def execWfi (s : State) : Out :=
  let bits := insnBits .wfi
  scalar bits false [] s (fun h =>
    if h.priv != .m && bitAt (h.getC 0x300) 21 then trapCur s (illegal bits)
    else if h.priv == .u then trapCur s (if h.virt then virtualInstr bits else illegal bits)
    else if h.virt && bitAt (h.getC 0x600) 21 then trapCur s (virtualInstr bits)
    else if anyPending s h then retireCur s h
    else waitCur s .wfi)
end Returns

section Fences
/-- Drops the cached translations and table entries that pass, and keeps walks in flight with one from being installed (14 R317). -/
def tlbDrop (s : State) (p : Tlb → Bool) : State :=
  modMem s (fun m => { m with tlbs := m.tlbs.filter (fun t => !p t), walkCache := m.walkCache.filter (fun t => !p t),
                              walks := m.walks.map (fun w => if p w.entry || w.path.any p then { w with killed := true } else w) })
/-- Tiles a fence reaches: the partition's rectangle from VS, the package from HS and M (R317). -/
def fenceReach (s : State) (h : Hart) (t : Nat) : Bool :=
  if h.virt then (match partOf s h.tile with
    | some p => rectHas (partAt s p).rect t
    | none => t == h.tile) else true
/-- No write that left a tile the fence reaches is on its way, the far ones included, and no load of an agent there has still to return: a
tasklet's (01 R36), or a lane load's renewal (R317, R326). What waits for a grant or a full-empty word has reached its home
(notes/assumptions/84). -/
def fenceClear (s : State) (h : Hart) : Bool :=
  !s.mem.net.any (fun r => fenceReach s h r.src) && !s.mem.farOut.any (fun f => fenceReach s h f.req.src) &&
    !s.harts.any (fun e => (!e.2.spec.isEmpty && fenceReach s h e.2.tile) ||
      e.2.loads.any (fun p => p.value.isNone && fenceReach s h p.tile))
/-- A fence retires once the matching entries are gone and the writes that left the tiles it reaches have been performed (R317). -/
def fenceDone (s : State) (h : Hart) (p : Tlb → Bool) : State :=
  let s := tlbDrop s (fun t => cachesOf (fenceReach s h) t.tile && p t)
  let s := (flushIf (fun r => fenceReach s h r.src) s).1
  if fenceClear s h then retire s else heldCur s .fence
/-- The standard operands: an address in rs1, an ASID or VMID in rs2; x0 names all. An address names the whole leaf that maps it, of
which a cached entry may hold a part (R315). -/
def vaMatch (rs1 : Reg) (va page lvl : Nat) : Bool := rs1 == 0 || va / 4096 / 512 ^ lvl == page / 512 ^ lvl
def firstMatch (rs1 : Reg) (va : Nat) (t : Tlb) : Bool := vaMatch rs1 va t.vpage (if t.stage1 then t.lvl1 else t.lvl2)
def asidMatch (rs2 : Reg) (asid : Nat) (t : Tlb) : Bool := rs2 == 0 || (t.asid == asid && !t.glob)
def execSfenceVma (rs1 rs2 : Reg) (s : State) : Out :=
  let bits := insnBits (.sfenceVma rs1 rs2)
  scalar bits false [rs1, rs2] s (fun h =>
    if h.priv == .u then trapCur s (if h.virt then virtualInstr bits else illegal bits)
    else if h.virt && bitAt (h.getC 0x600) 20 then trapCur s (virtualInstr bits)
    else if !h.virt && h.priv == .s && bitAt (h.getC 0x300) 20 then trapCur s (illegal bits)
    else
      let va := (h.getX rs1).toNat; let asid := bitsOf (h.getX rs2) 0 16
      let vmid := bitsOf (h.getC 0x680) 44 14
      fenceDone s h (fun t => t.virt == h.virt && (!h.virt || !t.stage2 || t.vmid == vmid) && firstMatch rs1 va t &&
        asidMatch rs2 asid t))
/-- The bits of a hypervisor instruction. -/
def hypBits (f7 : BitVec 7) (rs2 rs1 : Reg) (f3 : BitVec 3) (rd : Reg) : DWord := (encR f7 rs2 rs1 f3 rd 0x73#7).setWidth 64
/-- Whether HS-level hypervisor instructions trap here, and how: virtual-instruction with V = 1, illegal in U unless `hu`. -/
def hypTrap (h : Hart) (bits : DWord) (hu : Bool) : Option Trap :=
  if h.virt then some (virtualInstr bits)
  else if h.priv == .u && !(hu && bitAt (h.getC 0x600) 9) then some (illegal bits)
  else none
def execHfenceVvma (rs1 rs2 : Reg) (s : State) : Out :=
  let bits := hypBits 17#7 rs2 rs1 0#3 0#5
  scalar bits false [rs1, rs2] s (fun h =>
    match hypTrap h bits false with
    | some t => trapCur s t
    | none =>
      let va := (h.getX rs1).toNat; let asid := bitsOf (h.getX rs2) 0 16; let vmid := bitsOf (h.getC 0x680) 44 14
      fenceDone s h (fun t => t.virt && (!t.stage2 || t.vmid == vmid) && firstMatch rs1 va t && asidMatch rs2 asid t))
/-- HFENCE.GVMA: rs1 holds a guest-physical address shifted right by 2. -/
def execHfenceGvma (rs1 rs2 : Reg) (s : State) : Out :=
  let bits := hypBits 49#7 rs2 rs1 0#3 0#5
  scalar bits false [rs1, rs2] s (fun h =>
    match hypTrap h bits false with
    | some t => trapCur s t
    | none =>
      if h.priv == .s && bitAt (h.getC 0x300) 20 then trapCur s (illegal bits)
      else
        let gpa := (h.getX rs1).toNat * 4; let vmid := bitsOf (h.getX rs2) 0 14
        fenceDone s h (fun t => t.virt && t.stage2 && vaMatch rs1 gpa t.gpage t.lvl2 && (rs2 == 0 || t.vmid == vmid)))
end Fences

section Hypervisor
/-- A hypervisor load (the standard HLV and HLVX): translated as the guest's access at the privilege of hstatus.SPVP. -/
def hlvOp (bits : DWord) (rd rs1 : Reg) (n : Nat) (signed x : Bool) (s : State) : Out :=
  scalar bits false [rd, rs1] s (fun h =>
    match hypTrap h bits true with
    | some t => trapCur s t
    | none => loadIn s (hlvCtx h x) 0 rd (h.getX rs1) n signed)
def hsvOp (bits : DWord) (rs1 rs2 : Reg) (n : Nat) (s : State) : Out :=
  scalar bits false [rs1, rs2] s (fun h =>
    match hypTrap h bits true with
    | some t => trapCur s t
    | none => storeIn s (hlvCtx h false) 0 (h.getX rs1) n (h.getX rs2))
def execHlvB (rd rs1 : Reg) (s : State) : Out :=
  hlvOp (hypBits 48#7 0#5 rs1 4#3 rd) rd rs1 1 true false s
def execHlvBu (rd rs1 : Reg) (s : State) : Out :=
  hlvOp (hypBits 48#7 1#5 rs1 4#3 rd) rd rs1 1 false false s
def execHlvH (rd rs1 : Reg) (s : State) : Out :=
  hlvOp (hypBits 50#7 0#5 rs1 4#3 rd) rd rs1 2 true false s
def execHlvHu (rd rs1 : Reg) (s : State) : Out :=
  hlvOp (hypBits 50#7 1#5 rs1 4#3 rd) rd rs1 2 false false s
def execHlvW (rd rs1 : Reg) (s : State) : Out :=
  hlvOp (hypBits 52#7 0#5 rs1 4#3 rd) rd rs1 4 true false s
def execHlvWu (rd rs1 : Reg) (s : State) : Out :=
  hlvOp (hypBits 52#7 1#5 rs1 4#3 rd) rd rs1 4 false false s
def execHlvD (rd rs1 : Reg) (s : State) : Out :=
  hlvOp (hypBits 54#7 0#5 rs1 4#3 rd) rd rs1 8 false false s
def execHlvxHu (rd rs1 : Reg) (s : State) : Out :=
  hlvOp (hypBits 50#7 3#5 rs1 4#3 rd) rd rs1 2 false true s
def execHlvxWu (rd rs1 : Reg) (s : State) : Out :=
  hlvOp (hypBits 52#7 3#5 rs1 4#3 rd) rd rs1 4 false true s
def execHsvB (rs1 rs2 : Reg) (s : State) : Out :=
  hsvOp (hypBits 49#7 rs2 rs1 4#3 0#5) rs1 rs2 1 s
def execHsvH (rs1 rs2 : Reg) (s : State) : Out :=
  hsvOp (hypBits 51#7 rs2 rs1 4#3 0#5) rs1 rs2 2 s
def execHsvW (rs1 rs2 : Reg) (s : State) : Out :=
  hsvOp (hypBits 53#7 rs2 rs1 4#3 0#5) rs1 rs2 4 s
def execHsvD (rs1 rs2 : Reg) (s : State) : Out :=
  hsvOp (hypBits 55#7 rs2 rs1 4#3 0#5) rs1 rs2 8 s
end Hypervisor

end Sys2Proof.Machine
end

