-- ==== Sys2Proof/Machine/Issue.lean ====
section
/-! DEFINITION. Issue on a sub-core (13 R299–R301): which agents may try their next instruction, the offers of a clk, their
ranking, the two picks and the starvation boost; and the hardware events that act on one hart. -/
namespace Sys2Proof.Machine

section Offers
/-- Whether a wait that is re-examined is over (01 R18). The others end by an event of their own. -/
def overNow (s : State) (k : Nat) (h : Hart) (w : WaitOn) : Bool :=
  match w with
  | .nothing => true
  | .laneSpace n => decide (h.laneQ.length + n ≤ 64)
  | .writes => !mustWait s k
  | .place l n write => !placeBlocked s k l n write
  | .copyQueue => (cpyEntry s h.tile).isSome
  | .room t => homeRoom s t (launchAt s h.lkey).pid
  | .tile n => accSt h n != 2
  | .fence => fenceClear s h
  | .wfi => anyPending s h
  | _ => false
/-- Whether what a waiting instruction re-examines at its turn lets it go on. -/
def waitOver (s : State) (k : Nat) (h : Hart) : Bool := overNow s k h h.wait
/-- Whether an agent's next scalar instruction may be tried: it is resident and its wait, if any, is over (01 R18, R34). -/
def mayTry (s : State) (k : Nat) (h : Hart) : Bool :=
  (if h.tasklet then (match h.place with
    | .slot .. => h.migrateTo.isNone
    | _ => false)
   else h.run != .empty && h.run != .exited) && h.run != .stopped && (!h.stopReq || h.wait == .fence || h.indiv) &&
  decide (h.pauseTo ≤ s.clk) && h.spec.isEmpty && h.laneFe.isNone && waitOver s k h
/-- A member of a terminated workgroup is brought to its end at its boundary (01 R23), once an indivisible instruction has retired (06
R165) and every renewal has returned (14 R326). -/
def dueEnd (s : State) (h : Hart) : Bool := !h.tasklet && h.ended == 0 && !h.indiv && h.spec.isEmpty && (wgAt s h.wg).terminated &&
  (match h.wait with
   | .exit _ => false
   | .drain => false
   | .placing .. => false
   | .fence => false
   | _ => true)
/-- LRUN and LRUNR may append behind queued lane instructions; every other scalar instruction waits until the queue is empty
(06 R144). -/
def appends : Instr → Bool
  | .lrun n => decide (1 ≤ n.toNat ∧ n.toNat ≤ 64)
  | .lrunr _ => true
  | _ => false
/-- Whether a scalar word is LRUN or LRUNR. -/
def wordAppends (w : Word) : Bool := opF w == 0x0B && (match decodeCustom0 w with
  | .ok i => appends i
  | .error _ => false)
/-- Whether the scalar instruction at the pc appends a batch. -/
def nextAppends (s : State) (h : Hart) : Bool :=
  match fetchWord s h h.pc with
  | .ok (_, w) => wordAppends w
  | .error _ => false
/-- Lane results that a scalar instruction waits for (05 R137; 02 R57): x registers, and masks or flags where it may touch them. -/
def scalarWaits (w : Word) (p : Pending) : Bool :=
  p.x.isSome || (p.mask.isSome && !wordAppends w && (opF w == 0x0B || opF w == 0x7B)) || (p.flags != 0 && opF w == 0x73)
/-- Whether the scalar instruction at the pc waits for a lane result that is not written yet. -/
def laneClear (s : State) (h : Hart) : Bool :=
  h.pend.all (fun p => p.landed) || (match fetchWord s h h.pc with
    | .ok (_, w) => !h.pend.any (fun p => !p.landed && scalarWaits w p)
    | .error _ => true)
/-- Whether a scalar word would be held at its issue checks: an LRUN by the lane queue (06 R144; 08 R194), a CPY by a full streamer queue
(07 R182), an accumulator operation by a PINNED tile (07 R188). -/
def wordHeld (s : State) (k : Nat) (h : Hart) (w : Word) : Bool :=
  let batch := fun (n : Nat) => batchWaits s h n || batchHeld s k h n h.lpc
  let pinned := fun (t : Reg) => accSt h t.toNat == 2 && !h.accFails.any (fun e => e.name == t.toNat)
  if opF w = 0x0B then (match decodeCustom0 w with
    | .ok (.lrun n) => decide (1 ≤ n.toNat ∧ n.toNat ≤ 64) && batch n.toNat
    | .ok (.lrunr r) =>
      let n := (h.getX r).toNat
      regQueued h r || (if 64 < n ∨ n = 0 then !h.laneQ.isEmpty else batch n)
    | _ => false)
  else if opF w = 0x7B then (match decodeCustom3 w with
    | .ok (.cpy b r1 r2 r3) => cpyBlocked s h 0 b r1 r2 r3
    | .ok (.cpyRs b r1 r2 r3) => cpyBlocked s h 1 b r1 r2 r3
    | .ok (.cpyPf b r1 r3) => cpyBlocked s h 2 b r1 0 r3
    | .ok (.accGet t) => pinned t
    | .ok (.accPut t) => pinned t
    | .ok (.accZero t) => pinned t
    | _ => false)
  else false
/-- The instruction at the pc waits for its own fetch, or would be held at its issue checks. -/
def nextHeld (s : State) (k : Nat) (h : Hart) : Bool :=
  fetchHeld s k h h.pc || (match fetchWord s h h.pc with
    | .ok (_, w) => wordHeld s k h w
    | .error _ => false)
/-- What a boundary would take: an interrupt, or the fault of a posted store (12 R273; 15 R342). -/
def boundaryTrap (s : State) (h : Hart) : Bool := !h.lateFaults.isEmpty || (pendingIrq s h).isSome
/-- An interrupt is due while the LRUN at the pc waits for queue space: the queued instructions go on, and nothing is appended (06 R146). -/
def irqFirst (s : State) (h : Hart) : Bool :=
  (match h.wait with
   | .laneSpace _ => true
   | _ => false) && atBoundary h && boundaryTrap s h
/-- The pipe of a lane queue's head. -/
def headPipe (e : LaneEntry) : Nat := pipeOf (field e.word.toNat 0 8)
/-- A lane offer (R299): the stall count, the scoreboard and the pipe allow the head of the queue to issue in this clk (05 R137). -/
def offersLane (s : State) (h : Hart) : Bool :=
  h.run != .empty && h.run != .exited && h.run != .stopped && h.laneFe.isNone && h.laneWait == .nothing &&
    !(wgAt s h.wg).terminated && decide (h.nextLane ≤ s.clk) && (match h.laneQ with
     | [] => false
     | e :: _ => decide (tget 0 s.pipes (pipeKey h (headPipe e)) ≤ s.clk) && !headHeld s h e)
/-- A scalar offer (R299): the instruction at the pc could issue in this clk, or the group's boundary has an interrupt or its member's end
to take. -/
def offersScalar (s : State) (h : Hart) : Bool :=
  let k := hartKey h.tile h.slot
  dueEnd s h || (mayInterrupt s h && !offersLane s h && boundaryTrap s h) ||
    (mayTry s k h && (h.laneQ.isEmpty || nextAppends s h) && laneClear s h && !irqFirst s h && !nextHeld s k h)
/-- An offer: hart, lane or scalar, and the scalar pipe 0 or the lane instruction's. -/
structure Offer where
  hart : Nat
  lane : Bool
  pipe : Nat
  deriving DecidableEq, Repr
/-- The slots of a sub-core that hold a group. -/
def subcoreHarts (s : State) (tile sc : Nat) : List Nat :=
  ((List.range 12).map (fun i => hartKey tile (sc * 12 + i))).filter (fun k => (hartAt s k).run != .empty && (tfind s.harts k).isSome)
def offersOf (s : State) (tile sc : Nat) : List Offer :=
  (subcoreHarts s tile sc).flatMap (fun k =>
    let h := hartAt s k
    (if offersLane s h then [⟨k, true, (match h.laneQ with
      | e :: _ => headPipe e
      | [] => 5)⟩] else []) ++
    (if offersScalar s h then [⟨k, false, 0⟩] else []))
end Offers

section Picks
/-- A YIELD is in force (06 R161). -/
def yielding (s : State) (h : Hart) : Bool :=
  match h.yieldTo with
  | some t => decide (s.clk < t) && !h.yieldFor.isEmpty
  | none => false
/-- Placed after every other offering group: by YL or by a YIELD in force (R299). -/
def ranksLast (s : State) (h : Hart) : Bool := h.ylMark || yielding s h
/-- The ranking keys of an offer, smaller first (R299): last place, boost and its order, priority, round-robin position, lane
before scalar. -/
def rankKey (s : State) (tile sc : Nat) (o : Offer) : List Nat :=
  let h := hartAt s o.hart
  [if ranksLast s h then 1 else 0, if h.boost.isSome then 0 else 1, h.boost.getD 0, 3 - h.prio,
   (h.slot % 12 + 12 - tget 0 s.lastPick (tile * 8 + sc)) % 12, if o.lane then 0 else 1]
def lexLt : List Nat → List Nat → Bool
  | a :: r, b :: q => decide (a < b) || (a == b && lexLt r q)
  | _, _ => false
/-- The highest-ranked offer. -/
def bestOffer (s : State) (tile sc : Nat) (l : List Offer) : Option Offer :=
  l.foldl (fun (a : Option Offer) o => match a with
    | none => some o
    | some b => if lexLt (rankKey s tile sc o) (rankKey s tile sc b) then some o else some b) none
/-- The two picks of a clk (R299). DESIGN CHOICE (notes/assumptions/76): NOP has no pipe, and two NOP offers may both be picked. -/
def picksOf (s : State) (tile sc : Nat) : List Offer :=
  let os := offersOf s tile sc
  match bestOffer s tile sc os with
  | none => []
  | some a => a :: (bestOffer s tile sc (os.filter (fun o => o != a && (o.pipe != a.pipe || o.pipe == 5)))).toList
/-- What a clk's picks do to one group of the sub-core (R299, R301; R161). -/
def pickedHart (s : State) (offering picked : List Nat) (k : Nat) (h : Hart) : Hart :=
  let others := offering.any (fun j => j != k)
  let h1 := { h with yieldFor := h.yieldFor.filter (fun j => !picked.contains j),
                     ylMark := h.ylMark && !others }
  if picked.contains k then { h1 with starve := 0, boost := none }
  else if offering.contains k && !ranksLast s h then { h1 with starve := h.starve + 1 } else h1
/-- A group that does not offer is parked on one of the waits of WAIT_SYNC, a refused LRW's among them; every other is in WAIT_DEP (01 R18;
07 R172; 12 R279). -/
def parked (h : Hart) : Bool :=
  match h.wait with
  | .join _ | .bar .. | .gbar .. | .fullEmpty | .laneFullEmpty | .lrw | .wfi | .exit _ | .drain => true
  | .nothing => h.bounces != 0
  | _ => false
/-- The run state of a group in this clk (01 R18): READY while it offers (R299). -/
def currentRun (s : State) (h : Hart) : Run :=
  match h.run with
  | .empty => .empty
  | .exited => .exited
  | .stopped => .stopped
  | r =>
    if offersLane s h || offersScalar s h then .ready
    else if r == .fetch then .fetch
    else if parked h then .waitSync else .waitDep
/-- The entries that the LRUN or LRUNR at the pc waits for, the queue having too few: everything else would let it issue (06 R144). -/
def spaceWait (s : State) (k : Nat) (h : Hart) : Option Nat :=
  if h.wait != .nothing || h.laneQ.isEmpty || !mayTry s k h || !laneClear s h || fetchHeld s k h h.pc then none
  else match fetchWord s h h.pc with
    | .error _ => none
    | .ok (_, w) =>
      let need := fun (n : Nat) => if 1 ≤ n ∧ n ≤ 64 ∧ 64 < h.laneQ.length + n then some n else none
      if opF w ≠ 0x0B then none
      else match decodeCustom0 w with
        | .ok (.lrun n) => need n.toNat
        | .ok (.lrunr r) => if regQueued h r then none else need (h.getX r).toNat
        | _ => none
/-- A group in this clk: its run state, and the wait of an LRUN for queue space, which an interrupt is then taken before (06 R146). -/
def clockHart (s : State) (k : Nat) (h : Hart) : Hart :=
  match spaceWait s k (hartAt s k) with
  | some n => { h with run := currentRun s (hartAt s k), wait := .laneSpace n }
  | none => { h with run := currentRun s (hartAt s k) }
/-- Groups whose issued lane instruction was held and goes on in this clk, without a pick of its own (R299). -/
def laneRetries (s : State) (tile sc : Nat) : List Nat :=
  (subcoreHarts s tile sc).filter (fun k =>
    let h := hartAt s k
    h.laneWait != .nothing && h.run != .stopped && h.run != .exited && !h.laneQ.isEmpty && overNow s k h h.laneWait)
def pickStep (s : State) (tile sc : Nat) : State :=
  let ps := picksOf s tile sc
  let held := (laneRetries s tile sc).map Turn.lane
  let offering := (offersOf s tile sc).map Offer.hart
  let picked := ps.map Offer.hart
  let s1 := (subcoreHarts s tile sc).foldl (fun t k =>
    let t := modHart t k (fun h => clockHart s k (pickedHart s offering picked k h))
    if offering.contains k && !picked.contains k then count t 0 tile sc 2 1 else t) s
  match ps with
  | [] => { s1 with turns := s1.turns ++ held }
  | a :: _ =>
    { s1 with
      lastPick := tset 0 s1.lastPick (tile * 8 + sc) (((hartAt s a.hart).slot % 12 + 1) % 12),
      turns := s1.turns ++ held ++ ps.map (fun o => if o.lane then Turn.lane o.hart else Turn.scalar o.hart) }
/-- ISSUE_PICK (R299). -/
def execIssuePick (tile sc : Nat) (s : State) : Out := .next (pickStep s tile sc)
/-- STARVATION_BOOST (R301). -/
def execStarvationBoost (h : Nat) (s : State) : Out :=
  let k := hartAt s h
  if (tfind s.harts h).isSome && !k.tasklet && decide (240 ≤ k.starve) && k.boost.isNone then
    .next (count (bumpSeq (setHart s h { k with boost := some s.seqNo })) 0 k.tile (subcoreOf k.slot) 3 1)
  else .next s
/-- YIELD_EXPIRE (06 R161). -/
def execYieldExpire (h : Nat) (s : State) : Out :=
  let k := hartAt s h
  if k.yieldTo.isSome && !yielding s k then .next (setHart s h { k with yieldTo := none, yieldFor := [] }) else .next s
end Picks

section HartEvents
/-- LANE_RESULT_WRITE (05 R137): the oldest result that is due is written. -/
def landFirst (clk : Nat) (k : Hart) : Hart :=
  match k.pend.find? (writable clk) with
  | none => k
  | some p => { landOne k p with
      pend := pendTrim (k.pend.takeWhile (fun q => !writable clk q) ++
        (match k.pend.dropWhile (fun q => !writable clk q) with
         | [] => []
         | q :: r => { q with landed := true } :: r)) }
def execLaneResultWrite (h : Nat) (s : State) : Out :=
  if (tfind s.harts h).isSome then .next (modHart s h (landFirst s.clk)) else .next s
/-- TRAP_ENTRY (12 R273, R274): the interrupt that is due at a group's boundary, or a known failure of an accumulator store, is
taken. -/
def execTrapEntry (h : Nat) (s : State) : Out :=
  match takeIrq s h with
  | some s => .next s
  | none => .next s
/-- TIMER_EXPIRE (12 R277): pending timer bits are what `mipOf` computes from time and the compare registers, so the expiry
changes no stored state. -/
def execTimerExpire (_h : Nat) (s : State) : Out := .next s
/-- IMSIC_MESSAGE (12 R278). -/
def execImsicMessage (tile slot file : Nat) (ident : Word) (s : State) : Out :=
  if tile < 256 ∧ slot < 96 ∧ file < 2 then .next (imsicStore s tile slot file ident.toNat) else .next s
end HartEvents

end Sys2Proof.Machine
end

