-- ==== Sys2Proof/Machine/Coherence.lean ====
section
/-! DEFINITION. What homes, caches and walkers do on their own: writes entering home order (04 R103), remote updates (13 R303),
bounced and withdrawn full-empty accesses (07 R167, R168), reservation queues (07 R172), held writes and recalls (14 R320, R321), lease
sweeps (14 R324) and page walks (14 R316). -/
namespace Sys2Proof.Machine

section Home
/-- Whether an earlier write that it must follow is still on its way. -/
def behindEarlier (l : List Req) (i : Nat) (r : Req) : Bool := behind (l.take i) r
/-- Two remote updates of one lane instruction and one location (09 R223). -/
def sameUpdate (r q : Req) : Bool :=
  q.red.isSome && q.agent == r.agent && q.group == r.group && q.loc == r.loc && q.size == r.size && (q.group != 0 || q == r)
/-- A remote update arrives at its update unit (01 R37), with those of its instruction and location. -/
def joinUnit (s : State) (r : Req) : State :=
  modMem (bumpSeq s) (fun m => { m with net := m.net.map (fun (q : Req) => if sameUpdate r q then { q with arr := s.seqNo + 1 } else q) })
/-- A set-full write of a mailbox slot (04 R111): what the slot's parked accesses then do follows at once. -/
def fullWrite (s : State) (i : Nat) (r : Req) : State :=
  if heldWrite s r.agent r.loc 4 then s
  else setFullWrite (modMem s (fun m => { m with net := eraseAt m.net i })) r.loc (bitsOf r.data 0 32 |> wd)
/-- A CXL.mem read at its home, held like any read and behind its function's earlier writes of the word: the reply (04 R106, R111; 15 R342;
18 R394). -/
def hostRead (s : State) (i : Nat) (r : Req) : State :=
  let w := wordSpan r.loc r.size
  if (s.mem.net.take i).any (fun q => q.agent == r.agent && !q.read && overlaps q.loc q.size w.1 w.2) || heldRead s r.loc r.size then s
  else
    let s := modMem s (fun m => { m with net := eraseAt m.net i })
    if poisoned s r.loc r.size then modHub (notePoison s r.loc) (fun u => { u with reply := .poison })
    else modHub (l2Loc s r.loc r.size) (fun u => { u with reply := .value (readLoc s.mem r.loc r.size) })
/-- A request arrives at its home: the writes to its word on their way are performed in order unless they are held, and a remote update
joins its update unit (R103, R110; 01 R37). -/
def arrive (s : State) (i : Nat) : State :=
  match s.mem.net[i]? with
  | none => s
  | some r =>
    if r.read then hostRead s i r
    else if behindEarlier s.mem.net i r then s
    else if r.full then fullWrite s i r
    else if r.red.isSome then (if r.arr ≠ 0 then s else joinUnit s r)
    else
      let w := wordSpan r.loc r.size
      (flushIf (fun q => overlaps q.loc q.size w.1 w.2) s).1
def execHomeAccess (i : Nat) (s : State) : Out := .next (arrive s i)
/-- The remote update that an update unit executes next: the one that arrived first. -/
def nextUpdate (s : State) (tile : Nat) : Option (Nat × Req) :=
  (s.mem.net.zipIdx.foldl (fun (a : Option (Nat × Req)) (e : Req × Nat) =>
    if e.1.red.isSome && e.1.arr != 0 && homeTile e.1.loc == tile then (match a with
      | none => some (e.2, e.1)
      | some b => if e.1.arr < b.2.arr then some (e.2, e.1) else some b) else a) none)
/-- RED_UPDATE_EXECUTE (R303): one update. Those of its instruction that name its location are next, with no other write of it between
them (09 R223). -/
def execRedUpdateExecute (tile : Nat) (s : State) : Out :=
  match nextUpdate s tile with
  | none => .next s
  | some (i, r) =>
    let rest := (eraseAt s.mem.net i).map (fun (q : Req) => if sameUpdate r q then { q with begun := true } else q)
    match performReq (modMem s (fun m => { m with net := rest.filter (fun q => !sameUpdate r q) })) { r with begun := false } with
    | (t, true) => .next (modMem t (fun m => { m with net := rest }))
    | (t, false) => .next (modMem t (fun m => { m with net := s.mem.net }))
end Home

section FullEmpty
/-- Takes a park entry away. -/
def takePark (s : State) (i : Nat) : State := modMem s (fun m => { m with parks := eraseAt m.parks i })
def parkLimit (s : State) (p : Park) : Nat := (hartAt s p.agent).feLimit
/-- Whether an access has reached its retry limit (R91, R167). -/
def parkSpent (s : State) (p : Park) : Bool := decide (parkLimit s p ≤ p.retries)
/-- FE_BOUNCE (R91, R167): after 4,096 clk an entry is returned, and an access at its limit traps. -/
def execFeBounce (i : Nat) (s : State) : Out :=
  match s.mem.parks[i]? with
  | none => .next s
  | some p =>
    let p' : Park := if !p.bounced && decide (p.since + 4096 ≤ s.clk) then
        { p with bounced := true, since := s.clk, retries := p.retries + 1 } else p
    if p'.bounced && parkSpent s p' then .next (feTimeout (takePark s i) p')
    else .next (modMem s (fun m => { m with parks := modAt m.parks i (fun _ => p') }))
/-- FE_RESEND (R167): no sooner than 256 clk after the bounce. -/
def execFeResend (i : Nat) (s : State) : Out :=
  match s.mem.parks[i]? with
  | none => .next s
  | some p =>
    if p.bounced && decide (p.since + 256 ≤ s.clk) && !parkSpent s p && !heldWrite s p.agent p.loc 4 then
      .next (feSend (takePark s i) p)
    else .next s
/-- FE_WITHDRAWAL (R168): the interrupt, stop or termination that reached the agent takes its parked access back, if the owner has not
served it. -/
def execFeWithdrawal (i : Nat) (s : State) : Out :=
  match s.mem.parks[i]? with
  | none => .next s
  | some p =>
    if dueEnd s (hartAt s p.agent) then .next (endMember s p.agent)
    else match takeIrq s p.agent with
      | some s => .next s
      | none => .next s
end FullEmpty

section Queues
/-- LRW_GRANT (R170, R172): the first waiter of a queue without a holder becomes holder. -/
def execLrwGrant (q : Nat) (s : State) : Out :=
  match s.mem.resvs[q]? with
  | some r => .next (grantResv s r.dword)
  | none => .next s
/-- FE_TIMEOUT of a waiter (R172). -/
def waiterTimeout (s : State) (r : Resv) : State :=
  let h := hartAt s r.agent
  let s := leaveQueue s r.agent
  if h.tasklet then taskletTrapOp s r.agent 30 r.va else takeTrap s r.agent { cause := 30, tval := r.va, gva := h.virt }
/-- LRW_WAIT_RETRY (R172): one retry for every 4,096 clk queued; the agent's refusals count beside them. -/
def execLrwWaitRetry (q k : Nat) (s : State) : Out :=
  match s.mem.resvs[q]? with
  | none => .next s
  | some u =>
    match u.waiters[k]? with
    | none => .next s
    | some r =>
      let h := hartAt s r.agent
      if r.since + 4096 * (r.retries + 1) ≤ s.clk then
        (if h.feLimit ≤ h.bounces + r.retries + 1 then .next (waiterTimeout s r)
        else .next (modMem s (fun m => { m with resvs := modAt m.resvs q (fun u =>
          { u with waiters := modAt u.waiters k (fun r => { r with retries := r.retries + 1 }) }) })))
      else .next s
/-- RESERVATION_REVOKE (R172): a holder without SCH for 65,536 clk loses its reservation, which passes on. -/
def execReservationRevoke (q : Nat) (s : State) : Out :=
  match s.mem.resvs[q]? with
  | none => .next s
  | some u =>
    match u.holder with
    | none => .next s
    | some r =>
      if r.since + 65536 ≤ s.clk then .next (grantResv (passResv s r.agent u.dword) u.dword) else .next s
end Queues

section Reserved
/-- LR_HOLD_EXPIRE (R321): 128 clk after an LR read, the first write held by it enters home order and kills the reservation. -/
def execLrHoldExpire (i : Nat) (s : State) : Out :=
  match s.mem.lrs[i]? with
  | none => .next s
  | some r =>
    if r.clk + 128 ≤ s.clk then
      (match s.mem.net.findIdx? (fun q => q.agent != r.hart && overlaps q.loc q.size (.mem r.addr) r.size) with
      | some j => .next (arrive s j)
      | none => .next s)
    else .next s
/-- A recall is held while a directory mark of the line is younger than 128 clk (R321). -/
def recallHeld (s : State) (line : Nat) : Bool :=
  s.mem.lrs.any (fun r => !r.table && r.addr / 64 == line && decide (s.clk < r.clk + 128))
/-- RECALL (R320, R321): one that a mark holds back stays outstanding. -/
def execRecall (line : Nat) (s : State) : Out :=
  if recallHeld s line then
    .next (modMem s (fun m => { m with recalls := if m.recalls.contains line then m.recalls else m.recalls ++ [line] }))
  else .next (modMem s (fun m => { m with dir := tfilter (fun k => dirLine k != line) m.dir,
                                          lrs := m.lrs.filter (fun r => r.table || r.addr / 64 != line),
                                          recalls := m.recalls.filter (fun l => l != line) }))
end Reserved

section Caches
/-- LEASE_SWEEP (R324): at ticks that are multiples of 2^15. -/
def execLeaseSweep (tile : Nat) (s : State) : Out :=
  if s.clk % 524288 = 0 then
    let t := leaseTick s
    let s := modMem s (fun m => { m with copies := m.copies.filter (fun c =>
      !(c.holder / 16 == tile && decide (2 ^ 15 ≤ (t - c.grant).toNat))) })
    .next { s with harts := tmap (fun _ (h : Hart) =>
      if !h.tasklet && h.tile == tile && decide (2 ^ 15 ≤ (t - h.acqTick).toNat) then { h with av := false } else h) s.harts }
  else .next s
/-- Entries added to a cache that does not hold them. -/
def addNew (ts es : List Tlb) : List Tlb := ts ++ es.filter (fun e => !ts.contains e)
/-- PAGE_WALK_COMPLETE (R316, R317): the walk's result is installed unless an invalidation arrived during it. -/
def execPageWalkComplete (i : Nat) (s : State) : Out :=
  match s.mem.walks[i]? with
  | none => .next s
  | some w =>
    let m := { s.mem with walks := eraseAt s.mem.walks i }
    .next { s with mem := if w.killed then m else
      { m with tlbs := addNew m.tlbs [w.entry], walkCache := addNew m.walkCache w.path } }
end Caches

end Sys2Proof.Machine
end

