-- ==== Sys2Proof/Machine/Csr.lean ====
section
/-! DEFINITION. Control and status registers (02 R54–R62): which numbers exist and who reaches them, what a read gives, what a write
does, and the six Zicsr instructions (05 R129). The standard privileged registers follow the privileged architecture, the
hypervisor extension, Sstc and the IMSIC subset (12 R266–R279; notes/assumptions/4). -/
namespace Sys2Proof.Machine

section Numbers
/-- Standard registers by level: user counters, supervisor, hypervisor, VS and machine. -/
def stdUser (n : Nat) : Bool := decide (0xC00 ≤ n ∧ n ≤ 0xC02)
def stdSup (n : Nat) : Bool :=
  n == 0x100 || (decide (0x104 ≤ n ∧ n ≤ 0x106)) || n == 0x10A || decide (0x140 ≤ n ∧ n ≤ 0x144) || n == 0x14D || n == 0x150 ||
    n == 0x151 || n == 0x15C || n == 0x180
def stdHyp (n : Nat) : Bool :=
  n == 0x600 || decide (0x602 ≤ n ∧ n ≤ 0x607) || n == 0x60A || decide (0x643 ≤ n ∧ n ≤ 0x645) || n == 0x64A || n == 0x680 ||
    n == 0xE12 || n == 0x200 || n == 0x204 || n == 0x205 || decide (0x240 ≤ n ∧ n ≤ 0x244) || n == 0x24D || n == 0x250 ||
    n == 0x251 || n == 0x25C || n == 0x280
def stdMach (n : Nat) : Bool :=
  decide (0x300 ≤ n ∧ n ≤ 0x306) || n == 0x30A || n == 0x320 || decide (0x323 ≤ n ∧ n ≤ 0x33F) || decide (0x340 ≤ n ∧ n ≤ 0x344) ||
    n == 0x34A || n == 0x34B || n == 0xB00 || decide (0xB02 ≤ n ∧ n ≤ 0xB1F) || decide (0xF11 ≤ n ∧ n ≤ 0xF15)
/-- The Soling ranges of R56, and the numbers assigned in them (R58–R62). -/
def solUser (n : Nat) : Bool := decide (0x800 ≤ n ∧ n ≤ 0x808) || decide (0x810 ≤ n ∧ n ≤ 0x81F) || decide (0xCC0 ≤ n ∧ n ≤ 0xCCA)
def solSup (n : Nat) : Bool := decide (0x5C0 ≤ n ∧ n ≤ 0x5C8)
def solHyp (n : Nat) : Bool := decide (0x6C0 ≤ n ∧ n ≤ 0x6C8)
def solMach (n : Nat) : Bool := decide (0x7C0 ≤ n ∧ n ≤ 0x7CC)
/-- The register a number names from VS: a supervisor number reaches the guest's own register; the counter enables and senvcfg are
not doubled. -/
def vsNumber (n : Nat) : Nat := if stdSup n && n != 0x106 && n != 0x10A then n + 0x100 else n
/-- What an access meets before its value is looked at. -/
inductive CsrGate where
  | pass (n : Nat)
  | illegal
  | virt
  deriving DecidableEq, Repr
/-- Counter enables (the privileged architecture): bit i of mcounteren, hcounteren and scounteren. -/
def counterGate (h : Hart) (i : Nat) : CsrGate :=
  if h.priv == .m then .pass (0xC00 + i)
  else if !bitAt (h.getC 0x306) i then .illegal
  else if h.virt && !bitAt (h.getC 0x606) i then .virt
  else if h.priv == .u && !bitAt (h.getC 0x106) i then (if h.virt then .virt else .illegal)
  else .pass (0xC00 + i)
/-- Sstc's enables: menvcfg.STCE and mcounteren.TM below M, henvcfg.STCE and hcounteren.TM from VS. -/
def timerGate (h : Hart) (n : Nat) : CsrGate :=
  if h.priv == .m then .pass n
  else if !bitAt (h.getC 0x30A) 63 || !bitAt (h.getC 0x306) 1 then .illegal
  else if h.virt && (!bitAt (h.getC 0x60A) 63 || !bitAt (h.getC 0x606) 1) then .virt
  else .pass n
/-- The selections of sireg and vsireg (12 R278). -/
def selectOk (v : DWord) : Bool := v == 0x70 || v == 0x72 || v == 0x80 || v == 0xC0
/-- The guest file that VGEIN names: 1 or none. -/
def guestFile (h : Hart) : Bool := bitsOf (h.getC 0x600) 12 6 == 1
/-- The gate of a supervisor register in the mode that reaches it (S, HS or M; n is the number as mapped). -/
def supGate (h : Hart) (n : Nat) : CsrGate :=
  let bad : CsrGate := if h.virt then .virt else .illegal
  if n == 0x14D || n == 0x24D then timerGate h n
  else if n == 0x180 && h.priv == .s && bitAt (h.getC 0x300) 20 then .illegal
  else if n == 0x280 && h.virt && bitAt (h.getC 0x600) 20 then .virt
  else if n == 0x680 && h.priv == .s && bitAt (h.getC 0x300) 20 then .illegal
  else if (n == 0x251 || n == 0x25C) && !guestFile h then bad
  else if n == 0x151 && !selectOk (h.getC 0x150) then bad
  else if n == 0x251 && !selectOk (h.getC 0x250) then bad
  else .pass n
/-- The gate of a standard number (the privileged architecture; 12 R270 gives the guest its own copies). -/
def stdGate (h : Hart) (n : Nat) : CsrGate :=
  if stdUser n then counterGate h (n - 0xC00)
  else if stdSup n then
    (match h.priv with
    | .u => if h.virt then .virt else .illegal
    | _ => supGate h (if h.virt then vsNumber n else n))
  else if stdHyp n then
    (if h.virt then .virt
    else match h.priv with
      | .u => .illegal
      | _ => supGate h n)
  else if stdMach n then (if h.priv == .m then .pass n else .illegal)
  else .illegal
/-- The gate of a Soling number (R56; 12 R270). -/
def solGate (h : Hart) (n : Nat) : CsrGate :=
  if solUser n then (if n = 0x808 then .illegal else .pass n)
  else if solSup n then
    (match h.priv with
    | .u => .illegal
    | _ => .pass n)
  else if solHyp n then
    (match h.priv with
    | .u => .illegal
    | .s => if h.virt then .virt else .pass n
    | .m => .pass n)
  else if solMach n then (if h.priv == .m then .pass n else .illegal)
  else .illegal
/-- Whether a number lies in a Soling range of R56. -/
def solRange (n : Nat) : Bool :=
  decide (0x800 ≤ n ∧ n ≤ 0x8FF) || decide (0xCC0 ≤ n ∧ n ≤ 0xCFF) || decide (0x5C0 ≤ n ∧ n ≤ 0x5FF) || decide (0x6C0 ≤ n ∧ n ≤ 0x6FF) ||
    decide (0x7C0 ≤ n ∧ n ≤ 0x7FF)
/-- Whether a group may make an access, and the register it reaches (R56). A write of a read-only number is illegal. -/
def csrGate (h : Hart) (n : Nat) (write : Bool) : CsrGate :=
  if write && n / 0x400 == 3 then .illegal
  else if solRange n then solGate h n else stdGate h n
end Numbers

section Fields
/-- `v` with the bits of a mask taken from `w`. -/
def mergeBits (mask v w : DWord) : DWord := (v &&& ~~~mask) ||| (w &&& mask)
/-- Writable fields of mstatus: SIE, MIE, SPIE, MPIE, SPP, MPP, MPRV, SUM, MXR, TVM, TW, TSR, GVA, MPV. -/
def mstatusMask : DWord := 0xC0007E19AA
/-- Fields of sstatus and vsstatus: SIE, SPIE, SPP, SUM, MXR. UXL reads 2. -/
def sstatusMask : DWord := 0xC0122
def uxl : DWord := 0x200000000
def sxl : DWord := 0x800000000
/-- Delegable exceptions (12 R272). -/
def medelegMask : DWord := 0x1F0000FFF0B7FF
def hedelegMask : DWord := 0x1F0000FF00B1FF
def mieMask : DWord := 0x11666
/-- hstatus: GVA, SPV, SPVP, HU, VTVM, VTW, VTSR; VGEIN is checked apart. -/
def hstatusMask : DWord := 0x7003C0
def envMask : DWord := 0x8000000000000001
def tvecMask : DWord := ~~~(2 : DWord)
def pcMask : DWord := ~~~(3 : DWord)
/-- The interrupt-file register a selection names (12 R278). -/
def fileGet (f : IrqFile) (sel : DWord) : DWord :=
  if sel = 0x70 then f.delivery else if sel = 0x72 then f.threshold else if sel = 0x80 then f.eip else if sel = 0xC0 then f.eie else 0
def fileSet (f : IrqFile) (sel v : DWord) : IrqFile :=
  if sel = 0x70 then { f with delivery := v &&& 1 }
  else if sel = 0x72 then { f with threshold := v &&& 0x3F }
  else if sel = 0x80 then { f with eip := v &&& ~~~(1 : DWord) }
  else if sel = 0xC0 then { f with eie := v &&& ~~~(1 : DWord) } else f
/-- A write of stopei claims the interrupt it reports. -/
def fileClaim (f : IrqFile) : IrqFile := { f with eip := f.eip &&& ~~~((1 : DWord) <<< fileTop f) }
/-- misa: RV64 with A, H, I, M, S, U (05 R129, R130). -/
def misaValue : DWord := 0x8000000000141181
/-- The bits of a supervisor's view of pending or enabled guest interrupts: VS bits moved down by one. -/
def vsView (h : Hart) (v : DWord) : DWord := (v &&& hidelegOf h &&& 0x444) >>> 1
end Fields

section Reads
/-- Registers of hardware identity (R59); a boot group runs outside any launch (12 R269). -/
def identRead (s : State) (h : Hart) (n : Nat) : DWord :=
  let w := wgAt s h.wg; let l := launchAt s h.lkey
  if n = 0xCC0 then dw h.slot
  else if n = 0xCC1 then dw h.tile
  else if n = 0xCC2 then dw (subcoreOf h.slot)
  else if n = 0xCC3 then (if h.boot then 0 else dw w.wgid)
  else if n = 0xCC4 then (if h.boot then 1 else dw (h.rank * 256 + w.size))
  else if n = 0xCC5 then (if h.boot then 0 else dw l.lid)
  else if n = 0xCC6 then (if h.boot then (mkRect (tileCol h.tile) (tileRow h.tile) 1 1).setWidth 64 else l.rect.setWidth 64)
  else if n = 0xCC7 then dw h.vcnt
  else if n = 0xCC8 then dw h.limbs
  else if n = 0xCC9 then (if h.boot then 0 else l.swbase)
  else if h.boot || w.bankCount = 0 then 0
  else dw (w.bankCount * 256 + w.bankFirst)
/-- Whether a core bank belongs to a group's workgroup (R55). -/
def ownsBank (s : State) (h : Hart) (b : Nat) : Bool :=
  let w := wgAt s h.wg
  !h.boot && decide (w.bankFirst ≤ b ∧ b < w.bankFirst + w.bankCount)
/-- User registers (R54, R58, R59). -/
def userRead (s : State) (h : Hart) (n : Nat) : DWord :=
  if n = 0x800 then h.lpc
  else if n = 0x801 then dw h.msp
  else if decide (0x810 ≤ n ∧ n ≤ 0x81F) then
    (if ownsBank s h (n - 0x810) then tget 0 s.pal (h.tile * 16 + (n - 0x810)) else 0)
  else if 0xCC0 ≤ n then identRead s h n
  else h.getC n
/-- Whether an access reaches the VS copies of 0x5C0–0x5C8 (12 R270). -/
def vsCopies (h : Hart) : Bool := h.virt || bitAt (h.getC 0x6C0) 16
/-- The partition that HPART.SEL names. -/
def hpartSel (h : Hart) : Nat := bitsOf (h.getC 0x6C0) 8 4
/-- HPART (12 R270). -/
def hpartRead (h : Hart) : DWord := (h.getC 0x6C0 &&& 0x10F00) ||| dw h.pid
/-- Hypervisor registers (R62). -/
def hypRead (s : State) (h : Hart) (n : Nat) : DWord :=
  let q := partAt s (hpartSel h)
  if n = 0x6C0 then hpartRead h
  else if n = 0x6C1 then dw (q.swcap * 256 + q.pceil)
  else if n = 0x6C2 then q.preempt.word
  else if n = 0x6C3 then hpstat q.preempt
  else if n = 0x6C4 then q.allow.setWidth 64
  else if n = 0x6C5 then dw (s.hub.energyWindows % 65536 * 2 ^ 32 + q.used)
  else if n = 0x6C6 then q.spillBase
  else if n = 0x6C7 then dw q.spillLen
  else q.hmbox
/-- Machine registers (R62). -/
def machRead (s : State) (n : Nat) : DWord :=
  let q := partAt s (selPart s)
  if n = 0x7C0 then dw (selPart s)
  else if n = 0x7C1 then partRectRead q
  else if n = 0x7C2 then q.ways
  else if n = 0x7C3 then keyRead q
  else if n = 0x7C4 then keyVerRead q
  else if n = 0x7C5 then q.varnBase
  else if n = 0x7C6 then varnRead q
  else if n = 0x7C7 then q.routeCfg
  else if n = 0x7C8 then q.gmax.setWidth 64
  else if n = 0x7C9 then glazeRead s
  else if n = 0x7CA then bootRead s
  else if n = 0x7CB then s.hub.bootPc
  else s.hub.bootArg
/-- cycle and mcycle: clk since reset, moved by writes of mcycle. -/
def cycleOf (s : State) (h : Hart) : DWord := dw s.clk + h.getC 0xB00
/-- Standard registers. -/
def stdRead (s : State) (h : Hart) (n : Nat) : DWord :=
  let c := h.getC n
  if n = 0xC00 ∨ n = 0xB00 then cycleOf s h
  else if n = 0xC01 then (if h.virt then guestTime s h else dw (timeOf s))
  else if n = 0xC02 ∨ n = 0xB02 then h.instret
  else if n = 0x100 then (h.getC 0x300 &&& sstatusMask) ||| uxl
  else if n = 0x200 then (c &&& sstatusMask) ||| uxl
  else if n = 0x300 then (c &&& mstatusMask) ||| uxl ||| sxl
  else if n = 0x301 then misaValue
  else if n = 0x303 then midelegOf h
  else if n = 0x603 then hidelegOf h
  else if n = 0x104 then h.getC 0x304 &&& ((midelegOf h &&& 0x222) ||| 0x10000)
  else if n = 0x204 then vsView h (h.getC 0x304) ||| (c &&& 0x10000)
  else if n = 0x604 then h.getC 0x304 &&& 0x1444
  else if n = 0x344 then mipOf s h ||| (if h.preempt then 0x10000 else 0)
  else if n = 0x144 then (mipOf s h &&& midelegOf h &&& 0x222) ||| (if h.preempt && !h.virt then 0x10000 else 0)
  else if n = 0x244 then vsView h (mipOf s h) ||| (if h.preempt && h.virt then 0x10000 else 0)
  else if n = 0x644 then mipOf s h &&& 0x1444
  else if n = 0xE12 then (if fileSignals h.irqG then 2 else 0)
  else if n = 0x600 then (c &&& (hstatusMask ||| 0x3F000)) ||| uxl
  else if n = 0x151 then fileGet h.irqS (h.getC 0x150)
  else if n = 0x251 then fileGet h.irqG (h.getC 0x250)
  else if n = 0x15C then topei h.irqS
  else if n = 0x25C then topei h.irqG
  else if n = 0xF14 then dw (hartKey h.tile h.slot)
  else if n = 0x320 ∨ decide (0x323 ≤ n ∧ n ≤ 0x33F) ∨ decide (0xB03 ≤ n ∧ n ≤ 0xB1F) ∨ decide (0xF11 ≤ n) then 0
  else c
/-- What a read of a register gives, `n` being the register reached. -/
def csrRead (s : State) (h : Hart) (n : Nat) : DWord :=
  if solUser n then userRead s h n
  else if solSup n then h.getC (bankKey (vsCopies h) n)
  else if solHyp n then hypRead s h n
  else if solMach n then machRead s n
  else stdRead s h n
/-- The value a set or clear instruction works on: the software bits of a pending register, without what hardware raises. -/
def csrOld (s : State) (h : Hart) (n : Nat) : DWord := if n = 0x344 then h.getC 0x344 ||| (h.getC 0x645 &&& 0x444) else csrRead s h n
end Reads

section Writes
/-- Whether a register refuses a value: the write raises illegal-instruction and changes nothing (R55, R58, R61). -/
def csrBad (s : State) (h : Hart) (n : Nat) (v : DWord) : Bool :=
  if n = 0x801 then decide (16 < bitsOf v 0 5)
  else if n = 0x802 then decide (4 < bitsOf v 0 3)
  else if n = 0x5C4 then decide (64 < bitsOf v 0 7)
  else if 0x810 ≤ n ∧ n ≤ 0x81F then !ownsBank s h (n - 0x810)
  else false
/-- A new mask stack depth clears the entries from it upward (R47). -/
def setMsp (h : Hart) (d : Nat) : Hart := { h with msp := d, mstk := tfilter (fun e => decide (e < d)) h.mstk }
/-- Stored bits of a user register (R58). -/
def userMask (n : Nat) : DWord :=
  if n = 0x802 then 7 else if n = 0x803 then 0x1F else if n = 0x804 then 1 else if n = 0x805 then ~~~(7 : DWord)
  else if n = 0x806 then 0xFFFF else if n = 0x808 then 0xFFFFFFFF else ~~~(0 : DWord)
def userWrite (s : State) (k n : Nat) (v : DWord) : State :=
  let h := hartAt s k
  if n = 0x800 then setHart s k { h with lpc := v &&& pcMask }
  else if n = 0x801 then setHart s k (setMsp h (bitsOf v 0 5))
  else if 0x810 ≤ n then { s with pal := tset 0 s.pal (h.tile * 16 + (n - 0x810)) v }
  else setHart s k (h.setC n (v &&& userMask n))
/-- Stored bits of 0x5C0–0x5C8 (R61). -/
def supMask (n : Nat) : DWord :=
  if n = 0x5C0 then 0xFFFF else if n = 0x5C4 then 0x7F else if n = 0x5C5 then 1 else if n = 0x5C6 then ~~~(63 : DWord)
  else if n = 0x5C7 then 0xFFFF else if n = 0x5C8 then ~~~(0x1FFFFFFF : DWord) else ~~~(0 : DWord)
/-- A partition number that SEL fields accept: 12 to 14 leave the field unchanged (12 R270; 15 R331). -/
def selOk (n : Nat) : Bool := decide (n < 12) || n == 15
def hpartWrite (h : Hart) (v : DWord) : Hart :=
  let c := h.getC 0x6C0
  let c := setBits c 16 1 (bitsOf v 16 1)
  h.setC 0x6C0 (if selOk (bitsOf v 8 4) then setBits c 8 4 (bitsOf v 8 4) else c)
/-- HSCHED (13 R300). -/
def schedWrite (v : DWord) (q : Part) : Part :=
  { q with swcap := min 16 (max 1 (bitsOf v 8 5)), pceil := bitsOf v 0 2 }
/-- Whether a launch of a partition runs: its spill region is then fixed (13 R296). -/
def spillFixed (s : State) (p : Nat) : Bool := s.launches.any (fun e => e.2.pid == p && running e.2)
def hypWrite (s : State) (k n : Nat) (v : DWord) : State :=
  let h := hartAt s k
  let p := hpartSel h
  if n = 0x6C0 then setHart s k (hpartWrite h v)
  else if n = 0x6C1 then modPart s p (schedWrite v)
  else if n = 0x6C2 then hpreemptWrite s p v
  else if n = 0x6C4 then modPart s p (fun q => { q with allow := v.setWidth 32 })
  else if n = 0x6C6 then (if spillFixed s p then s else modPart s p (fun q => { q with spillBase := v &&& ~~~(0xFFFF : DWord) }))
  else if n = 0x6C7 then (if spillFixed s p then s else modPart s p (fun q => { q with spillLen := bitsOf v 0 16 }))
  else if n = 0x6C8 then modPart s p (fun q => { q with hmbox := v &&& ~~~(0xFFE : DWord) })
  else s
def machWrite (s : State) (n : Nat) (v : DWord) : State :=
  let p := selPart s
  if n = 0x7C0 then (if selOk (bitsOf v 0 4) then modHub s (fun u => { u with partSel := BitVec.ofNat 4 (bitsOf v 0 4) }) else s)
  else if n = 0x7C1 then partRectWrite s p v
  else if n = 0x7C2 then modPart s p (fun q => { q with ways := v })
  else if n = 0x7C3 then keyWrite s p v
  else if n = 0x7C5 then modPart s p (fun q => { q with varnBase := v &&& ~~~(63 : DWord) })
  else if n = 0x7C6 then varnWrite s p v
  else if n = 0x7C7 then modPart s p (fun q => { q with routeCfg := v &&& ~~~(0xFFFF : DWord) })
  else if n = 0x7C8 then modPart s p (fun q => { q with gmax := BitVec.ofNat 4 (min 8 (bitsOf v 0 4)) })
  else if n = 0x7C9 then glazeWrite s v
  else if n = 0x7CA then bootWrite s v
  else if n = 0x7CB then modHub s (fun u => { u with bootPc := v &&& pcMask })
  else if n = 0x7CC then modHub s (fun u => { u with bootArg := v })
  else s
/-- satp, vsatp and hgatp take MODE 9 only (05 R129). -/
def satpWrite (h : Hart) (n : Nat) (v : DWord) : Hart :=
  if bitsOf v 60 4 = 9 then h.setC n (if n = 0x680 then v &&& 0xF3FFFFFFFFFFFFFC else v) else h
/-- hstatus: a VGEIN other than 0 and 1 leaves the field unchanged (12 R278). -/
def hstatusWrite (h : Hart) (v : DWord) : Hart :=
  let m := if bitsOf v 12 6 ≤ 1 then hstatusMask ||| 0x3F000 else hstatusMask
  h.setC 0x600 (mergeBits m (h.getC 0x600) v)
/-- mstatus.MPP holds 0, 1 or 3; 2 leaves it unchanged. -/
def mstatusWrite (h : Hart) (v : DWord) : Hart :=
  h.setC 0x300 (mergeBits (if bitsOf v 11 2 = 2 then mstatusMask &&& ~~~(0x1800 : DWord) else mstatusMask) (h.getC 0x300) v)
def merge (h : Hart) (n : Nat) (mask v : DWord) : Hart := h.setC n (mergeBits mask (h.getC n) v)
/-- Standard registers. -/
def stdWrite (h : Hart) (n : Nat) (v : DWord) (clk : Nat) : Hart :=
  if n = 0x100 then merge h 0x300 sstatusMask v
  else if n = 0x200 then merge h 0x200 sstatusMask v
  else if n = 0x300 then mstatusWrite h v
  else if n = 0x302 then h.setC n (v &&& medelegMask)
  else if n = 0x602 then h.setC n (v &&& hedelegMask)
  else if n = 0x303 then h.setC n (v &&& 0x222)
  else if n = 0x603 then h.setC n (v &&& 0x444)
  else if n = 0x304 then merge h 0x304 mieMask v
  else if n = 0x104 then merge h 0x304 ((midelegOf h &&& 0x222) ||| 0x10000) v
  else if n = 0x204 then (merge h 0x304 (hidelegOf h &&& 0x444) (v <<< 1)).setC 0x204 (v &&& 0x10000)
  else if n = 0x604 then merge h 0x304 0x1444 v
  else if n = 0x344 then merge (merge h 0x344 (if bitAt (h.getC 0x30A) 63 then 0x202 else 0x222) v) 0x645 4 v
  else if n = 0x144 then merge h 0x344 (midelegOf h &&& 2) v
  else if n = 0x244 then merge h 0x645 (hidelegOf h &&& 4) (v <<< 1)
  else if n = 0x644 then merge h 0x645 4 v
  else if n = 0x645 then h.setC n (v &&& 0x444)
  else if n = 0x105 ∨ n = 0x205 ∨ n = 0x305 then h.setC n (v &&& tvecMask)
  else if n = 0x141 ∨ n = 0x241 ∨ n = 0x341 then h.setC n (v &&& pcMask)
  else if n = 0x106 ∨ n = 0x306 ∨ n = 0x606 then h.setC n (v &&& 7)
  else if n = 0x10A then h.setC n (v &&& 1)
  else if n = 0x30A ∨ n = 0x60A then h.setC n (v &&& envMask)
  else if n = 0x180 ∨ n = 0x280 ∨ n = 0x680 then satpWrite h n v
  else if n = 0x600 then hstatusWrite h v
  else if n = 0x607 then h.setC n (v &&& 2)
  else if n = 0xB00 then h.setC n (v - dw clk)
  else if n = 0xB02 then { h with instret := v }
  else if n = 0x151 then { h with irqS := fileSet h.irqS (h.getC 0x150) v }
  else if n = 0x251 then { h with irqG := fileSet h.irqG (h.getC 0x250) v }
  else if n = 0x15C then { h with irqS := fileClaim h.irqS }
  else if n = 0x25C then { h with irqG := fileClaim h.irqG }
  else if n = 0x301 ∨ n = 0x320 ∨ decide (0x323 ≤ n ∧ n ≤ 0x33F) ∨ decide (0xB03 ≤ n) then h
  else h.setC n v
/-- What a write of a register does to the package, `n` being the register reached by hart k. -/
def csrWrite (s : State) (k n : Nat) (v : DWord) : State :=
  if solUser n then userWrite s k n v
  else if solSup n then modHart s k (fun h => h.setC (bankKey (vsCopies h) n) (v &&& supMask n))
  else if solHyp n then hypWrite s k n v
  else if solMach n then machWrite s n v
  else modHart s k (fun h => stdWrite h n v s.clk)
end Writes

section Instructions
/-- The three operations of Zicsr. -/
inductive CsrOp where
  | rw
  | rs
  | rc
  deriving DecidableEq, Repr
def csrNew (o : CsrOp) (old src : DWord) : DWord :=
  match o with
  | .rw => src
  | .rs => old ||| src
  | .rc => old &&& ~~~src
/-- A tasklet's registers (R60). -/
def taskCsr (n : Nat) (write : Bool) : Bool := n == 0x808 || (!write && (n == 0xCC1 || n == 0xCC5 || n == 0xCC6))
/-- The packets a write of LPC traces (16 R370). -/
def csrTrace (s : State) (n : Nat) (v : DWord) : State :=
  if n = 0x800 then traceEvent s s.cur (.lpc (v &&& pcMask)) else s
/-- The state after an access that is allowed: the old value goes to rd, then the write has its effect (R55–R62). -/
def csrDone (s : State) (rd : Reg) (n : Nat) (read : DWord) (write : Option DWord) : State :=
  match write with
  | none => retireX s rd read
  | some v => csrWrite (retireX (csrTrace s n v) rd read) s.cur n v
/-- An access by a tasklet (R60). -/
def taskletCsr (bits : DWord) (rd : Reg) (n : Nat) (o : CsrOp) (src : DWord) (write : Bool) (s : State) : State :=
  let h := curHart s
  if !taskCsr n write then trapCur s (laneIllegal bits)
  else
    let old := if n = 0x808 then h.getC 0x808 else identRead s h n
    csrDone s rd n old (if write then some (csrNew o old src) else none)
/-- The common frame of the Zicsr instructions: `src` is the operand, `write` whether the instruction writes. -/
def csrOp (bits : DWord) (o : CsrOp) (rd : Reg) (regs : List Reg) (csr : BitVec 12) (src : Hart → DWord) (write : Bool)
    (s : State) : Out :=
  scalar bits true regs s (fun h =>
    if h.tasklet then taskletCsr bits rd csr.toNat o (src h) write s
    else match csrGate h csr.toNat write with
      | .illegal => trapCur s (illegal bits)
      | .virt => trapCur s (virtualInstr bits)
      | .pass n =>
        let v := csrNew o (csrOld s h n) (src h)
        if write && csrBad s h n v then trapCur s (illegal bits)
        else csrDone s rd n (csrRead s h n) (if write then some v else none))
def execCsrrw (rd rs1 : Reg) (csr : BitVec 12) (s : State) : Out :=
  csrOp (insnBits (.csrrw rd rs1 csr)) .rw rd [rd, rs1] csr (fun h => h.getX rs1) true s
def execCsrrs (rd rs1 : Reg) (csr : BitVec 12) (s : State) : Out :=
  csrOp (insnBits (.csrrs rd rs1 csr)) .rs rd [rd, rs1] csr (fun h => h.getX rs1) (rs1 != 0) s
def execCsrrc (rd rs1 : Reg) (csr : BitVec 12) (s : State) : Out :=
  csrOp (insnBits (.csrrc rd rs1 csr)) .rc rd [rd, rs1] csr (fun h => h.getX rs1) (rs1 != 0) s
def execCsrrwi (rd : Reg) (uimm : BitVec 5) (csr : BitVec 12) (s : State) : Out :=
  csrOp (insnBits (.csrrwi rd uimm csr)) .rw rd [rd] csr (fun _ => uimm.setWidth 64) true s
def execCsrrsi (rd : Reg) (uimm : BitVec 5) (csr : BitVec 12) (s : State) : Out :=
  csrOp (insnBits (.csrrsi rd uimm csr)) .rs rd [rd] csr (fun _ => uimm.setWidth 64) (uimm != 0) s
def execCsrrci (rd : Reg) (uimm : BitVec 5) (csr : BitVec 12) (s : State) : Out :=
  csrOp (insnBits (.csrrci rd uimm csr)) .rc rd [rd] csr (fun _ => uimm.setWidth 64) (uimm != 0) s
/-- The bits of the instruction at a group's pc. -/
def insnAt (s : State) (h : Hart) : DWord :=
  match fetchWord s h h.pc with
  | .ok (_, w) => w.setWidth 64
  | .error _ => 0
/-- MSP_WRITE (R47, R58): a write of MSP by the current group, with its illegal-instruction. -/
def execMspWrite (v : DWord) (s : State) : Out :=
  let h := curHart s
  if h.tasklet then .next s
  else if csrBad s h 0x801 v then .next (trapCur s (illegal (insnAt s h))) else .next (csrWrite s s.cur 0x801 v)
end Instructions

end Sys2Proof.Machine
end

