-- ==== Sys2Proof/Machine/Debug.lean ====
section
/-! DEFINITION. Kiwiow (16 R359–R369): the register blocks, counters and registers read through a reader's filter, precise stops and
the sketch pulse. -/
namespace Sys2Proof.Machine

section Blocks
/-- The partition that a block addresses (R360). -/
def blockPart (s : State) (b : Nat) : Nat := if b < 64 then b else (vfAt s (b - 64)).pid
/-- Whether a block can be used: those of partitions 0–11 and 15, and a virtual function's in RUN (R359, R360; 18 R392). -/
def blockOk (s : State) (b : Nat) : Bool :=
  if b < 64 then decide (b < 12) || b == 15
  else s.hub.ready && (vfAt s (b - 64)).en && (vfAt s (b - 64)).tstate == .run && decide (b ≤ 256)
/-- A partition's own reader, whom no varnish table filters. -/
def ownReader (b : Nat) : Bool := decide (64 ≤ b) || b == 15
/-- Whether a block addresses a tile; the block of 15 also addresses tiles in no partition. -/
def blockTile (s : State) (b t : Nat) : Bool :=
  match partOf s t with
  | some p => p == blockPart s b
  | none => b == 15
/-- The current agent is firmware: a group in M mode, which alone uses Kiwiow's maker port (R359). -/
def firmware (s : State) : Bool := (tfind s.harts s.cur).isSome && !(curHart s).tasklet && (curHart s).priv == .m
/-- The block that a number names. DESIGN CHOICE (notes/assumptions/78): 16 to 31 name the physical function's blocks 0 to 15 as the maker
port reaches them, and those from `makerSensors` on the dies' sensors, 64 numbers for each die, the first its ageing monitors. -/
def portBlock (s : State) (b : Nat) : Nat := if decide (16 ≤ b ∧ b < 32) && firmware s then b - 16 else b
def makerSensors : Nat := 1024
/-- A ring register with EN = 1 must name memory of the reader's partition (R360). -/
def ringNamed (s : State) (b : Nat) (v : DWord) : Bool :=
  ringReach s (ringPart s b) (bitsOf v 16 48 * 65536) (max 1 (ringSize v))
def ringValue (s : State) (b : Nat) (v : DWord) : DWord :=
  if bitAt v 0 && !ringNamed s b v then setBitAt v 0 false else v
/-- Whether a write changes BASE or LEN, which restarts the ring (R361). -/
def ringMoved (old v : DWord) : Bool := old >>> 1 != v >>> 1
def ktrcStore (s : State) (b : Nat) (v : DWord) : State :=
  let k := kiwiowAt s b
  let k' := if ringMoved k.trc v then { k with trcWr := 0, trcRd := 0, stream := { drop := k.stream.drop } } else k
  setKiwiow s b { k' with trc := ringValue s b v }
def ksktStore (s : State) (b : Nat) (v : DWord) : State :=
  let k := kiwiowAt s b
  let k' := if ringMoved k.skt v then { k with sktWr := 0, sktRd := 0, stream := { k.stream with drop := false } } else k
  setKiwiow s b { k' with skt := ringValue s b v }
def execKtrcWrite (b : Nat) (v : DWord) (s : State) : Out := .next (if blockOk s (portBlock s b) then ktrcStore s (portBlock s b) v else s)
def execKsktWrite (b : Nat) (v : DWord) (s : State) : Out := .next (if blockOk s (portBlock s b) then ksktStore s (portBlock s b) v else s)
/-- A write of RD: at or above the ring size it is ignored. -/
def rdStore (cfg : DWord) (old : Word) (v : DWord) : Word := if bitsOf v 0 32 < ringSize cfg then v.setWidth 32 else old
def trcPtrStore (s : State) (b : Nat) (v : DWord) : State :=
  let k := kiwiowAt s b
  setKiwiow s b { k with trcRd := rdStore k.trc k.trcRd v }
def sktPtrStore (s : State) (b : Nat) (v : DWord) : State :=
  let k := kiwiowAt s b
  setKiwiow s b { k with sktRd := rdStore k.skt k.sktRd v }
def selStore (s : State) (b : Nat) (v : DWord) : State := setKiwiow s b { kiwiowAt s b with sel := v &&& 0xF8FFFF00FFFFFFFF }
end Blocks

section Counters
/-- What a KDATA access found: value, BADSEL, coarse exponent and the grant applied (R360). -/
structure Found where
  value : DWord := 0
  bad : Bool := false
  k : Nat := 0
  applied : Nat := 0
  deriving DecidableEq, Repr
def Found.stat (f : Found) : DWord := dw ((if f.bad then 32768 else 0) + f.k * 256 + f.applied)
/-- Events of a counter class (R362). -/
def evCount (c : Nat) : Nat :=
  match c with
  | 0 => 4
  | 1 => 4
  | 2 => 7
  | 3 => 5
  | 4 => 3
  | 5 => 1
  | _ => 0
/-- A unit of a class: a sub-core, or the tile or cluster itself. -/
def unitOk (c u : Nat) : Bool := if c ≤ 1 then decide (u < 8) else u == 0
/-- Key of the counter a selection names. -/
def selKey (c tile u ev : Nat) : Nat := counterKey c (if c = 4 then clusterOf tile else tile) u ev
def counterValue (s : State) (c tile u ev : Nat) : DWord := tget 0 s.counters (selKey c tile u ev)
/-- The keys of a partition's units of an event, each once. -/
def unitKeys (s : State) (p c ev : Nat) : List Nat :=
  let ks := (partTiles s p).flatMap (fun t => (List.range (if c ≤ 1 then 8 else 1)).map (fun u => selKey c t u ev))
  ks.foldl (fun l k => if l.contains k then l else k :: l) []
/-- The sum over a partition's units as latched at the last 1,024-clk report (R365): one value until the next report. -/
def latchedSum (s : State) (p c ev : Nat) : DWord :=
  (unitKeys s p c ev).foldl (fun n k => n + tget 0 s.latched k) 0
/-- A counter in the form a block delivers (R359, R362, R365). -/
def counterRead (s : State) (b c tile index : Nat) : Found :=
  let ev := field index 0 8; let u := field index 8 8
  let p := partAt s (blockPart s b)
  if evCount c ≤ ev || (c == 5 && decide (64 ≤ b)) || index / 65536 != 0 then { bad := true }
  else if !ownReader b && grantCode p c == 0 then { applied := 3 }
  else if !ownReader b && grantCode p c == 3 then { value := latchedSum s (blockPart s b) c ev, applied := 2 }
  else if !unitOk c u || !blockTile s b tile then { bad := true }
  else
    let n := counterValue s c tile u ev
    if !ownReader b && grantCode p c == 2 then { value := dw (n.toNat - n.toNat % 2 ^ grantK p c), k := grantK p c, applied := 1 }
    else { value := n }
end Counters

section Registers
/-- The agent that a TILE and SLOT name: a group slot that is not EMPTY, or the tasklet in a rotation slot (R360). -/
def slotAgent (s : State) (tile slot : Nat) : Option Nat :=
  if slot < 128 then
    (match tfind s.harts (hartKey tile slot) with
    | some h => if slot < 96 && h.run != .empty then some (hartKey tile slot) else none
    | none => none)
  else tfind (homeAt s tile).slots (slot % 16)
/-- A register of a stopped agent by INDEX (R369); nothing where the agent lacks it. -/
def regRead (s : State) (h : Hart) (i : Nat) : Option DWord :=
  let half := fun (m : Mask) (j : Nat) => if j = 0 then m.extractLsb' 0 64 else m.extractLsb' 64 64
  if i < 32 then (if h.tasklet && decide (10 < i) then none else some (h.getX (BitVec.ofNat 5 i)))
  else if i = 32 then some h.pc
  else if 0x1000 ≤ i ∧ i < 0x2000 then
    (if h.tasklet then (if taskCsr (i - 0x1000) false then some (if i = 0x1808 then h.getC 0x808 else identRead s h (i - 0x1000)) else none)
    else match csrGate h (i - 0x1000) false with
      | .pass n => some (csrRead s h n)
      | _ => none)
  else if h.tasklet then none
  else if i = 33 then some h.lpc
  else if i = 34 ∨ i = 35 then some (half h.em (i - 34))
  else if 36 ≤ i ∧ i < 66 then some (half (h.getM ((i - 36) / 2)) ((i - 36) % 2))
  else if i = 66 then some (dw h.msp)
  else if i = 67 then some (dw h.limbs)
  else if 0x10000 ≤ i ∧ (i - 0x10000) / 128 < h.vcnt then some ((h.getV ((i - 0x10000) / 128) ((i - 0x10000) % 128)).setWidth 64)
  else none
/-- The segment sizes that LIMBS can hold (02 R48). -/
def limbSize (n : Nat) : Bool := n == 0 || [2, 4, 8, 16, 32, 64, 128].contains n
/-- Sets a register of a stopped agent (R369). DESIGN CHOICE (notes/assumptions/80): an MSP above 16, or a segment size that LIMBS cannot
hold (02 R47, R48), is ignored. -/
def regWrite (s : State) (k : Nat) (h : Hart) (i : Nat) (v : DWord) : State :=
  let put := fun (m : Mask) (j : Nat) =>
    if j = 0 then m.extractLsb' 64 64 ++ v else v ++ m.extractLsb' 0 64
  if i < 32 then setHart s k (h.setX (BitVec.ofNat 5 i) v)
  else if i = 32 then setHart s k { h with pc := v }
  else if 0x1000 ≤ i ∧ i < 0x2000 then
    (if h.tasklet then (if i = 0x1808 then csrWrite s k 0x808 v else s)
    else match csrGate h (i - 0x1000) true with
      | .pass n => if csrBad s h n v then s else csrWrite s k n v
      | _ => s)
  else if i = 33 then setHart s k { h with lpc := v &&& pcMask }
  else if i = 34 ∨ i = 35 then setHart s k { h with em := put h.em (i - 34) }
  else if 36 ≤ i ∧ i < 66 then setHart s k (h.setM ((i - 36) / 2) (put (h.getM ((i - 36) / 2)) ((i - 36) % 2)))
  else if i = 66 then (if v.toNat ≤ 16 then setHart s k (setMsp h v.toNat) else s)
  else if i = 67 then (if limbSize v.toNat then setHart s k { h with limbs := v.toNat } else s)
  else setHart s k (h.setV ((i - 0x10000) / 128) ((i - 0x10000) % 128) (v.setWidth 32))
/-- The stopped agent a block's selection names, if the block reaches it. -/
def selAgent (s : State) (b : Nat) : Option Nat :=
  let v := (kiwiowAt s b).sel
  let tile := bitsOf v 48 8
  if !blockTile s b tile then none
  else match slotAgent s tile (bitsOf v 40 8) with
    | some k => if (hartAt s k).run == .stopped then some k else none
    | none => none
/-- State access through class 14 (R369). -/
def stateRead (s : State) (b : Nat) : Found :=
  if !ownReader b && grantCode (partAt s (blockPart s b)) 14 != 1 then { applied := 3 }
  else match selAgent s b with
    | none => { bad := true }
    | some k => match regRead s (hartAt s k) (bitsOf (kiwiowAt s b).sel 0 32) with
      | none => { bad := true }
      | some v => { value := v }
/-- What a read of KDATA finds through a block's selection. -/
def kdataFind (s : State) (b : Nat) : Found :=
  let v := (kiwiowAt s b).sel
  let c := bitsOf v 59 5
  if c = 14 then stateRead s b else counterRead s b c (bitsOf v 48 8) (bitsOf v 0 32)
/-- What a read of an unusable block returns: all ones to a virtual function before READY (18 R392), else 0 (R360). -/
def closedBlock (s : State) (b : Nat) : DWord := if decide (64 ≤ b) && !s.hub.ready then BitVec.allOnes 64 else 0
def replyValue (s : State) (v : DWord) : State := modHub s (fun u => { u with reply := .value v })
/-- A read of KDATA: the value answered, and KSTAT. -/
def kdataRead (s : State) (b : Nat) : State :=
  if !blockOk s b then replyValue s (closedBlock s b)
  else replyValue (setKiwiow s b { kiwiowAt s b with stat := (kdataFind s b).stat }) (kdataFind s b).value
/-- KDATA_READ (R359, R365, R369), with the die sensors and ageing monitors that the maker port reaches beside what the physical function
reads: their values the spec does not state (18 R399, R400; notes/assumptions/78). -/
def execKdataRead (b : Nat) (s : State) : Out :=
  if b < makerSensors then .next (kdataRead s (portBlock s b))
  else if firmware s then
    .next (replyValue { s with free := s.free + 1 } (Config.freeSensor ((b - makerSensors) / 64) ((b - makerSensors) % 64) s.free))
  else .next (replyValue s 0)
/-- A write of KDATA: only a partition's own readers write registers. -/
def kdataWrite (s : State) (b : Nat) (v : DWord) : State :=
  if !blockOk s b || !ownReader b || bitsOf (kiwiowAt s b).sel 59 5 != 14 then s
  else
    let i := bitsOf (kiwiowAt s b).sel 0 32
    match selAgent s b with
    | none => setKiwiow s b { kiwiowAt s b with stat := Found.stat { bad := true } }
    | some k =>
      if (regRead s (hartAt s k) i).isNone then setKiwiow s b { kiwiowAt s b with stat := Found.stat { bad := true } }
      else setKiwiow (regWrite s k (hartAt s k) i v) b { kiwiowAt s b with stat := 0 }
/-- KDATA_WRITE (R359, R369). -/
def execKdataWrite (b : Nat) (v : DWord) (s : State) : Out := .next (kdataWrite s (portBlock s b) v)
end Registers

section Stops
/-- Tile and slot of a KSTOP word. -/
def stopTile (v : DWord) : Nat := bitsOf v 48 8
def stopSlot (v : DWord) : Nat := bitsOf v 40 8
def stopAnswer (s : State) (b n : Nat) (busy : Bool) : State :=
  setKiwiow s b { kiwiowAt s b with stopResult := BitVec.ofNat 3 n, stopBusy := busy }
/-- What a KSTOP command meets first: 4 outside the partition, 3 withheld, 1 nobody there. -/
def stopCheck (s : State) (b : Nat) (v : DWord) : Except Nat Nat :=
  if !blockTile s b (stopTile v) then .error 4
  else if !ownReader b && grantCode (partAt s (blockPart s b)) 14 != 1 then .error 3
  else match slotAgent s (stopTile v) (stopSlot v) with
    | none => .error 1
    | some k => if (hartAt s k).run == .exited then .error 1 else .ok k
/-- A write of KSTOP (R360, R368). -/
def kstopStore (s : State) (b : Nat) (v : DWord) : State :=
  let op := bitsOf v 62 2
  if (kiwiowAt s b).stopBusy || op = 3 then s
  else
    let s := setKiwiow s b { kiwiowAt s b with stop := v &&& 0xC0FFFF0000000000 }
    if op = 0 then s
    else match stopCheck s b v with
      | .error n => stopAnswer s b n false
      | .ok k =>
        if op = 1 then
          (if (hartAt s k).run == .stopped then stopAnswer s b 0 false
          else stopAnswer (modHart s k (fun h => { h with stopReq := true })) b 0 true)
        else if (hartAt s k).run != .stopped then stopAnswer s b 5 false
        else stopAnswer (modHart s k (fun h => { h with run := h.prior, stopReq := false })) b 0 false
def execKstopStop (b : Nat) (v : DWord) (s : State) : Out :=
  .next (if blockOk s (portBlock s b) && bitsOf v 62 2 == 1 then kstopStore s (portBlock s b) v else s)
def execKstopRelease (b : Nat) (v : DWord) (s : State) : Out :=
  .next (if blockOk s (portBlock s b) && bitsOf v 62 2 == 2 then kstopStore s (portBlock s b) v else s)
/-- Whether a stop can be taken now: a group's boundary with no LRUN unretired, a tasklet's turn (R368). -/
def mayStop (h : Hart) : Bool :=
  h.stopReq && h.run != .stopped &&
    (if h.tasklet then (match h.place with
      | .slot .. => true
      | _ => false)
     else atBoundary h && h.laneQ.isEmpty && h.laneFe.isNone)
/-- The stop itself: the wait is withdrawn and the instruction runs again after the release, from the state it was in (01 R18). A tasklet
keeps what it holds. -/
def stopAgent (s : State) (k : Nat) : State :=
  let prior := (hartAt s k).run
  if (hartAt s k).tasklet then modHart s k (fun h => { h with run := .stopped, prior := prior, stopReq := false })
  else
    let s := withdraw s k
    modHart s k (fun h => { landAll h with run := .stopped, prior := prior, wait := .nothing, stopReq := false })
/-- A tasklet that has left its slot before its turn is no longer asked to stop: its block answers 2. -/
def forgetStops (s : State) : State :=
  { s with harts := tmap (fun _ (h : Hart) => if h.tasklet && h.stopReq && (match h.place with
    | .slot .. => false
    | _ => true) then { h with stopReq := false } else h) s.harts }
/-- Answers every block whose stop has been taken, or whose agent has left its slot. -/
def settleStops (s0 : State) : State :=
  let s := forgetStops s0
  s.kiwiow.foldl (fun s e =>
    let k := kiwiowAt s e.1
    if !k.stopBusy || bitsOf k.stop 62 2 != 1 then s
    else match slotAgent s (stopTile k.stop) (stopSlot k.stop) with
      | some a =>
        let h := hartAt s a
        if h.run == .stopped then stopAnswer s e.1 0 false
        else if h.stopReq && h.run != .exited then s
        else stopAnswer s e.1 (if h.tasklet then 2 else 1) false
      | none => stopAnswer s e.1 (if stopSlot k.stop < 128 then 1 else 2) false) s
/-- DEBUG_STOP_TAKE (R368). -/
def execDebugStopTake (h : Nat) (s : State) : Out :=
  let s := if (tfind s.harts h).isSome && mayStop (hartAt s h) then stopAgent s h else s
  .next (settleStops s)
end Stops

section Sketch
/-- State code of a slot (01 R18). -/
def runCode : Run → Nat
  | .empty => 0
  | .fetch => 1
  | .ready => 2
  | .waitDep => 3
  | .waitSync => 4
  | .stopped => 5
  | .exited => 6
/-- The pc a slot reports (R366): its oldest scalar instruction not retired. -/
def sketchPc (h : Hart) : DWord :=
  match h.laneFe, h.laneQ with
  | some f, _ => f.entry.pc
  | none, e :: _ => e.pc
  | none, [] => h.pc
/-- The state that a rotation slot's tasklet is reported in (R366): waiting for an LRW, for a load or its migration, or ready. -/
def taskRun (s : State) (h : Hart) : Run :=
  if h.run == .stopped then .stopped
  else if parked h then .waitSync
  else if h.wait != .nothing || h.migrateTo.isSome || (match fetchWord s h h.pc with
    | .ok (_, w) => loadHeld h w
    | .error _ => false) then .waitDep
  else .ready
/-- The 112 slots of a tile: state and pc (R366, R367). -/
def sketchSlots (s : State) (tile : Nat) : List (Nat × DWord) :=
  ((List.range 96).map (fun i => match tfind s.harts (hartKey tile i) with
    | some h => if h.run == .empty then (0, 0) else (runCode (currentRun s h), sketchPc h)
    | none => (0, 0))) ++
  (List.range 16).map (fun i => match tfind (homeAt s tile).slots i with
    | some k => (runCode (taskRun s (hartAt s k)), (hartAt s k).pc)
    | none => (0, 0))
/-- A pc delta in zigzag form. -/
def zigzag (d : DWord) : Nat := ((d <<< 1) ^^^ (BitVec.sshiftRight d 63)).toNat
/-- The entries of a record (R367), from the pc last reported. -/
def sketchEntries (pcg : Nat) : Nat → DWord → List (Nat × DWord) → List Byte
  | 0, _, _ => []
  | _, _, [] => []
  | f + 1, p, (st, pc) :: rest =>
    let run := min 31 (rest.takeWhile (fun e => e.1 == 0)).length
    let pc := if pcg = 1 then pc >>> 12 else pc
    let b : Byte := BitVec.ofNat 8 (st + 8 * run)
    if st = 0 ∨ pcg = 2 then b :: sketchEntries pcg f p (rest.drop run)
    else b :: leb128 (zigzag (pc - p)) ++ sketchEntries pcg f pc (rest.drop run)
/-- One tile's record (R367). -/
def sketchRecord (s : State) (tile part pcg : Nat) (drop : Bool) : List Byte :=
  let es := sketchEntries pcg 112 0 (sketchSlots s tile)
  [BitVec.ofNat 8 tile, BitVec.ofNat 8 (part + 16 * pcg + (if drop then 64 else 0))] ++ leBytes 2 (16 + es.length) ++
    leBytes 4 (timeOf s / s.hub.kpulse.toNat) ++ leBytes 8 (timeOf s) ++ es
/-- Whether a block's sketch ring receives a tile's record, and the form of its pcs: 0 exact, 1 region, 2 withheld. -/
def sketchForm (s : State) (b tile : Nat) : Option Nat :=
  if !blockOk s b || !blockTile s b tile then none
  else if ownReader b then some 0
  else
    let p := partAt s (blockPart s b)
    if grantCode p 6 != 1 then none
    else some (match grantCode p 7 with
      | 1 => 0
      | 2 => 1
      | _ => 2)
/-- Appends a tile's record to a block's sketch ring, or drops it (R361, R367). `s0` is the state the pulse latched. -/
def sketchAppend (s0 s : State) (b tile pcg : Nat) : State :=
  let k := kiwiowAt s b
  let size := ringSize k.skt; let base := bitsOf k.skt 16 48 * 65536
  if !ringOn k.skt then s
  else if !ringReach s (ringPart s b) base size then setKiwiow s b { k with skt := setBitAt k.skt 0 false }
  else
    let bs := sketchRecord s0 tile ((partOf s tile).getD 14) pcg k.stream.drop
    if ringFree size k.sktRd.toNat k.sktWr.toNat < bs.length then setKiwiow s b { k with stream := { k.stream with drop := true } }
    else if ringPoison s base size k.sktWr.toNat bs.length then
      setKiwiow (notePoisonSpan s (base + k.sktWr.toNat) bs.length) b { k with skt := setBitAt k.skt 0 false }
    else
      let s := ringWrite s base size k.sktWr.toNat bs
      setKiwiow s b { k with sktWr := wd ((k.sktWr.toNat + bs.length) % size), stream := { k.stream with drop := false } }
/-- Whether the pulse falls in this clk: time becomes a non-zero multiple of PERIOD (R366). -/
def pulseDue (s : State) : Bool :=
  s.hub.kpulse != 0 && s.clk != 0 && s.clk % 12 == 0 && timeOf s % s.hub.kpulse.toNat == 0
/-- SKETCH_PULSE (R366, R367). -/
def execSketchPulse (s : State) : Out :=
  if !pulseDue s then .next s
  else .next ((List.range 256).foldl (fun t tile => s.kiwiow.foldl (fun t e =>
    match sketchForm s e.1 tile with
    | some g => sketchAppend s t e.1 tile g
    | none => t) t) s)
end Sketch

end Sys2Proof.Machine
end

