-- ==== Sys2Proof/Machine/Host.lean ====
section
/-! DEFINITION. The host's and other packages' accesses (18 R392–R396), virtual functions and TDISP (15 R353–R355), and writes of
registers that have no row of their own (00 R10). -/
namespace Sys2Proof.Machine

section Mailboxes
def answer (s : State) (r : Reply) : State := modHub s (fun u => { u with reply := r })
/-- The place of slot k of function f's page. -/
def slotLoc (f k : Nat) : Loc := .mbox (f * 256 + 4 * k)
/-- Whether the host's accesses to a function's page are performed: the physical function's always, a virtual function's in RUN
once the package is ready (15 R354; R392). -/
def mailboxOpen (s : State) (f : Nat) : Bool := f == 0 || (s.hub.ready && (vfAt s f).tstate == .run && decide (f ≤ 192))
/-- The agent that a function's host accesses are (04 R111). -/
def fnAgent (f : Nat) : Nat := 0x200000 + f
/-- The writes of a function that nothing holds enter home order, in the order of their arrival (04 R111). -/
def fnFlush (s : State) (f : Nat) : State := (flushIf (fun q => q.agent == fnAgent f) s).1
/-- A set-full write of a slot by the host, a release at system scope that follows the function's earlier writes (R395; 04 R111). -/
def hostPost (s : State) (f k : Nat) (v : Word) : State :=
  let r : Req := { agent := fnAgent f, loc := slotLoc f k, size := 4, data := v.setWidth 64,
                   pid := if f = 0 then 15 else (tget {} s.vfs f).pid, mode := 2, full := true }
  let s := fnFlush (modMem s (fun m => { m with net := m.net ++ [r] })) f
  arrive s (s.mem.net.length - 1)
/-- MAILBOX_HOST_WRITE (R395). -/
def execMailboxHostWrite (f k : Nat) (v : Word) (s : State) : Out :=
  if mailboxOpen s f && decide (k < 64) then .next (hostPost s f k v) else .next s
/-- MAILBOX_HOST_TAKE (R395): all ones while the function is not in RUN. -/
def execMailboxHostTake (f k : Nat) (s : State) : Out :=
  if !mailboxOpen s f then .next (answer s (.value (BitVec.allOnes 64)))
  else if k < 64 ∧ isFull s.mem (slotLoc f k) then
    let v := readLoc s.mem (slotLoc f k) 4
    .next (answer (servePlace (modMem s (fun m => setFull m (slotLoc f k) false)) (slotLoc f k)) (.value (v + dw (2 ^ 32))))
  else .next (answer s (.value 0))
end Mailboxes

section HostMemory
/-- Local address of a region offset (15 R353; R394). -/
def regionAddr (s : State) (f off : Nat) : Option Nat :=
  let v := vfAt s f
  if off / 65536 < v.mlen ∧ (v.mbase + off / 65536) / 32768 < (partTiles s v.pid).length then
    some (regionChunk s v.pid (v.mbase + off / 65536) * 65536 + off % 65536) else none
/-- A write from outside, on its way from the hub to its home over the partition's channel (15 R335). -/
def outsideWrite (s : State) (agent pid a n : Nat) (v : DWord) : State :=
  let q : Req := { agent := agent, loc := .mem a, size := n, data := v, pid := pid, mode := 2, src := 256, hub := some pid }
  modMem s (fun m => { m with net := m.net ++ [q] })
/-- A read from outside, which waits at its home while it is held. -/
def outsideRead (s : State) (agent pid a n : Nat) : State :=
  let q : Req := { agent := agent, loc := .mem a, size := n, pid := pid, mode := 2, src := 256, hub := some pid, read := true }
  modMem s (fun m => { m with net := m.net ++ [q] })
/-- HOST_MEM_ACCESS (R394; 15 R342, R350, R354): bytes of one dword of the region. A write follows the function's earlier ones, and a read
those of its word (04 R111); a read that is held has its reply when it is performed. -/
def execHostMemAccess (f off size : Nat) (v : Option DWord) (s : State) : Out :=
  let fn := vfAt s f
  let live := s.hub.ready && fn.en && fn.tstate == .run && !(partAt s fn.pid).resetting && decide (1 ≤ size ∧ off % 8 + size ≤ 8)
  match (if live then regionAddr s f off else none), v with
  | none, some _ => .next s
  | none, none => .next (answer s .poison)
  | some a, some v => .next (fnFlush (outsideWrite s (fnAgent f) fn.pid a size v) f)
  | some a, none =>
    let s := answer (outsideRead (flushWord s (fnAgent f) (.mem a) size).1 (fnAgent f) fn.pid a size) .none
    .next (arrive s (s.mem.net.length - 1))
end HostMemory

section ScaleOut
/-- FAR_WRITE_RECEIVE (R396): performed only where the home lies in partition PART. -/
def execFarWriteReceive (part addr size : Nat) (v : DWord) (s : State) : Out :=
  if decide (1 ≤ size ∧ size ≤ 8 ∧ addr + size ≤ 2 ^ 39) && inPart s part (homeOf addr) then
    .next (answer (flushWord (outsideWrite s 0xFFFFF9 part addr size v) 0xFFFFF9 (.mem addr) size).1 (.farWrite true))
  else .next (answer s (.farWrite false))
/-- The far writes of a copy from a refused row on are no longer the copy's: it writes those rows again when it is resumed (07 R185). -/
def forgetRows (s : State) (k r : Nat) : State :=
  modMem s (fun m => { m with farOut := m.farOut.map (fun (f : FarWrite) =>
    if f.copy.any (fun x => x.1 == k && decide (r ≤ x.2)) then { f with copy := none } else f) })
/-- FAR_WRITE_ACKNOWLEDGEMENT (R396): a refused row parks its copy with CAUSE 2, once; a refused store is dropped. -/
def execFarWriteAcknowledgement (i : Nat) (ok : Bool) (s : State) : Out :=
  match s.mem.farOut[i]? with
  | none => .next s
  | some w =>
    let s := modMem s (fun m => { m with farOut := eraseAt m.farOut i })
    match ok, w.copy with
    | false, some (k, r) =>
      (match tfind s.copies k with
      | some c =>
        let s := setCopy (forgetRows s k r) k { c with row := min r c.row }
        .next (if c.parked then s else parkCopy s k 2)
      | none => .next s)
    | _, _ => .next s
end ScaleOut

section Functions
/-- Chunks of a partition's memory (15 R353). -/
def partChunks (s : State) (p : Nat) : Nat := (partTiles s p).length * 32768
/-- Whether a write of a binding register is ignored (15 R353). -/
def bindIgnored (s : State) (f : Nat) (v : DWord) : Bool :=
  let p := bitsOf v 56 4
  (vfAt s f).tstate != .unlocked || decide (12 ≤ p) || decide (partChunks s p < bitsOf v 0 24 + bitsOf v 24 24) ||
    (bitAt v 63 && decide (16 ≤ ((boundTo s p).filter (fun g => g != f)).length)) || decide (f < 1 ∨ 192 < f)
/-- VF_BINDING_WRITE (15 R353). -/
def execVfBindingWrite (f : Nat) (v : DWord) (s : State) : Out :=
  if bindIgnored s f v then .next s
  else .next (setVf s f { en := bitAt v 63, tstate := .unlocked, pid := bitsOf v 56 4, mlen := bitsOf v 24 24, mbase := bitsOf v 0 24 })
def tstateCode : TState → Nat
  | .unlocked => 0
  | .locked => 1
  | .run => 2
  | .error => 3
/-- A binding register as read. -/
def bindRead (v : Vf) : DWord :=
  dw ((if v.en then 2 ^ 63 else 0) + tstateCode v.tstate * 2 ^ 60 + v.pid * 2 ^ 56 + v.mlen * 2 ^ 24 + v.mbase)
/-- Iawick is occupied by a key command or a partition reset (15 R358). -/
def iawickBusy (s : State) : Bool := s.parts.any (fun e => e.2.resetting || e.2.keyBusy)
/-- A TDISP request over the secured session (15 R354, R358). -/
def tdisp (s : State) (f : Nat) (g : State → Vf → State) : Out :=
  if iawickBusy s then .next (answer s (.spdmError 0x03))
  else if !s.hub.spdm.session then .next (answer s (.spdmError 0x04))
  else if f < 1 ∨ 192 < f then .next (answer s .tdispError)
  else .next (g s (vfAt s f))
/-- LOCK_INTERFACE_REQUEST (15 R354). -/
def execLockInterfaceRequest (f : Nat) (s : State) : Out :=
  tdisp s f (fun s v => if v.tstate == .unlocked && v.en then answer (setVf s f { v with tstate := .locked }) .none else answer s .tdispError)
/-- START_INTERFACE_REQUEST (15 R354). -/
def execStartInterfaceRequest (f : Nat) (s : State) : Out :=
  tdisp s f (fun s v => if v.tstate == .locked then answer (setVf s f { v with tstate := .run }) .none else answer s .tdispError)
/-- STOP_INTERFACE_REQUEST (15 R354, R355). -/
def execStopInterfaceRequest (f : Nat) (s : State) : Out :=
  tdisp s f (fun s v =>
    if v.tstate == .unlocked then answer s .none
    else answer (functionReset (setVf s f { v with tstate := .unlocked }) f) .none)
/-- GET_DEVICE_INTERFACE_REPORT (15 R354). -/
def execGetDeviceInterfaceReport (f : Nat) (s : State) : Out :=
  tdisp s f (fun s v => answer s (.tdisp (bindRead v) (partAt s v.pid).rect (measOf s (4 + v.pid))))
/-- GET_DEVICE_INTERFACE_STATE (15 R354). -/
def execGetDeviceInterfaceState (f : Nat) (s : State) : Out :=
  tdisp s f (fun s v => answer s (.value (dw (tstateCode v.tstate))))
/-- FUNCTION_LEVEL_RESET and IDE_STREAM_FAILURE (15 R354). -/
def execFunctionLevelReset (f : Nat) (s : State) : Out := .next (functionError s f)
def execIdeStreamFailure (f : Nat) (s : State) : Out := .next (functionError s f)
end Functions

section Registers
/-- A far-table entry (R396). -/
def farOf (v : DWord) : FarEntry := { valid := bitAt v 63, part := bitsOf v 16 4, port := bitsOf v 0 4 }
/-- Kiwiow block registers (16 R360). -/
def blockWrite (s : State) (b off : Nat) (v : DWord) : State :=
  if !blockOk s b then s
  else if off = 0 then ktrcStore s b v
  else if off = 8 then trcPtrStore s b v
  else if off = 0x10 then ksktStore s b v
  else if off = 0x18 then sktPtrStore s b v
  else if off = 0x20 then selStore s b v
  else if off = 0x28 then kdataWrite s b v
  else if off = 0x30 then kstopStore s b v
  else s
/-- Registers of the physical function (R392, R393, R396, R398; 16 R360). -/
def physWrite (s : State) (off : Nat) (v : DWord) : State :=
  if off = 8 then
    (let s := modHub s (fun u => { u with pkg := BitVec.ofNat 8 (bitsOf v 0 8) })
    if bitAt v 63 then recoverStart s else s)
  else if off = 0x18 then modHub s (fun u => { u with recBase := v &&& ~~~(0xFFF : DWord) })
  else if off = 0x20 then modHub s (fun u => { u with recLen := v.setWidth 32 })
  else if 0x1000 ≤ off ∧ off < 0x1100 ∧ off % 4 = 0 then hostPost s 0 ((off - 0x1000) / 4) (v.setWidth 32)
  else if 0x20000 ≤ off ∧ off < 0x20000 + 8 * 192 ∧ off % 8 = 0 then
    (match execVfBindingWrite ((off - 0x20000) / 8 + 1) v s with
    | .next s => s
    | _ => s)
  else if off = 0x31000 then
    modHub s (fun u => { u with kpulse := if bitsOf v 0 32 = 0 then 0 else wd (max 100 (bitsOf v 0 32)) })
  else if 0x30000 ≤ off ∧ off < 0x31000 then blockWrite s ((off - 0x30000) / 256) (off % 256) v
  else if 0x40000 ≤ off ∧ off < 0x40800 ∧ off % 8 = 0 then
    modHub s (fun u => { u with far := tset {} u.far ((off - 0x40000) / 8) (farOf v) })
  else s
/-- Registers of a virtual function: ignored until the package is ready (R392). -/
def virtWrite (s : State) (f off : Nat) (v : DWord) : State :=
  if !s.hub.ready then s
  else if 0x1000 ≤ off ∧ off < 0x1100 ∧ off % 4 = 0 then
    (if mailboxOpen s f then hostPost s f ((off - 0x1000) / 4) (v.setWidth 32) else s)
  else if 0x30000 ≤ off ∧ off < 0x30100 then blockWrite s (64 + f) (off - 0x30000) v
  else s
/-- PFSTAT as read (R393). -/
def pfstat (u : Hub) : DWord :=
  dw ((if u.ready then 2 ^ 63 else 0) + (if u.recov then 2 ^ 62 else 0) + (if u.therm then 2 ^ 61 else 0) + u.fwerr.toNat * 2 ^ 48 +
    u.stage * 2 ^ 32 + u.imgver.toNat)
/-- A far-table entry as read (R396). -/
def farRead (e : FarEntry) : DWord := dw ((if e.valid then 2 ^ 63 else 0) + e.part * 2 ^ 16 + e.port)
/-- The registers of a Kiwiow block as read (16 R360); KDATA through the reader's filter, its effect on KSTAT being KDATA_READ's. -/
def blockRead (s : State) (b off : Nat) : DWord :=
  let k := kiwiowAt s b
  if !blockOk s b then closedBlock s b
  else if off = 0 then k.trc
  else if off = 8 then dw (k.trcWr.toNat * 2 ^ 32 + k.trcRd.toNat)
  else if off = 0x10 then k.skt
  else if off = 0x18 then dw (k.sktWr.toNat * 2 ^ 32 + k.sktRd.toNat)
  else if off = 0x20 then k.sel
  else if off = 0x28 then (kdataFind s b).value
  else if off = 0x30 then k.stop ||| dw ((if k.stopBusy then 128 else 0) + k.stopResult.toNat)
  else if off = 0x38 then k.stat
  else 0
/-- A mailbox page as the host reads it, but for a take, which is an operation of its own (R395; 15 R354). -/
def pageRead (s : State) (f off : Nat) : DWord :=
  if !mailboxOpen s f then BitVec.allOnes 64
  else if off < 0x100 ∧ off % 4 = 0 then readLoc s.mem (slotLoc f (off / 4)) 4
  else if 0x100 ≤ off ∧ off < 0x200 ∧ off % 4 = 0 then dw (if isFull s.mem (slotLoc f ((off - 0x100) / 4)) then 1 else 0)
  else 0
/-- What a host read of the physical function's register space returns (R392, R393, R396, R398; 15 R353; 16 R360). -/
def physRead (s : State) (off : Nat) : DWord :=
  let u := s.hub
  if off = 0 then pfstat u
  else if off = 8 then u.pkg.setWidth 64
  else if off = 0x18 then u.recBase
  else if off = 0x20 then u.recLen.setWidth 64
  else if 0x40 ≤ off ∧ off < 0x60 ∧ off % 8 = 0 then eolRead s ((off - 0x40) / 8)
  else if 0x1000 ≤ off ∧ off < 0x2000 then pageRead s 0 (off - 0x1000)
  else if 0x20000 ≤ off ∧ off < 0x20000 + 8 * 192 ∧ off % 8 = 0 then bindRead (vfAt s ((off - 0x20000) / 8 + 1))
  else if off = 0x31000 then u.kpulse.setWidth 64
  else if 0x30000 ≤ off ∧ off < 0x31000 then blockRead s ((off - 0x30000) / 256) (off % 256)
  else if 0x40000 ≤ off ∧ off < 0x40800 ∧ off % 8 = 0 then farRead (tget {} u.far ((off - 0x40000) / 8))
  else 0
/-- The same of a virtual function's, all ones until the package is ready (R392). -/
def virtRead (s : State) (f off : Nat) : DWord :=
  if !s.hub.ready then BitVec.allOnes 64
  else if 0x1000 ≤ off ∧ off < 0x2000 then pageRead s f (off - 0x1000)
  else if 0x30000 ≤ off ∧ off < 0x30100 then blockRead s (64 + f) (off - 0x30000)
  else 0
def funcRead (s : State) (f off : Nat) : DWord := if f = 0 then physRead s off else if f ≤ 192 then virtRead s f off else 0
/-- A write of a CSR of the current group, reached as an instruction of the group would reach it. -/
def csrEvent (s : State) (n : Nat) (v : DWord) : State :=
  let h := curHart s
  if h.tasklet then (if n = 0x808 then csrWrite s s.cur n v else s)
  else match csrGate h n true with
    | .pass m => if csrBad s h m v then s else csrWrite (csrTrace s m v) s.cur m v
    | _ => s
/-- REGISTER_WRITE (00 R10). -/
def execRegisterWrite (r : RegRef) (v : DWord) (s : State) : Out :=
  match r with
  | .csr n => .next (csrEvent s n.toNat v)
  | .maker b off => .next (if firmware s then blockWrite s b off v else s)
  | .func f off => .next (if f = 0 then physWrite s off v else if f ≤ 192 then virtWrite s f off v else s)
  | .ctl p off => .next (ctlStore s (p * 4096 + off) 8 v)
end Registers

end Sys2Proof.Machine
end

