-- ==== Sys2Proof/Machine/Attest.lean ====
section
/-! DEFINITION. Iawick's SPDM responder (15 R356–R358): its connection state, its transcript and its answers. The codes of responses are
those of DSP0274 (notes/assumptions/9). -/
namespace Sys2Proof.Machine

def modSpdm (s : State) (f : Spdm → Spdm) : State := modHub s (fun u => { u with spdm := f u.spdm })
/-- A request and a response as the transcript keeps them: header and what follows it. -/
def msgBytes (r : SpdmMsg) : List Byte := [r.version, r.code, r.param1, r.param2] ++ r.body
def replyBytes (code : BitVec 8) (payload : List Byte) : List Byte := [0x13, code, 0, 0] ++ payload
/-- The order of R358: what a request requires of the connection. -/
inductive SpdmNeed where
  | version
  | caps
  | algs
  | exchange
  | session
  deriving DecidableEq, Repr
def needMet (p : Spdm) : SpdmNeed → Bool
  | .version => p.versionDone && !p.capsDone
  | .caps => p.capsDone && !p.algsDone
  | .algs => p.algsDone
  | .exchange => p.keyExchanged && !p.session
  | .session => p.session
/-- A request's error, if it has one: malformed, out of order, of another version, or Iawick busy (R358). -/
def spdmErr (s : State) (r : SpdmMsg) (need : SpdmNeed) : Option (BitVec 8) :=
  if !r.wellFormed then some 0x01
  else if !needMet s.hub.spdm need then some 0x04
  else if r.version != 0x13 then some 0x41
  else if iawickBusy s then some 0x03
  else none
/-- What a request and its answer join: nothing, the exchanges up to the certificate's, or the measurement requests since the last signed one
(R358). -/
inductive SpdmLog where
  | none
  | exchange
  | measure
  deriving DecidableEq, Repr
def logged (p : Spdm) (l : SpdmLog) (ms : List (List Byte)) : Spdm :=
  match l with
  | .none => p
  | .exchange => { p with transcript := p.transcript ++ ms }
  | .measure => { p with measured := p.measured ++ ms }
/-- The frame of a request: its error, or its answer. -/
def spdm (s : State) (r : SpdmMsg) (need : SpdmNeed) (log : SpdmLog) (code : BitVec 8) (f : Spdm → Spdm) (payload : List Byte) : Out :=
  match spdmErr s r need with
  | some e => .next (answer s (.spdmError e))
  | none => .next (modSpdm (answer s (.spdm code payload)) (fun p => f (logged p log [msgBytes r, replyBytes code payload])))
/-- The same of an answer that signs the transcript: the exchanges, with `meas` the measurement requests since the last signed one, and then
its own request and what it says before the signature (R358). -/
def spdmSigned (s : State) (r : SpdmMsg) (meas : Bool) (code : BitVec 8) (payload : List Byte) : Out :=
  match spdmErr s r .algs with
  | some e => .next (answer s (.spdmError e))
  | none =>
    let p := s.hub.spdm
    let sig := Config.mldsaSign ((p.transcript ++ (if meas then p.measured else []) ++ [msgBytes r, replyBytes code payload]).flatMap id)
    .next (modSpdm (answer s (.spdm code (payload ++ sig))) (fun p => if meas then { p with measured := [] } else p))
/-- GET_VERSION (R358): valid at any time, and resets the connection and the transcript. -/
def execGetVersion (r : SpdmMsg) (s : State) : Out :=
  if !r.wellFormed then .next (answer s (.spdmError 0x01))
  else .next (answer (modHub s (fun u => { u with spdm :=
    { versionDone := true, transcript := [msgBytes r, replyBytes 0x04 [0x13]] } })) (.spdm 0x04 [0x13]))
/-- The capability flags of R356: CERT, CHAL, MEAS with signatures, ENCRYPT, MAC and KEY_EX, at the places DSP0274 gives them
(notes/assumptions/9). -/
def capFlags : Nat := 2 + 4 + 16 + 64 + 128 + 512
/-- GET_CAPABILITIES: the flags, and DataTransferSize 4,096 (R356). -/
def execGetCapabilities (r : SpdmMsg) (s : State) : Out :=
  spdm s r .version .exchange 0x61 (fun p => { p with capsDone := true }) (leBytes 4 0 ++ leBytes 4 capFlags ++ leBytes 4 4096)
/-- What is negotiated (R356). -/
def chosenAlgs : List SpdmAlg := [.measHashSha3, .baseHashSha3, .extAsymMldsa44, .dheSecp384r1, .aeadAes256Gcm]
/-- An algorithm's number in the answer: the bit DSP0274 gives it; ML-DSA-44 by Huisil's registry identifier (notes/assumptions/9). -/
def algBits : SpdmAlg → List Byte
  | .measHashSha3 => leBytes 4 0x10
  | .baseHashSha3 => leBytes 4 0x08
  | .extAsymMldsa44 => Config.mldsaId
  | .dheSecp384r1 => leBytes 2 0x10
  | .aeadAes256Gcm => leBytes 2 0x02
/-- NEGOTIATE_ALGORITHMS: the algorithms are chosen, with no BaseAsymAlgo. -/
def execNegotiateAlgorithms (r : SpdmMsg) (s : State) : Out :=
  spdm s r .caps .exchange 0x63 (fun p => { p with algsDone := true, algs := chosenAlgs }) (chosenAlgs.flatMap algBits)
/-- GET_DIGESTS: the digest of the chain in slot 0. -/
def execGetDigests (r : SpdmMsg) (s : State) : Out := spdm s r .algs .exchange 0x01 (fun p => p) (Config.sha3_256 Config.certChain)
def execGetCertificate (r : SpdmMsg) (s : State) : Out :=
  spdm s r .algs .exchange 0x02 (fun p => { p with certDone := true }) Config.certChain
/-- CHALLENGE: CHALLENGE_AUTH signs the transcript (R358). -/
def execChallenge (r : SpdmMsg) (s : State) : Out := spdmSigned s r false 0x03 []
/-- The measurements a request names: 0 asks for their number, 1 to 16 for one register, 255 for all (R357). -/
def measBytes (s : State) (i : Nat) : List Byte :=
  if i = 0 then [16] else if i = 255 then (List.range 16).flatMap (measOf s) else measOf s (i - 1)
/-- GET_MEASUREMENTS: signed when bit 0 of the first parameter asks for it (R358). -/
def execGetMeasurements (r : SpdmMsg) (s : State) : Out :=
  let i := r.param2.toNat
  let signed := r.param1.getLsbD 0
  let r := { r with wellFormed := r.wellFormed && (decide (i ≤ 16) || i == 255) }
  if signed then spdmSigned s r true 0x60 (measBytes s i) else spdm s r .algs .measure 0x60 (fun p => p) (measBytes s i)
def execKeyExchange (r : SpdmMsg) (s : State) : Out :=
  spdm s r .algs .none 0x64 (fun p => { p with keyExchanged := true, session := false }) []
def execFinish (r : SpdmMsg) (s : State) : Out := spdm s r .exchange .none 0x65 (fun p => { p with session := true }) []
def execEndSession (r : SpdmMsg) (s : State) : Out :=
  spdm s r .session .none 0x6C (fun p => { p with session := false, keyExchanged := false }) []
/-- VENDOR_DEFINED_REQUEST: carries the TDISP requests, which have operations of their own. -/
def execVendorDefinedRequest (r : SpdmMsg) (s : State) : Out := spdm s r .session .none 0x7E (fun p => p) []
/-- The request codes of R356. -/
def spdmCodes : List (BitVec 8) := [0x81, 0x82, 0x83, 0x84, 0xE0, 0xE1, 0xE3, 0xE4, 0xE5, 0xEC, 0xFE]
/-- UNSUPPORTED_REQUEST (R358): a code outside R356, once its form, its place in the order, its version and Iawick's occupation are no
reason before it. -/
def execUnsupportedRequest (r : SpdmMsg) (s : State) : Out :=
  if spdmCodes.contains r.code then .next s
  else match spdmErr s r .algs with
    | some e => .next (answer s (.spdmError e))
    | none => .next (answer s (.spdmError 0x07))

end Sys2Proof.Machine
end

