-- ==== Sys2Proof/Machine/Tasklet.lean ====
section
/-! DEFINITION. Tasklets: CALLAT, SPAWNAT, REPLY, TEXIT (06 R162–R164) and the home core's hardware events (01 R34–R38; 13 R302;
12 R288). -/
namespace Sys2Proof.Machine

section Create
/-- The target of a CALLAT or SPAWNAT: translated as a load; the window, a home outside the launch's partition, host memory and far
addresses raise a load access fault, whatever the mode (R162). -/
def taskletTarget (s : State) (h : Hart) (va : DWord) : Except Trap (State × Nat) :=
  let c := dataCtx h
  if (windowOff s h.lkey va.toNat).isSome then .error (accTrap c .load va)
  else match xlate s c .load va.toNat with
    | .error e => .error (xTrap c .load va e)
    | .ok x =>
      if decide (x.pa < 2 ^ 39) && inPart s (launchAt s h.lkey).pid (homeOf x.pa) then .ok (noteWalk s x, x.pa)
      else .error (accTrap c .load va)
/-- A CALLAT's reply word: a window word of this launch (R162; 04 R90). -/
def replyCheck (s : State) (h : Hart) (rw : DWord) : Option Trap :=
  if rw.toNat % 4 ≠ 0 then some { cause := 6, tval := rw, gva := h.virt }
  else match windowOff s h.lkey rw.toNat with
    | some o => if windowOk s h.lkey o 4 then none else some { cause := 7, tval := rw, gva := h.virt }
    | none => some { cause := 7, tval := rw, gva := h.virt }
/-- The tasklet a packet carries (01 R33). -/
def newTasklet (s : State) (h : Hart) (pc arg : DWord) (reply : Option DWord) (dest : Nat) : Hart :=
  let l := launchAt s h.lkey
  { tasklet := true, run := .fetch, tile := dest, lkey := h.lkey, pid := l.pid, pc := pc, priv := .u, virt := l.virt,
    csr := l.caps.filter (fun e => e.2 != 0),
    x := [(1, arg), (2, h.getX 11), (3, h.getX 12), (4, h.getX 13), (5, h.getX 14)].filter (fun e => e.2 != 0),
    creatorTile := h.tile, creatorSlot := h.slot, reply := reply, place := .flight dest }
/-- CALLAT and SPAWNAT (R162): a release at launch scope, then one packet; held at the sender while the home core has no room. It is
indivisible wherever it waits: an interrupt and a termination find it retired (R165). -/
def sendTasklet (bits : DWord) (rs1 rs2 : Reg) (reply : Option Reg) (regs : List Reg) (s : State) : Out :=
  scalar bits false regs s (fun h =>
    if h.boot then trapCur s (illegal bits)
    else if walkWaits s (dataCtx h) h.lkey .load (h.getX rs1) then heldWhole s (walkWait s (dataCtx h) h.lkey .load (h.getX rs1))
    else match taskletTarget s h (h.getX rs1) with
      | .error t => trapCur s t
      | .ok (s, pa) =>
        match reply.bind (fun r => replyCheck s h (h.getX r)) with
        | some t => trapCur s t
        | none =>
          match flushAgent s s.cur with
          | (s, false) => heldWhole s .writes
          | (s, true) =>
            let dest := homeOf pa
            if dropped s h.actsFor h.tile (.mem pa) then heldWhole s (.place (.mem pa) 1 false)
            else if !homeRoom s dest (launchAt s h.lkey).pid then heldWhole s (.room dest)
            else
              let t := newTasklet s h (h.getX rs2) (h.getX rs1) (reply.map (fun r => h.getX r)) dest
              let s := { s with harts := tput s.harts s.nextTask t, nextTask := s.nextTask + 1 }
              retire (modLaunch s h.lkey (fun l => { l with liveTasks := l.liveTasks + 1 })))
def execCallat (rs1 rs2 rs3 : Reg) (s : State) : Out :=
  sendTasklet (insnBits (.callat rs1 rs2 rs3)) rs1 rs2 (some rs3) [rs1, rs2, rs3] s
def execSpawnat (rs1 rs2 : Reg) (s : State) : Out :=
  sendTasklet (insnBits (.spawnat rs1 rs2)) rs1 rs2 none [rs1, rs2] s
end Create

section EndTasklet
/-- An instruction of tasklets alone: illegal in a group (R163, R164). -/
def taskletOnly (bits : DWord) (regs : List Reg) (s : State) (f : Hart → State) : Out :=
  let h := curHart s
  if !h.tasklet then .next (trapCur s (illegal bits))
  else if !taskletMay true regs then .next (trapCur s (laneIllegal bits)) else .next (f h)
/-- REPLY (R163). -/
def execReply (rs1 : Reg) (s : State) : Out :=
  taskletOnly (insnBits (.reply rs1)) [rs1] s (fun h =>
    match h.reply with
    | none => trapCur s (laneIllegal (insnBits (.reply rs1)))
    | some rw =>
      afterRelease s (fun s =>
        match windowOff s h.lkey rw.toNat with
        | none => trapCur s { cause := 7, tval := rw }
        | some o =>
          if !windowOk s h.lkey o 4 then trapCur s { cause := 7, tval := rw }
          else if heldWrite s s.cur (.win o) 4 then heldCur s (.place (.win o) 4 true)
          else
            let s := setFullWrite s (.win o) ((h.getX rs1).setWidth 32)
            endTasklet (traceEvent s s.cur (.exit 2)) s.cur))
/-- TEXIT (R164): the stores already issued still complete. -/
def execTexit (s : State) : Out :=
  taskletOnly (insnBits .texit) [] s (fun _ => endTasklet (traceEvent s s.cur (.exit 2)) s.cur)
/-- TASKLET_TRAP (01 R38). -/
def execTaskletTrap (t cause : Nat) (tval : DWord) (s : State) : Out :=
  if (hartAt s t).tasklet && (tfind s.harts t).isSome then .next (taskletTrapOp s t cause tval) else .next s
/-- MBOX_HEADER_WRITE (12 R288; 01 R26): records that were held are written, and the oldest header goes to the MBOX word with STEF
semantics, after every message that came before it (07 R184), or nowhere where the word has left the issuer. -/
def execMboxHeaderWrite (l : Nat) (s0 : State) : Out :=
  let s := postRecords (launchAt s0 l).records.length s0 l
  match tfind s.launches l with
  | none => .next s
  | some r =>
    match r.headers with
    | [] => .next s
    | (n, w) :: rest =>
      let pop := fun (s : State) => dropLaunch (modLaunch s l (fun l => { l with headers := rest })) l
      if !issuerOwns s r r.mbox then .next (pop s)
      else if isFull s.mem r.mbox || heldWrite s 0xFFFFFE r.mbox 4 || messageBefore s r.mbox n then .next s
      else .next (pop (setFullWrite s r.mbox w))
end EndTasklet

section HomeCore
/-- TASKLET_ARRIVE (01 R34). -/
def execTaskletArrive (t : Nat) (s : State) : Out :=
  let h := hartAt s t
  if !h.tasklet then .next s
  else match h.place with
    | .flight d => (match joinRunQueue s t d with
      | some s => .next s
      | none => .next s)
    | _ => .next s
/-- ROTATION_SLOT_REFILL (13 R302): the tasklet taken has a turn at once; it starts (16 R362) the first time. -/
def execRotationSlotRefill (tile slot : Nat) (s : State) : Out :=
  let q := homeAt s tile
  if 16 ≤ slot ∨ (tfind q.slots slot).isSome then .next s
  else match q.hwQ with
    | [] => .next s
    | k :: rest =>
      let s := modHome s tile (fun q => { q with hwQ := rest, slots := tput q.slots slot k })
      let s := if (hartAt s k).run == .fetch then count s 3 tile 0 0 1 else s
      let s := modHart s k (fun h => { h with place := .slot tile slot, run := .ready })
      .next { s with turns := s.turns ++ [.scalar k] }
/-- RUN_QUEUE_REFILL (13 R302): the head of the ring is read back at its place. -/
def execRunQueueRefill (tile : Nat) (s : State) : Out :=
  let q := homeAt s tile
  if 64 ≤ q.hwQ.length then .next s
  else match q.memQ with
    | [] => .next s
    | k :: rest =>
      let i := ringAt s tile (hartAt s k).pid 0
      if runHeld s k tile i false then .next s
      else
      let t := modHome (runNote s k tile i false) tile (fun q => { q with memQ := rest, memHead := i + 1 })
      match runFault s k tile i false with
      | some a => .next (taskletTrapOp t k 7 (dw a))
      | none =>
        .next (modHart (modHome t tile (fun q => { q with hwQ := q.hwQ ++ [k] })) k (fun h => { h with place := .hwQueue tile }))
/-- TASKLET_MIGRATE (01 R35, R36): once its stores are acknowledged and a forwarding entry is free. Its outstanding loads travel as pending
registers, and the entry stands for their replies. -/
def execTaskletMigrate (t : Nat) (s : State) : Out :=
  let h := hartAt s t
  match h.tasklet && h.run != .stopped, h.migrateTo with
  | true, some d =>
    (match flushAgent s t with
    | (s, false) => .next s
    | (s, true) =>
      if 32 ≤ (homeAt s h.tile).fwd.length || dropped s h.actsFor h.tile (.mem (d * 2 ^ 31)) then .next s
      else
        let s := modHome s h.tile (fun q => { q with slots := q.slots.filter (fun e => e.2 != t), fwd := q.fwd ++ [(t, d, h.loads.length)] })
        .next (count (setHart s t { h with migrateTo := none, place := .flight d, tile := d, run := .ready }) 3 h.tile 0 1 1))
  | _, _ => .next s
/-- LATE_REPLY_FORWARD (01 R36): the n-th forwarding entry of a home core redirects one late reply to the tile its tasklet moved to; with
the last it is freed. -/
def execLateReplyForward (tile n : Nat) (s : State) : Out :=
  match (homeAt s tile).fwd[n]? with
  | none => .next s
  | some (t, d, due) =>
    let loads := (hartAt s t).loads
    let free := fun (s : State) => modHome s tile (fun q => { q with fwd := eraseAt q.fwd n })
    if due = 0 ∨ loads.isEmpty then .next (free s)
    else match loads.findIdx? (fun p => p.tile == tile && (loadReply s p).isSome) with
      | none => .next s
      | some i =>
        let s := modHart s t (fun h => { h with loads := modAt h.loads i (fun p => { p with tile := d, value := loadReply s p }) })
        .next (if due = 1 then free s else modHome s tile (fun q => { q with fwd := modAt q.fwd n (fun e => (e.1, e.2.1, e.2.2 - 1)) }))
end HomeCore

end Sys2Proof.Machine
end

