-- ==== Sys2Proof/Machine/Work.lean ====
section
/-! DEFINITION. custom-2, creating and ending work (06 R152–R165), and the hardware events that carry it on: the launch sequencer
and its checks (06 R154; 13 R294, R295), admission, release and completion (01 R22, R26; 13 R297). -/
namespace Sys2Proof.Machine

section Descriptor
/-- Reads `n` dwords from a virtual address with plain loads of agent `k`: a fault, a held load, or the values. -/
def readDwords (k : Nat) : Nat → State → DWord → Except Trap (State × Option (List DWord))
  | 0, s, _ => .ok (s, some [])
  | n + 1, s, va =>
    let h := hartAt s k
    if walkWaits s (dataCtx h) h.lkey .load va then .ok (s, none)
    else match locate s (dataCtx h) h.lkey h.tasklet .load .scalar va 8 with
    | .error t => .error t
    | .ok l =>
      match agentLoad (l.note s) k l.loc l.mode 8 with
      | (s, none) => .ok (s, none)
      | (s, some v) =>
        match readDwords k n s (va + 8) with
        | .error t => .error t
        | .ok (s, none) => .ok (s, none)
        | .ok (s, some r) => .ok (s, some (v :: r))
/-- What such a read waits for. -/
def dwordsWait (s : State) (k n : Nat) (va : DWord) : WaitOn :=
  let h := hartAt s k
  (((List.range n).map (fun i => va + dw (8 * i))).findSome? (fun a =>
    if walkWaits s (dataCtx h) h.lkey .load a then some (walkWait s (dataCtx h) h.lkey .load a)
    else match locate s (dataCtx h) h.lkey h.tasklet .load .scalar a 8 with
      | .ok l => if placeBlocked s k l.loc 8 false && (forwarded s k l.loc 8).isNone then some (.place l.loc 8 false) else none
      | .error _ => none)).getD .nothing
def dwBytes (l : List DWord) : List Byte := l.flatMap (fun d => leBytes 8 d.toNat)
/-- A little-endian field of a record. -/
def recField (bs : List Byte) (off n : Nat) : Nat := leNat ((bs.drop off).take n)
def allZero (bs : List Byte) (off n : Nat) : Bool := ((bs.drop off).take n).all (fun b => b == 0)
/-- Fields of a launch descriptor (R153). -/
structure Desc where
  ktab : DWord
  kcnt : Nat
  kidx : Nat
  p : Nat
  l1cnt : Nat
  rect : BitVec 32
  arg : DWord
  compl : DWord
  sctx : DWord
  mbox : DWord
  ctxsz : Nat
  gbarn : Nat
  gexp : List Nat
  reservedZero : Bool
  deriving DecidableEq, Repr
def parseDesc (bs : List Byte) : Desc :=
  let g := recField bs 0x31 1
  { ktab := dw (recField bs 0 8), kcnt := recField bs 8 1, kidx := recField bs 9 1, p := recField bs 10 1,
    l1cnt := recField bs 11 1, rect := BitVec.ofNat 32 (recField bs 12 4), arg := dw (recField bs 0x10 8),
    compl := dw (recField bs 0x18 8), sctx := dw (recField bs 0x20 8), mbox := dw (recField bs 0x28 8),
    ctxsz := recField bs 0x30 1, gbarn := g, gexp := (List.range 8).map (fun i => recField bs (0x40 + 4 * i) 4),
    reservedZero := allZero bs 0x32 14 && allZero bs 0x60 32 &&
      (List.range 8).all (fun i => decide (i < g) || recField bs (0x40 + 4 * i) 4 == 0) }
/-- Check 2 of R154, with MGBARCFG's limit (07 R179). -/
def descInRange (d : Desc) (gmax : Nat) : Bool :=
  decide (1 ≤ d.kcnt ∧ d.kcnt ≤ 128 ∧ d.kidx < d.kcnt ∧ 1 ≤ d.p ∧ d.p ≤ 96 ∧ 1 ≤ d.l1cnt ∧ d.l1cnt ≤ 16 ∧ 1 ≤ d.ctxsz ∧
    d.gbarn ≤ min 8 gmax) && (d.gexp.take d.gbarn).all (fun e => decide (1 ≤ e)) &&
  d.ktab.toNat % 64 == 0 && d.sctx.toNat % 64 == 0 && d.mbox.toNat % 4 == 0
/-- Check 3. -/
def descRectOk (s : State) (pid : Nat) (d : Desc) : Bool :=
  rectOk d.rect && (rectTiles d.rect).all (fun t => inPart s pid t)
/-- A kernel metadata record (17 R388), if it is valid and its workgroup fits an empty core (17 R389). -/
def parseKernel (bs : List Byte) (l1cnt : Nat) : Option Kernel :=
  let k : Kernel := {
    sentry := dw (recField bs 0 8), lentry := dw (recField bs 8 8), vcnt := recField bs 0x10 2, groups := recField bs 0x12 1,
    scratch := recField bs 0x13 1, acc := recField bs 0x14 1, wslots := BitVec.ofNat 8 (recField bs 0x15 1),
    barriers := recField bs 0x16 1, prio := recField bs 0x17 1, sweight := recField bs 0x18 1,
    pal := (List.range 15).map (fun b => dw (recField bs (0x40 + 8 * b) 8)) }
  let n := if k.groups > 8 then 2 else 1
  if k.sentry.toNat % 4 = 0 ∧ k.lentry.toNat % 4 = 0 ∧ 32 ≤ k.vcnt ∧ k.vcnt ≤ 1024 ∧ k.vcnt % 32 = 0 ∧
     1 ≤ k.groups ∧ k.groups ≤ 16 ∧ k.scratch ≤ 15 ∧ k.acc ≤ 16 ∧ k.wslots.toNat < 16 ∧ k.barriers ≤ 16 ∧ k.prio ≤ 3 ∧
     1 ≤ k.sweight ∧ k.sweight ≤ 16 ∧ allZero bs 0x19 39 ∧ allZero bs 0xB8 8 ∧
     (List.range 15).all (fun b => decide (b < k.scratch) || k.pal.getD b 0 == 0) ∧
     k.scratch ≤ 16 - l1cnt ∧ k.vcnt * n ≤ 1024 ∧ k.acc * n ≤ 16 then some k else none
/-- Why a LAUNCH does not start. -/
inductive LaunchStop where
  | trap (t : Trap)
  | held
  | status (n : Nat)
  deriving DecidableEq, Repr
/-- Check 4: every record of the table, in table order. -/
def readKernels (k l1cnt : Nat) : State → List DWord → Except LaunchStop (State × List Kernel)
  | s, [] => .ok (s, [])
  | s, a :: rest =>
    if a.toNat % 64 ≠ 0 then .error (.status 4)
    else match readDwords k 24 s a with
      | .error t => .error (.trap t)
      | .ok (_, none) => .error .held
      | .ok (s, some ds) =>
        match parseKernel (dwBytes ds) l1cnt with
        | none => .error (.status 4)
        | some ker =>
          match readKernels k l1cnt s rest with
          | .error e => .error e
          | .ok (s, ks) => .ok (s, ker :: ks)
/-- Check 5: no core of the rectangle runs a launch with another L1 split. -/
def splitsAgree (s : State) (d : Desc) : Bool :=
  (rectTiles d.rect).all (fun t => match l1Of s t with
    | none => true
    | some n => n == d.l1cnt)
/-- A word that COMPL or MBOX may name (R153): a window word of a bank of the issuing workgroup, or a mailbox slot of the issuing
partition. -/
def issuerWord (s : State) (h : Hart) (va : DWord) : Option Loc :=
  match locate s (dataCtx h) h.lkey false .store .fe va 4 with
  | .error _ => none
  | .ok l => match l.loc with
    | .win o => if tfind s.bankOwner (o / 2 ^ 17) == some h.wg then some (.win o) else none
    | .mbox b => some (.mbox b)
    | _ => none
/-- The walk of such a word meets a held table entry: the check waits (04 R106). -/
def issuerHeld (s : State) (h : Hart) (va : DWord) : Bool := walkWaits s (dataCtx h) h.lkey .store va
/-- The mailbox word and the copy command word after it, in one bank or one mailbox page. -/
def issuerPair (s : State) (h : Hart) (va : DWord) : Option (Loc × Loc) :=
  match issuerWord s h va, issuerWord s h (va + 4) with
  | some (.win a), some (.win b) => if a / 2 ^ 17 = b / 2 ^ 17 then some (.win a, .win b) else none
  | some (.mbox a), some (.mbox b) => if a / 256 = b / 256 then some (.mbox a, .mbox b) else none
  | _, _ => none
end Descriptor

section Routing
def hops (a b : Nat) : Nat :=
  (max (tileCol a) (tileCol b) - min (tileCol a) (tileCol b)) + (max (tileRow a) (tileRow b) - min (tileRow a) (tileRow b))
/-- Whether a direction code reduces the hop distance from t to d (15 R336, R337; 00 R1): north, east, south, west. -/
def towards (t d c : Nat) : Bool :=
  match c with
  | 1 => decide (tileRow d < tileRow t)
  | 2 => decide (tileCol t < tileCol d)
  | 3 => decide (tileRow t < tileRow d)
  | 4 => decide (tileCol d < tileCol t)
  | _ => false
/-- The code that R337 requires at router t for destination d. -/
def routeOk (s : State) (pid t d c : Nat) : Bool :=
  if d = t then c == 0
  else if inPart s pid d then c == 5 || towards t d c
  else c == 6
/-- Where a tile's routing record lies in the partition's image (MROUTECFG). -/
def recordAddr (s : State) (pid t : Nat) : Nat := bitsOf (partAt s pid).routeCfg 16 48 * 65536 + 256 * t
/-- The routing record of a tile in the partition's image, if every byte of it can be read. -/
def routeRecord (s : State) (pid t : Nat) : Option (List Byte) :=
  let a := recordAddr s pid t
  if a + 256 ≤ 2 ^ 39 && partOf s (homeOf a) == some 15 && !anyPoison s a 256 then
    some (getBytes s.mem.bytes a 256) else none
/-- The tag checks of such a read (15 R342). -/
def routeNote (s : State) (pid t : Nat) : State :=
  let a := recordAddr s pid t
  if a + 256 ≤ 2 ^ 39 && partOf s (homeOf a) == some 15 then notePoisonSpan s a 256 else s
/-- Check 8: loads the routers of a rectangle in tile order until one record fails; routers already written keep theirs (13
R294). No answer where a record's bytes are held: the check waits (04 R106). -/
def loadRouters (s : State) (pid : Nat) : List Nat → State × Option Bool
  | [] => (s, some true)
  | t :: rest =>
    if heldRead s (.mem (recordAddr s pid t)) 256 then (s, none)
    else match routeRecord s pid t with
    | none => (routeNote s pid t, some false)
    | some r =>
      if (List.range 256).all (fun d => routeOk s pid t d (r.getD d 0).toNat) then
        loadRouters { s with routers := tput s.routers t r } pid rest
      else (s, some false)
end Routing

section LaunchFlow
/-- What LAUNCH captures of its issuing hart (12 R267), zeros among it. -/
def capturesOf (h : Hart) : Table DWord :=
  let ss : DWord := 0xC0000
  let put := fun (t : Table DWord) (n : Nat) (v : DWord) => tput t n v
  let t : Table DWord := put (put [] 0x302 (h.getC 0x302)) 0x303 (h.getC 0x303)
  if h.virt then
    let t := put (put (put t 0x280 (h.getC 0x280)) 0x680 (h.getC 0x680)) 0x205 (h.getC 0x205)
    let t := put (put t 0x304 (h.getC 0x304 &&& 0x444 &&& h.getC 0x603)) 0x204 (h.getC 0x204 &&& 0x10000)
    let t := put (put (put t 0x200 (h.getC 0x200 &&& ss)) 0x602 (h.getC 0x602)) 0x603 (h.getC 0x603)
    put (put t 0x60A (h.getC 0x60A)) 0x605 (h.getC 0x605)
  else
    let t := put (put t 0x180 (h.getC 0x180)) 0x105 (h.getC 0x105)
    put (put t 0x304 (h.getC 0x304 &&& (0x10000 ||| (0x222 &&& h.getC 0x303)))) 0x300 (h.getC 0x300 &&& ss)
/-- Ends a LAUNCH with a value in its destination register. -/
def launchAnswer (s : State) (k : Nat) (rd : Reg) (v : DWord) : State := modHart s k (fun h => retireHart (h.setX rd v))
/-- The launch that a descriptor which passed every check starts (R154; 12 R267). -/
def newLaunch (h : Hart) (pid lid : Nat) (d : Desc) (ks : List Kernel) (compl mbox cmdw : Loc) : Launch :=
  let r := d.rect.toNat
  { pid := pid, lid := lid, colo := field r 0 8, rowo := field r 8 8, width := field r 16 8, height := field r 24 8,
    kernels := ks, kidx := d.kidx, p := d.p, l1cnt := d.l1cnt, arg := d.arg, compl := compl, mbox := mbox, cmdw := cmdw,
    sctx := d.sctx, ctxsz := d.ctxsz, gbars := (List.range d.gbarn).map (fun i => (i, { expected := d.gexp.getD i 1 })),
    gbarn := d.gbarn, caps := capturesOf h, virt := h.virt, swbase := h.getB 0x5C8 &&& ~~~(0x1FFFFFFF : DWord),
    issuerWg := h.wg, issuerLkey := h.lkey, hpid := h.pid, wgidCtr := field r 16 8 * field r 24 8 * d.p,
    liveWgs := field r 16 8 * field r 24 8 * d.p }
/-- Launches of a partition that are running (check 7). -/
def runningCount (s : State) (pid : Nat) : Nat := (s.launches.filter (fun e => e.2.pid == pid && running e.2)).length
/-- The next LAUNCHID of a partition: no launch of it that runs has it (02 R59). At most 64 run. -/
def freeLid (s : State) (pid : Nat) : Nat :=
  let n := (partAt s pid).lidCtr
  (((List.range 65).map (fun i => (n + i) % 2 ^ 32)).find? (fun i =>
    !s.launches.any (fun e => e.2.pid == pid && running e.2 && e.2.lid == i))).getD n
/-- A launch that passed every check: its record, and its cores' L1s at their new size (01 R27). -/
def addLaunch (s : State) (pid lid : Nat) (r : Launch) : State :=
  let s := modPart s pid (fun q => { q with lidCtr := (lid + 1) % 2 ^ 32 })
  let s := { s with launches := tput s.launches s.nextLaunch r, nextLaunch := s.nextLaunch + 1 }
  (rectTiles r.rect).foldl (fun s t => fitCache s (l1Holder t) (2 ^ 58)) s
/-- Checks 5 to 9, and the launch record on success: the LAUNCH then waits for its placement. Nothing while a place that a check reads is
held. -/
def launchFinish (s : State) (k pid : Nat) (rd : Reg) (d : Desc) (ks : List Kernel) : Option State :=
  let h := hartAt s k
  let fail := fun (s : State) (n : Nat) => some (launchAnswer s k rd (dw n))
  if !splitsAgree s d then fail s 5
  else if issuerHeld s h d.compl || issuerHeld s h d.mbox || issuerHeld s h (d.mbox + 4) then none
  else match issuerWord s h d.compl, issuerPair s h d.mbox with
    | some c, some (m, w) =>
      if 64 ≤ runningCount s pid then fail s 8
      else match loadRouters s pid (rectTiles d.rect) with
        | (_, none) => none
        | (s, some false) => fail s 6
        | (s, some true) =>
          if (rectTiles d.rect).any (fun t => decide (freeEntries s pid t < reservedOn s t + d.p)) then fail s 9
          else
            let lid := freeLid s pid
            let l := s.nextLaunch
            some (modHart (addLaunch s pid lid (newLaunch h pid lid d ks c m w)) k (fun h => { h with wait := .placing l rd }))
    | _, _ => fail s 7
/-- Checks 1 to 4 of one LAUNCH: the descriptor's, then its kernels. DESIGN CHOICE (notes/assumptions/74): what the descriptor holds when it
is checked counts, and not what the LAUNCH's own reading found, where its memory changes between the two. -/
def launchChecks (s : State) (k pid : Nat) (desc : DWord) : Except LaunchStop (State × Desc × List Kernel) :=
  match readDwords k 16 s desc with
  | .error t => .error (.trap t)
  | .ok (_, none) => .error .held
  | .ok (s, some ds) =>
    let d := parseDesc (dwBytes ds)
    if !d.reservedZero then .error (.status 1)
    else if !descInRange d (partAt s pid).gmax.toNat then .error (.status 2)
    else if !descRectOk s pid d then .error (.status 3)
    else match readDwords k d.kcnt s d.ktab with
      | .error t => .error (.trap t)
      | .ok (_, none) => .error .held
      | .ok (s, some tab) =>
        match readKernels k d.l1cnt s tab with
        | .error e => .error e
        | .ok (s, ks) => .ok (s, d, ks)
/-- A fault of a read by hart k, taken at its LAUNCH. -/
def launchFault (s : State) (k : Nat) (t : Trap) : State :=
  takeTrap (notePoisonAt s (dataCtx (hartAt s k)) (hartAt s k).lkey .load t.tval 8) k t
/-- The checks of a LAUNCH have begun and wait for a held place: it is indivisible from here on (R152, R165). -/
def launchBegun (s : State) (k : Nat) : State := modHart s k (fun h => { h with indiv := true })
/-- LAUNCH_CHECK (R154; 13 R294): the sequencer's next LAUNCH, once the one before it has placed its workgroups. -/
def launchCheck (s : State) (p : Nat) : State :=
  if s.launches.any (fun e => e.2.pid == p && !e.2.placed) then s
  else match (partAt s p).seqQ with
    | [] => s
    | e :: rest =>
      let pop := fun (s : State) => modPart s p (fun q => { q with seqQ := rest })
      match launchChecks s e.hart p e.desc with
      | .error .held => launchBegun s e.hart
      | .error (.trap t) => launchFault (pop s) e.hart t
      | .error (.status n) => launchAnswer (pop s) e.hart e.rd (dw n)
      | .ok (t, d, ks) => (launchFinish (pop t) e.hart p e.rd d ks).getD (launchBegun s e.hart)
def execLaunchCheck (p : Nat) (s : State) : Out := .next (launchCheck s p)
/-- LAUNCH (R152): the descriptor is read, and the request joins its partition's sequencer; the group is in WAIT_DEP. -/
def execLaunch (rd rs1 : Reg) (s : State) : Out :=
  scalar (insnBits (.launch rd rs1)) false [rd, rs1] s (fun h =>
    let va := h.getX rs1
    if h.priv == .m || (h.priv == .s && !h.virt) then trapCur s (illegal (insnBits (.launch rd rs1)))
    else if va.toNat % 64 ≠ 0 then trapCur s { cause := 4, tval := va, gva := h.virt }
    else match readDwords s.cur 16 s va with
      | .error t => launchFault s s.cur t
      | .ok (s, none) => heldCur s (dwordsWait s s.cur 16 va)
      | .ok (s, some _) =>
        heldCur (modPart s h.actsFor (fun q => { q with seqQ := q.seqQ ++ [{ hart := s.cur, desc := va, rd := rd }] })) (.launch rd))
/-- The P initial workgroups of one tile, in increasing k (01 R25; R295). DESIGN CHOICE (notes/assumptions/75): an entry whose push must
spill, where the ring access faults, is lost as a spilled one is (R29), a case that the rules give no outcome. Nothing while a ring place
is held. -/
def placeTile (s : State) (lk : Nat) (l : Launch) (t : Nat) : Option State :=
  let i := tileCol t - l.colo; let j := tileRow t - l.rowo
  (List.range l.p).foldl (fun (a : Option State) n => a.bind (fun s =>
    let e : EaselEntry := { lkey := lk, kidx := l.kidx, arg := l.arg, joinWord := 0, wgid := (j * l.width + i) * l.p + n }
    if (pushHeld s t e).isSome then none
    else some ((pushEasel (spillNote s t) t e).getD (loseEntry (spillNote s t) t e).1))) (some s)
/-- The group whose LAUNCH waits for a launch's placement. -/
def placer (s : State) (l : Nat) : Option (Nat × Reg) :=
  s.harts.findSome? (fun e => match e.2.wait with
    | .placing k rd => if k == l then some (e.1, rd) else none
    | _ => none)
/-- The launch message follows the issuing group's earlier writes to the scratchpads of the rectangle (04 R107): false while one of
them is held. -/
def launchMessage (s : State) (l : Nat) (r : Launch) : State × Bool :=
  match placer s l with
  | none => (s, true)
  | some (k, _) => flushIf (fun q => q.agent == k && (match q.loc with
      | .win o => rectHas r.rect (field o 21 8)
      | _ => false)) s
/-- LAUNCH_INITIAL_PLACEMENT (R295): every tile receives its workgroups in one clk, and the LAUNCH retires with its LAUNCHID. -/
def execLaunchInitialPlacement (l : Nat) (s : State) : Out :=
  match tfind s.launches l with
  | none => .next s
  | some r =>
    if r.placed then .next s
    else match launchMessage s l r with
      | (s, false) => .next s
      | (s, true) =>
        match (rectTiles r.rect).foldl (fun (a : Option State) t => a.bind (fun s => placeTile s l r t)) (some s) with
        | none => .next s
        | some s1 =>
          let s2 := modLaunch s1 l (fun l => { l with placed := true })
          .next (match placer s2 l with
            | some (k, rd) => launchAnswer s2 k rd (dw (r.lid * 2 ^ 32))
            | none => s2)
/-- LAUNCH_COMPLETE (01 R26). -/
def execLaunchComplete (l : Nat) (s : State) : Out := .next (completeLaunch s l)
end LaunchFlow

section ForkJoin
/-- The value FORK returns (R156). -/
def forkAnswer (s : State) (rd : Reg) (status wgid : Nat) : State := retireX s rd (dw (status + wgid * 2 ^ 32))
/-- FORK's push, after its join increment (R157): the WGID is taken whether or not the push succeeds. -/
def forkPush (s : State) (h : Hart) (rd : Reg) (k : Nat) (arg jw : DWord) (join : Option Loc) : State :=
  let l := launchAt s h.lkey
  let wgid := l.wgidCtr
  let s := modLaunch s h.lkey (fun l => { l with wgidCtr := wgid + 1 })
  let e : EaselEntry := { lkey := h.lkey, kidx := k, arg := arg, joinWord := jw, wgid := wgid }
  let room := decide (reservedOn s h.tile < freeEntries s l.pid h.tile)
  let s := if room then spillNote s h.tile else s
  match (if room then pushEasel s h.tile e else none) with
  | some s => forkAnswer (modLaunch s h.lkey (fun l => { l with liveWgs := l.liveWgs + 1 })) rd 0 wgid
  | none =>
    let s := match join with
      | some j => (homeWriteN s s.cur j 8 (readLoc s.mem j 8 - 1)).1
      | none => s
    forkAnswer s rd 18 0
/-- FORK (R157), which an interrupt and a termination that come while it waits find retired (R165): its launch and fork message carries the
group's earlier writes to this core's scratchpad (01 R28; 04 R107). -/
def execFork (rd rs1 rs2 : Reg) (k : BitVec 7) (s : State) : Out :=
  scalar (insnBits (.fork rd rs1 rs2 k)) false [rd, rs1, rs2] s (fun h =>
    let l := launchAt s h.lkey
    let jw := h.getX rs2
    if h.boot then trapCur s (illegal (insnBits (.fork rd rs1 rs2 k)))
    else if l.kernels.length ≤ k.toNat then forkAnswer s rd 16 0
    else if l.wgidCtr = 0xFFFFFFFF then forkAnswer s rd 17 0
    else
      let mine := fun (r : Req) => r.agent == s.cur && (match r.loc with
        | .win o => field o 21 8 == h.tile
        | _ => false)
      match flushIf mine s with
      | (s, false) => heldWhole s .writes
      | (s, true) =>
        -- a held place of the spill ring, or of the join word's walk, is waited for before anything is done
        match (if reservedOn s h.tile < freeEntries s l.pid h.tile then pushHeld s h.tile { lkey := h.lkey } else none) with
        | some (p, n) => heldWhole s (.place p n true)
        | none =>
        if jw = 0 then forkPush s h rd k.toNat (h.getX rs1) 0 none
        else if jw.toNat % 8 = 0 ∧ walkWaits s (dataCtx h) h.lkey .store jw then heldWhole s (walkWait s (dataCtx h) h.lkey .store jw)
        else accessAt s h .store .join jw 8 (fun s x =>
          match agentRmw s s.cur x.loc x.mode 8 .add 1 0 with
          | (s, none) => heldWhole s (.place x.loc 8 true)
          | (s, some _) => forkPush s h rd k.toNat (h.getX rs1) jw (some x.loc)))
/-- An acquire read at launch scope of a join word at its home: nothing while it is held. -/
def joinRead (s : State) (k : Nat) (l : Located) : State × Option DWord :=
  match flushWord (l.note s) k l.loc 8 with
  | (s, false) => (s, none)
  | (s, true) => if heldRead s l.loc 8 || unanswered s k l.loc 8 then (s, none) else (s, some (readLoc s.mem l.loc 8))
/-- JOIN (R158). -/
def execJoin (imm : BitVec 12) (rs1 : Reg) (s : State) : Out :=
  scalar (insnBits (.join imm rs1)) false [rs1] s (fun h =>
    let va := h.getX rs1 + sext12 imm
    accessAt s h .load .join va 8 (fun s l =>
      match joinRead s s.cur l with
      | (s, none) => heldCur s (.place l.loc 8 false)
      | (s, some v) =>
        if v = 0 then retire (acquireAll s s.cur) else waitCur s (.join va)))
/-- JOIN_SATISFIED (R158): the next acquire read of a waiting JOIN returns 0, and the JOIN retires. -/
def execJoinSatisfied (h : Nat) (s : State) : Out :=
  let k := hartAt s h
  match k.wait with
  | .join va =>
    if walkWaits s (dataCtx k) k.lkey .load va then .next s
    else match locate s (dataCtx k) k.lkey false .load .join va 8 with
    | .error t => .next (takeTrap s h t)
    | .ok l =>
      match joinRead s h l with
      | (s, some v) =>
        if v = 0 then .next (modHart (acquireAll s h) h wakeHart) else .next s
      | (s, none) => .next s
  | _ => .next s
end ForkJoin

section Ending
/-- EXIT and exit park (R159, R160): the group drains; EXIT_DRAIN_DONE ends it. -/
def exitOp (bits : DWord) (park : Bool) (s : State) : Out :=
  scalar bits false [] s (fun h =>
    if park && h.priv == .u then trapCur s (illegal bits)
    else setCur s { landAll h with run := .waitSync, wait := .exit park })
def execExit (s : State) : Out := exitOp (insnBits .exit) false s
def execExitPark (s : State) : Out := exitOp (insnBits .exitPark) true s
/-- EXIT_DRAIN_DONE (R159, R160; 09 R240). -/
def execExitDrainDone (h : Nat) (s : State) : Out :=
  match (hartAt s h).wait with
  | .exit park =>
    match flushAgent s h with
    | (s, false) => .next s
    | (s, true) =>
      match (accFaultTake s h).orElse (fun _ => lateFaultTake s h) with
      | some s => .next s
      | none => .next (memberEnded (traceEvent s h (.exit (if park then 1 else 0))) h (if park then 2 else 1))
  -- a member of a terminated workgroup executes no EXIT
  | .drain =>
    match flushAgent s h with
    | (s, false) => .next s
    | (s, true) => .next (memberEnded s h 1)
  | _ => .next s
/-- WORKGROUP_RELEASE (01 R22, R23, R32). -/
def execWorkgroupRelease (w : Nat) (s : State) : Out := .next (releaseWg s w)
/-- YIELD (R161). -/
def execYield (s : State) : Out :=
  scalar (insnBits .yield) false [] s (fun h =>
    let ready := (subcoreHarts s h.tile (subcoreOf h.slot)).filter (fun k =>
      k != s.cur && (offersLane s (hartAt s k) || offersScalar s (hartAt s k)))
    retireCur s { h with yieldTo := some (s.clk + 16), yieldFor := ready })
/-- ADMISSION_DECISION (13 R297). -/
def execAdmissionDecision (tile : Nat) (s : State) : Out := .next (admissionStep s tile)
/-- EASEL_REFILL (01 R29). -/
def execEaselRefill (tile : Nat) (s : State) : Out := .next (refillEasel s tile)
end Ending

end Sys2Proof.Machine
end

