-- ==== Sys2Proof/Machine/Dispatch.lean ====
section
/-! DEFINITION. Dispatch: one arm per constructor of `Instr`, each a direct call of its meaning. -/
namespace Sys2Proof.Machine

/-- The meaning of an instruction or operation on the whole package. -/
def exec (i : Instr) (s : State) : Host.Outcome State Fault Refusal :=
  match i with
  | .powerOn => Sys2Proof.Machine.execPowerOn s
  | .bringupStage a => Sys2Proof.Machine.execBringupStage a s
  | .recover => Sys2Proof.Machine.execRecover s
  | .bootGroupAdmit a => Sys2Proof.Machine.execBootGroupAdmit a s
  | .registerWrite a b => Sys2Proof.Machine.execRegisterWrite a b s
  | .mspWrite a => Sys2Proof.Machine.execMspWrite a s
  | .timerExpire a => Sys2Proof.Machine.execTimerExpire a s
  | .imsicMessage a b c d => Sys2Proof.Machine.execImsicMessage a b c d s
  | .trapEntry a => Sys2Proof.Machine.execTrapEntry a s
  | .issuePick a b => Sys2Proof.Machine.execIssuePick a b s
  | .starvationBoost a => Sys2Proof.Machine.execStarvationBoost a s
  | .yieldExpire a => Sys2Proof.Machine.execYieldExpire a s
  | .laneResultWrite a => Sys2Proof.Machine.execLaneResultWrite a s
  | .admissionDecision a => Sys2Proof.Machine.execAdmissionDecision a s
  | .easelRefill a => Sys2Proof.Machine.execEaselRefill a s
  | .exitDrainDone a => Sys2Proof.Machine.execExitDrainDone a s
  | .workgroupRelease a => Sys2Proof.Machine.execWorkgroupRelease a s
  | .joinSatisfied a => Sys2Proof.Machine.execJoinSatisfied a s
  | .launchCheck a => Sys2Proof.Machine.execLaunchCheck a s
  | .launchInitialPlacement a => Sys2Proof.Machine.execLaunchInitialPlacement a s
  | .launchComplete a => Sys2Proof.Machine.execLaunchComplete a s
  | .taskletArrive a => Sys2Proof.Machine.execTaskletArrive a s
  | .rotationSlotRefill a b => Sys2Proof.Machine.execRotationSlotRefill a b s
  | .runQueueRefill a => Sys2Proof.Machine.execRunQueueRefill a s
  | .taskletMigrate a => Sys2Proof.Machine.execTaskletMigrate a s
  | .lateReplyForward a b => Sys2Proof.Machine.execLateReplyForward a b s
  | .taskletTrap a b c => Sys2Proof.Machine.execTaskletTrap a b c s
  | .mboxHeaderWrite a => Sys2Proof.Machine.execMboxHeaderWrite a s
  | .redUpdateExecute a => Sys2Proof.Machine.execRedUpdateExecute a s
  | .homeAccess a => Sys2Proof.Machine.execHomeAccess a s
  | .feBounce a => Sys2Proof.Machine.execFeBounce a s
  | .feResend a => Sys2Proof.Machine.execFeResend a s
  | .feWithdrawal a => Sys2Proof.Machine.execFeWithdrawal a s
  | .lrwGrant a => Sys2Proof.Machine.execLrwGrant a s
  | .lrwWaitRetry a b => Sys2Proof.Machine.execLrwWaitRetry a b s
  | .reservationRevoke a => Sys2Proof.Machine.execReservationRevoke a s
  | .lrHoldExpire a => Sys2Proof.Machine.execLrHoldExpire a s
  | .recall a => Sys2Proof.Machine.execRecall a s
  | .leaseRenewalReply a => Sys2Proof.Machine.execLeaseRenewalReply a s
  | .leaseSweep a => Sys2Proof.Machine.execLeaseSweep a s
  | .pageWalkComplete a => Sys2Proof.Machine.execPageWalkComplete a s
  | .streamerRound a => Sys2Proof.Machine.execStreamerRound a s
  | .copyOwnership a => Sys2Proof.Machine.execCopyOwnership a s
  | .copyFaultMessage a => Sys2Proof.Machine.execCopyFaultMessage a s
  | .copyComplete a => Sys2Proof.Machine.execCopyComplete a s
  | .copyResume a => Sys2Proof.Machine.execCopyResume a s
  | .copyDiscard a => Sys2Proof.Machine.execCopyDiscard a s
  | .accstStoreFault a => Sys2Proof.Machine.execAccstStoreFault a s
  | .accstStoresAcked a b => Sys2Proof.Machine.execAccstStoresAcked a b s
  | .park a b => Sys2Proof.Machine.execPark a b s
  | .parkAndHold a b => Sys2Proof.Machine.execParkAndHold a b s
  | .releaseHold a b => Sys2Proof.Machine.execReleaseHold a b s
  | .terminate a b => Sys2Proof.Machine.execTerminate a b s
  | .preemptGraceExpire a => Sys2Proof.Machine.execPreemptGraceExpire a s
  | .energyMeterReport a b => Sys2Proof.Machine.execEnergyMeterReport a b s
  | .energyWindowStart => Sys2Proof.Machine.execEnergyWindowStart s
  | .thermalLimit a => Sys2Proof.Machine.execThermalLimit a s
  | .thermalClear => Sys2Proof.Machine.execThermalClear s
  | .eolUpdate a b c => Sys2Proof.Machine.execEolUpdate a b c s
  | .partitionCreate a => Sys2Proof.Machine.execPartitionCreate a s
  | .partitionFree a => Sys2Proof.Machine.execPartitionFree a s
  | .partitionReset a => Sys2Proof.Machine.execPartitionReset a s
  | .partitionResetFlush a => Sys2Proof.Machine.execPartitionResetFlush a s
  | .partitionResetComplete a => Sys2Proof.Machine.execPartitionResetComplete a s
  | .free a => Sys2Proof.Machine.execFree a s
  | .flushl2 a => Sys2Proof.Machine.execFlushl2 a s
  | .extend a => Sys2Proof.Machine.execExtend a s
  | .gessoInitComplete a => Sys2Proof.Machine.execGessoInitComplete a s
  | .glazeStart a => Sys2Proof.Machine.execGlazeStart a s
  | .glazePassStart a => Sys2Proof.Machine.execGlazePassStart a s
  | .glazeVisit a => Sys2Proof.Machine.execGlazeVisit a s
  | .varnishLoad a => Sys2Proof.Machine.execVarnishLoad a s
  | .varnishRevoke a => Sys2Proof.Machine.execVarnishRevoke a s
  | .kdataRead a => Sys2Proof.Machine.execKdataRead a s
  | .kdataWrite a b => Sys2Proof.Machine.execKdataWrite a b s
  | .ktrcWrite a b => Sys2Proof.Machine.execKtrcWrite a b s
  | .ksktWrite a b => Sys2Proof.Machine.execKsktWrite a b s
  | .kstopStop a b => Sys2Proof.Machine.execKstopStop a b s
  | .debugStopTake a => Sys2Proof.Machine.execDebugStopTake a s
  | .kstopRelease a b => Sys2Proof.Machine.execKstopRelease a b s
  | .sketchPulse => Sys2Proof.Machine.execSketchPulse s
  | .mailboxHostWrite a b c => Sys2Proof.Machine.execMailboxHostWrite a b c s
  | .mailboxHostTake a b => Sys2Proof.Machine.execMailboxHostTake a b s
  | .hostMemAccess a b c d => Sys2Proof.Machine.execHostMemAccess a b c d s
  | .farWriteReceive a b c d => Sys2Proof.Machine.execFarWriteReceive a b c d s
  | .vfBindingWrite a b => Sys2Proof.Machine.execVfBindingWrite a b s
  | .lockInterfaceRequest a => Sys2Proof.Machine.execLockInterfaceRequest a s
  | .startInterfaceRequest a => Sys2Proof.Machine.execStartInterfaceRequest a s
  | .stopInterfaceRequest a => Sys2Proof.Machine.execStopInterfaceRequest a s
  | .getDeviceInterfaceReport a => Sys2Proof.Machine.execGetDeviceInterfaceReport a s
  | .getDeviceInterfaceState a => Sys2Proof.Machine.execGetDeviceInterfaceState a s
  | .functionLevelReset a => Sys2Proof.Machine.execFunctionLevelReset a s
  | .ideStreamFailure a => Sys2Proof.Machine.execIdeStreamFailure a s
  | .getVersion a => Sys2Proof.Machine.execGetVersion a s
  | .getCapabilities a => Sys2Proof.Machine.execGetCapabilities a s
  | .negotiateAlgorithms a => Sys2Proof.Machine.execNegotiateAlgorithms a s
  | .getDigests a => Sys2Proof.Machine.execGetDigests a s
  | .getCertificate a => Sys2Proof.Machine.execGetCertificate a s
  | .challenge a => Sys2Proof.Machine.execChallenge a s
  | .getMeasurements a => Sys2Proof.Machine.execGetMeasurements a s
  | .keyExchange a => Sys2Proof.Machine.execKeyExchange a s
  | .finish a => Sys2Proof.Machine.execFinish a s
  | .endSession a => Sys2Proof.Machine.execEndSession a s
  | .vendorDefinedRequest a => Sys2Proof.Machine.execVendorDefinedRequest a s
  | .unsupportedRequest a => Sys2Proof.Machine.execUnsupportedRequest a s
  | .farWriteAcknowledgement a b => Sys2Proof.Machine.execFarWriteAcknowledgement a b s
  | .lrun a => Sys2Proof.Machine.execLrun a s
  | .lrunr a => Sys2Proof.Machine.execLrunr a s
  | .lpc a b => Sys2Proof.Machine.execLpc a b s
  | .mand a b c => Sys2Proof.Machine.execMand a b c s
  | .mor a b c => Sys2Proof.Machine.execMor a b c s
  | .mxor a b c => Sys2Proof.Machine.execMxor a b c s
  | .mandn a b c => Sys2Proof.Machine.execMandn a b c s
  | .mnot a b => Sys2Proof.Machine.execMnot a b s
  | .mmov a b => Sys2Proof.Machine.execMmov a b s
  | .mpush a => Sys2Proof.Machine.execMpush a s
  | .mpop a => Sys2Proof.Machine.execMpop a s
  | .mpeek a b => Sys2Proof.Machine.execMpeek a b s
  | .mpoke a b => Sys2Proof.Machine.execMpoke a b s
  | .mcnt a b => Sys2Proof.Machine.execMcnt a b s
  | .mfirst a b => Sys2Proof.Machine.execMfirst a b s
  | .mgetx a b c => Sys2Proof.Machine.execMgetx a b c s
  | .msetx a b c => Sys2Proof.Machine.execMsetx a b c s
  | .bmany a b => Sys2Proof.Machine.execBmany a b s
  | .bmnone a b => Sys2Proof.Machine.execBmnone a b s
  | .bmall a b => Sys2Proof.Machine.execBmall a b s
  | .ldfe a b c => Sys2Proof.Machine.execLdfe a b c s
  | .ldff a b c => Sys2Proof.Machine.execLdff a b c s
  | .stef a b c => Sys2Proof.Machine.execStef a b c s
  | .stff a b c => Sys2Proof.Machine.execStff a b c s
  | .feclr a b => Sys2Proof.Machine.execFeclr a b s
  | .lrwW a b => Sys2Proof.Machine.execLrwW a b s
  | .lrwD a b => Sys2Proof.Machine.execLrwD a b s
  | .schW a b c => Sys2Proof.Machine.execSchW a b c s
  | .schD a b c => Sys2Proof.Machine.execSchD a b c s
  | .fenceS a b => Sys2Proof.Machine.execFenceS a b s
  | .barInit a b => Sys2Proof.Machine.execBarInit a b s
  | .barArrive a b => Sys2Proof.Machine.execBarArrive a b s
  | .barWait a b => Sys2Proof.Machine.execBarWait a b s
  | .barQuery a b => Sys2Proof.Machine.execBarQuery a b s
  | .gbarArrive a b => Sys2Proof.Machine.execGbarArrive a b s
  | .gbarWait a b => Sys2Proof.Machine.execGbarWait a b s
  | .launch a b => Sys2Proof.Machine.execLaunch a b s
  | .fork a b c d => Sys2Proof.Machine.execFork a b c d s
  | .join a b => Sys2Proof.Machine.execJoin a b s
  | .callat a b c => Sys2Proof.Machine.execCallat a b c s
  | .spawnat a b => Sys2Proof.Machine.execSpawnat a b s
  | .reply a => Sys2Proof.Machine.execReply a s
  | .cpy a b c d => Sys2Proof.Machine.execCpy a b c d s
  | .cpyRs a b c d => Sys2Proof.Machine.execCpyRs a b c d s
  | .cpyPf a b c => Sys2Proof.Machine.execCpyPf a b c s
  | .mld a b c => Sys2Proof.Machine.execMld a b c s
  | .accGet a => Sys2Proof.Machine.execAccGet a s
  | .accPut a => Sys2Proof.Machine.execAccPut a s
  | .accZero a => Sys2Proof.Machine.execAccZero a s
  | .accQuery a => Sys2Proof.Machine.execAccQuery a s
  | .lbind a => Sys2Proof.Machine.execLbind a s
  | .mark a => Sys2Proof.Machine.execMark a s
  | .lui a b => Sys2Proof.Machine.execLui a b s
  | .auipc a b => Sys2Proof.Machine.execAuipc a b s
  | .jal a b => Sys2Proof.Machine.execJal a b s
  | .jalr a b c => Sys2Proof.Machine.execJalr a b c s
  | .beq a b c => Sys2Proof.Machine.execBeq a b c s
  | .bne a b c => Sys2Proof.Machine.execBne a b c s
  | .blt a b c => Sys2Proof.Machine.execBlt a b c s
  | .bge a b c => Sys2Proof.Machine.execBge a b c s
  | .bltu a b c => Sys2Proof.Machine.execBltu a b c s
  | .bgeu a b c => Sys2Proof.Machine.execBgeu a b c s
  | .lb a b c => Sys2Proof.Machine.execLb a b c s
  | .lh a b c => Sys2Proof.Machine.execLh a b c s
  | .lw a b c => Sys2Proof.Machine.execLw a b c s
  | .ld a b c => Sys2Proof.Machine.execLd a b c s
  | .lbu a b c => Sys2Proof.Machine.execLbu a b c s
  | .lhu a b c => Sys2Proof.Machine.execLhu a b c s
  | .lwu a b c => Sys2Proof.Machine.execLwu a b c s
  | .sb a b c => Sys2Proof.Machine.execSb a b c s
  | .sh a b c => Sys2Proof.Machine.execSh a b c s
  | .sw a b c => Sys2Proof.Machine.execSw a b c s
  | .sd a b c => Sys2Proof.Machine.execSd a b c s
  | .addi a b c => Sys2Proof.Machine.execAddi a b c s
  | .slti a b c => Sys2Proof.Machine.execSlti a b c s
  | .sltiu a b c => Sys2Proof.Machine.execSltiu a b c s
  | .xori a b c => Sys2Proof.Machine.execXori a b c s
  | .ori a b c => Sys2Proof.Machine.execOri a b c s
  | .andi a b c => Sys2Proof.Machine.execAndi a b c s
  | .slli a b c => Sys2Proof.Machine.execSlli a b c s
  | .srli a b c => Sys2Proof.Machine.execSrli a b c s
  | .srai a b c => Sys2Proof.Machine.execSrai a b c s
  | .add a b c => Sys2Proof.Machine.execAdd a b c s
  | .sub a b c => Sys2Proof.Machine.execSub a b c s
  | .sll a b c => Sys2Proof.Machine.execSll a b c s
  | .slt a b c => Sys2Proof.Machine.execSlt a b c s
  | .sltu a b c => Sys2Proof.Machine.execSltu a b c s
  | .xor a b c => Sys2Proof.Machine.execXor a b c s
  | .srl a b c => Sys2Proof.Machine.execSrl a b c s
  | .sra a b c => Sys2Proof.Machine.execSra a b c s
  | .or a b c => Sys2Proof.Machine.execOr a b c s
  | .and a b c => Sys2Proof.Machine.execAnd a b c s
  | .addiw a b c => Sys2Proof.Machine.execAddiw a b c s
  | .slliw a b c => Sys2Proof.Machine.execSlliw a b c s
  | .srliw a b c => Sys2Proof.Machine.execSrliw a b c s
  | .sraiw a b c => Sys2Proof.Machine.execSraiw a b c s
  | .addw a b c => Sys2Proof.Machine.execAddw a b c s
  | .subw a b c => Sys2Proof.Machine.execSubw a b c s
  | .sllw a b c => Sys2Proof.Machine.execSllw a b c s
  | .srlw a b c => Sys2Proof.Machine.execSrlw a b c s
  | .sraw a b c => Sys2Proof.Machine.execSraw a b c s
  | .fence a b c d e => Sys2Proof.Machine.execFence a b c d e s
  | .fenceTso a b => Sys2Proof.Machine.execFenceTso a b s
  | .mul a b c => Sys2Proof.Machine.execMul a b c s
  | .mulh a b c => Sys2Proof.Machine.execMulh a b c s
  | .mulhsu a b c => Sys2Proof.Machine.execMulhsu a b c s
  | .mulhu a b c => Sys2Proof.Machine.execMulhu a b c s
  | .div a b c => Sys2Proof.Machine.execDiv a b c s
  | .divu a b c => Sys2Proof.Machine.execDivu a b c s
  | .rem a b c => Sys2Proof.Machine.execRem a b c s
  | .remu a b c => Sys2Proof.Machine.execRemu a b c s
  | .mulw a b c => Sys2Proof.Machine.execMulw a b c s
  | .divw a b c => Sys2Proof.Machine.execDivw a b c s
  | .divuw a b c => Sys2Proof.Machine.execDivuw a b c s
  | .remw a b c => Sys2Proof.Machine.execRemw a b c s
  | .remuw a b c => Sys2Proof.Machine.execRemuw a b c s
  | .lrW a b c d => Sys2Proof.Machine.execLrW a b c d s
  | .lrD a b c d => Sys2Proof.Machine.execLrD a b c d s
  | .scW a b c d e => Sys2Proof.Machine.execScW a b c d e s
  | .scD a b c d e => Sys2Proof.Machine.execScD a b c d e s
  | .amoswapW a b c d e => Sys2Proof.Machine.execAmoswapW a b c d e s
  | .amoswapD a b c d e => Sys2Proof.Machine.execAmoswapD a b c d e s
  | .amoaddW a b c d e => Sys2Proof.Machine.execAmoaddW a b c d e s
  | .amoaddD a b c d e => Sys2Proof.Machine.execAmoaddD a b c d e s
  | .amoxorW a b c d e => Sys2Proof.Machine.execAmoxorW a b c d e s
  | .amoxorD a b c d e => Sys2Proof.Machine.execAmoxorD a b c d e s
  | .amoandW a b c d e => Sys2Proof.Machine.execAmoandW a b c d e s
  | .amoandD a b c d e => Sys2Proof.Machine.execAmoandD a b c d e s
  | .amoorW a b c d e => Sys2Proof.Machine.execAmoorW a b c d e s
  | .amoorD a b c d e => Sys2Proof.Machine.execAmoorD a b c d e s
  | .csrrw a b c => Sys2Proof.Machine.execCsrrw a b c s
  | .csrrs a b c => Sys2Proof.Machine.execCsrrs a b c s
  | .csrrc a b c => Sys2Proof.Machine.execCsrrc a b c s
  | .csrrwi a b c => Sys2Proof.Machine.execCsrrwi a b c s
  | .csrrsi a b c => Sys2Proof.Machine.execCsrrsi a b c s
  | .csrrci a b c => Sys2Proof.Machine.execCsrrci a b c s
  | .fenceI a b c => Sys2Proof.Machine.execFenceI a b c s
  | .sfenceVma a b => Sys2Proof.Machine.execSfenceVma a b s
  | .amominW a b c d e => Sys2Proof.Machine.execAmominW a b c d e s
  | .amominD a b c d e => Sys2Proof.Machine.execAmominD a b c d e s
  | .amomaxW a b c d e => Sys2Proof.Machine.execAmomaxW a b c d e s
  | .amomaxD a b c d e => Sys2Proof.Machine.execAmomaxD a b c d e s
  | .amominuW a b c d e => Sys2Proof.Machine.execAmominuW a b c d e s
  | .amominuD a b c d e => Sys2Proof.Machine.execAmominuD a b c d e s
  | .amomaxuW a b c d e => Sys2Proof.Machine.execAmomaxuW a b c d e s
  | .amomaxuD a b c d e => Sys2Proof.Machine.execAmomaxuD a b c d e s
  | .hfenceVvma a b => Sys2Proof.Machine.execHfenceVvma a b s
  | .hfenceGvma a b => Sys2Proof.Machine.execHfenceGvma a b s
  | .hlvB a b => Sys2Proof.Machine.execHlvB a b s
  | .hlvBu a b => Sys2Proof.Machine.execHlvBu a b s
  | .hlvH a b => Sys2Proof.Machine.execHlvH a b s
  | .hlvHu a b => Sys2Proof.Machine.execHlvHu a b s
  | .hlvW a b => Sys2Proof.Machine.execHlvW a b s
  | .hlvWu a b => Sys2Proof.Machine.execHlvWu a b s
  | .hlvD a b => Sys2Proof.Machine.execHlvD a b s
  | .hlvxHu a b => Sys2Proof.Machine.execHlvxHu a b s
  | .hlvxWu a b => Sys2Proof.Machine.execHlvxWu a b s
  | .hsvB a b => Sys2Proof.Machine.execHsvB a b s
  | .hsvH a b => Sys2Proof.Machine.execHsvH a b s
  | .hsvW a b => Sys2Proof.Machine.execHsvW a b s
  | .hsvD a b => Sys2Proof.Machine.execHsvD a b s
  | .exit => Sys2Proof.Machine.execExit s
  | .exitPark => Sys2Proof.Machine.execExitPark s
  | .yield => Sys2Proof.Machine.execYield s
  | .texit => Sys2Proof.Machine.execTexit s
  | .ecall => Sys2Proof.Machine.execEcall s
  | .ebreak => Sys2Proof.Machine.execEbreak s
  | .pause => Sys2Proof.Machine.execPause s
  | .sret => Sys2Proof.Machine.execSret s
  | .mret => Sys2Proof.Machine.execMret s
  | .wfi => Sys2Proof.Machine.execWfi s
  | .iadd a => Sys2Proof.Machine.execIadd a s
  | .iaddJ a => Sys2Proof.Machine.execIaddJ a s
  | .isub a => Sys2Proof.Machine.execIsub a s
  | .isubJ a => Sys2Proof.Machine.execIsubJ a s
  | .imul a => Sys2Proof.Machine.execImul a s
  | .imulJ a => Sys2Proof.Machine.execImulJ a s
  | .imulh a => Sys2Proof.Machine.execImulh a s
  | .imulhJ a => Sys2Proof.Machine.execImulhJ a s
  | .imad a => Sys2Proof.Machine.execImad a s
  | .imin a => Sys2Proof.Machine.execImin a s
  | .iminJ a => Sys2Proof.Machine.execIminJ a s
  | .imax a => Sys2Proof.Machine.execImax a s
  | .imaxJ a => Sys2Proof.Machine.execImaxJ a s
  | .iabs a => Sys2Proof.Machine.execIabs a s
  | .shl a => Sys2Proof.Machine.execShl a s
  | .shlJ a => Sys2Proof.Machine.execShlJ a s
  | .shr a => Sys2Proof.Machine.execShr a s
  | .shrJ a => Sys2Proof.Machine.execShrJ a s
  | .sar a => Sys2Proof.Machine.execSar a s
  | .sarJ a => Sys2Proof.Machine.execSarJ a s
  | .laneAnd a => Sys2Proof.Machine.execLaneAnd a s
  | .laneAndJ a => Sys2Proof.Machine.execLaneAndJ a s
  | .laneOr a => Sys2Proof.Machine.execLaneOr a s
  | .laneOrJ a => Sys2Proof.Machine.execLaneOrJ a s
  | .laneXor a => Sys2Proof.Machine.execLaneXor a s
  | .laneXorJ a => Sys2Proof.Machine.execLaneXorJ a s
  | .lop3 a => Sys2Proof.Machine.execLop3 a s
  | .popc a => Sys2Proof.Machine.execPopc a s
  | .clz a => Sys2Proof.Machine.execClz a s
  | .bfe a => Sys2Proof.Machine.execBfe a s
  | .bfi a => Sys2Proof.Machine.execBfi a s
  | .fadd a => Sys2Proof.Machine.execFadd a s
  | .faddJ a => Sys2Proof.Machine.execFaddJ a s
  | .fsub a => Sys2Proof.Machine.execFsub a s
  | .fsubJ a => Sys2Proof.Machine.execFsubJ a s
  | .fmul a => Sys2Proof.Machine.execFmul a s
  | .fmulJ a => Sys2Proof.Machine.execFmulJ a s
  | .ffma a => Sys2Proof.Machine.execFfma a s
  | .fmin a => Sys2Proof.Machine.execFmin a s
  | .fminJ a => Sys2Proof.Machine.execFminJ a s
  | .fmax a => Sys2Proof.Machine.execFmax a s
  | .fmaxJ a => Sys2Proof.Machine.execFmaxJ a s
  | .frcp a => Sys2Proof.Machine.execFrcp a s
  | .frsq a => Sys2Proof.Machine.execFrsq a s
  | .fex2 a => Sys2Proof.Machine.execFex2 a s
  | .flg2 a => Sys2Proof.Machine.execFlg2 a s
  | .cvt a => Sys2Proof.Machine.execCvt a s
  | .qnt a => Sys2Proof.Machine.execQnt a s
  | .dqt a => Sys2Proof.Machine.execDqt a s
  | .icmp a => Sys2Proof.Machine.execIcmp a s
  | .icmpJ a => Sys2Proof.Machine.execIcmpJ a s
  | .fcmp a => Sys2Proof.Machine.execFcmp a s
  | .fcmpJ a => Sys2Proof.Machine.execFcmpJ a s
  | .sel a => Sys2Proof.Machine.execSel a s
  | .mov a => Sys2Proof.Machine.execMov a s
  | .movi a => Sys2Proof.Machine.execMovi a s
  | .shfl a => Sys2Proof.Machine.execShfl a s
  | .bcst a => Sys2Proof.Machine.execBcst a s
  | .lred a => Sys2Proof.Machine.execLred a s
  | .lscan a => Sys2Proof.Machine.execLscan a s
  | .disp a => Sys2Proof.Machine.execDisp a s
  | .nop a => Sys2Proof.Machine.execNop a s
  | .laneLd a => Sys2Proof.Machine.execLaneLd a s
  | .laneLdJ a => Sys2Proof.Machine.execLaneLdJ a s
  | .laneSt a => Sys2Proof.Machine.execLaneSt a s
  | .laneStJ a => Sys2Proof.Machine.execLaneStJ a s
  | .lds a => Sys2Proof.Machine.execLds a s
  | .ldsJ a => Sys2Proof.Machine.execLdsJ a s
  | .sts a => Sys2Proof.Machine.execSts a s
  | .stsJ a => Sys2Proof.Machine.execStsJ a s
  | .laneLdfe a => Sys2Proof.Machine.execLaneLdfe a s
  | .laneLdfeJ a => Sys2Proof.Machine.execLaneLdfeJ a s
  | .laneLdff a => Sys2Proof.Machine.execLaneLdff a s
  | .laneLdffJ a => Sys2Proof.Machine.execLaneLdffJ a s
  | .laneStef a => Sys2Proof.Machine.execLaneStef a s
  | .laneStefJ a => Sys2Proof.Machine.execLaneStefJ a s
  | .laneStff a => Sys2Proof.Machine.execLaneStff a s
  | .laneStffJ a => Sys2Proof.Machine.execLaneStffJ a s
  | .pfetch a => Sys2Proof.Machine.execPfetch a s
  | .pfetchJ a => Sys2Proof.Machine.execPfetchJ a s
  | .amo a => Sys2Proof.Machine.execAmo a s
  | .red a => Sys2Proof.Machine.execRed a s
  | .mma a => Sys2Proof.Machine.execMma a s
  | .accld a => Sys2Proof.Machine.execAccld a s
  | .accrd a => Sys2Proof.Machine.execAccrd a s
  | .accst a => Sys2Proof.Machine.execAccst a s
  | .ladd a => Sys2Proof.Machine.execLadd a s
  | .lsub a => Sys2Proof.Machine.execLsub a s
  | .lshl a => Sys2Proof.Machine.execLshl a s
  | .lshr a => Sys2Proof.Machine.execLshr a s
  | .lmac a => Sys2Proof.Machine.execLmac a s
  | .lcmp a => Sys2Proof.Machine.execLcmp a s

end Sys2Proof.Machine
end

