-- ==== Sys2Proof/Machine/Due.lean ====
section
/-! DEFINITION. The operations that the package performs of its own accord: which are due in a clk, in the one order this model takes
them (notes/assumptions/1). Each operation checks for itself whether it is due, so the list is only the schedule. -/
namespace Sys2Proof.Machine

section Due
def upto (n : Nat) : List Nat := List.range n
/-- Positions of a list from the last to the first, so that taking one away moves no other. -/
def downFrom (n : Nat) : List Nat := (List.range n).reverse
def keysOf {α : Type} (t : Table α) (p : α → Bool) : List Nat := (t.filter (fun e => p e.2)).map Prod.fst
/-- Bring-up (18 R397). -/
def dueBringup (s : State) : List Instr :=
  if !s.hub.powered then [.powerOn] else if !s.hub.ready && s.hub.fwerr == 0 then [.bringupStage 0] else []
/-- Homes, update units, caches and walkers (04 R103; 13 R303; 14 R316, R320, R324). -/
def dueHome (s : State) : List Instr :=
  (downFrom s.mem.net.length).map Instr.homeAccess ++
  ((upto 257).filter (fun t => (nextUpdate s t).isSome && !s.mem.net.isEmpty)).map Instr.redUpdateExecute ++
  (s.mem.inits.map (fun e => Instr.gessoInitComplete e.1)) ++ (downFrom s.mem.walks.length).map Instr.pageWalkComplete ++
  (if s.clk % 524288 = 0 then (upto 256).map Instr.leaseSweep else []) ++
  (keysOf s.harts (fun h => !h.spec.isEmpty)).map Instr.leaseRenewalReply ++ s.mem.recalls.map Instr.recall
/-- Waiting accesses (07 R167, R172; 14 R321). -/
def dueWaits (s : State) : List Instr :=
  (downFrom s.mem.parks.length).flatMap (fun i => [.feBounce i, .feResend i]) ++
  (downFrom s.mem.resvs.length).flatMap (fun q =>
    (.reservationRevoke q :: (downFrom ((s.mem.resvs[q]?.map (fun u => u.waiters.length)).getD 0)).map (Instr.lrwWaitRetry q)) ++
    [.lrwGrant q]) ++
  (downFrom s.mem.lrs.length).map Instr.lrHoldExpire
/-- Workgroups, launches and easels (01 R22, R26, R29; 06 R158, R159; 13 R294, R297). Admission decides before anything of this
clk is released: what is freed in a clk is usable from the next (13 R298). -/
def dueWork (s : State) : List Instr :=
  let cores := (upto 256).filter (fun t => s.launches.any (fun e => running e.2 && rectHas e.2.rect t) ||
    s.wgs.any (fun e => e.2.parked && e.2.tile == t))
  cores.map Instr.admissionDecision ++
  (keysOf s.harts (fun h => match h.wait with
    | .exit _ => true
    | .drain => true
    | _ => false)).map Instr.exitDrainDone ++
  ((s.wgs.map Prod.fst).filter (releaseDue s)).map Instr.workgroupRelease ++
  (keysOf s.harts (fun h => match h.wait with
    | .join _ => true
    | _ => false)).map Instr.joinSatisfied ++
  (keysOf s.parts (fun p => !p.seqQ.isEmpty)).map Instr.launchCheck ++
  (keysOf s.launches (fun l => !l.placed)).map Instr.launchInitialPlacement ++
  ((s.launches.map Prod.fst).filter (launchFinished s)).map Instr.launchComplete ++
  (keysOf s.launches (fun l => !l.headers.isEmpty || !l.records.isEmpty)).map Instr.mboxHeaderWrite ++
  (keysOf s.easels (fun e => !e.spilled.isEmpty)).map Instr.easelRefill
/-- Tasklets (01 R34–R36; 13 R302). -/
def dueTasklets (s : State) : List Instr :=
  (keysOf s.harts (fun h => h.tasklet && h.migrateTo.isSome)).map Instr.taskletMigrate ++
  (keysOf s.harts (fun h => h.tasklet && (match h.place with
    | .flight _ => true
    | _ => false))).map Instr.taskletArrive ++
  s.homes.flatMap (fun e =>
    (if e.2.fwd.isEmpty then [] else (downFrom e.2.fwd.length).map (Instr.lateReplyForward e.1)) ++
    (if e.2.memQ.isEmpty then [] else [.runQueueRefill e.1]) ++
    (if e.2.hwQ.isEmpty then [] else [.rotationSlotRefill e.1 (s.clk % 16)]))
/-- Streamers and accumulator stores (07 R182–R186; 02 R50; 09 R240). -/
def dueEngines (s : State) : List Instr :=
  let clusters := (upto 64).filter (fun c => s.copies.any (fun e => e.1 / 64 == c))
  (keysOf s.copies (fun c => !c.parked && decide (c.ownRow < shRows c.shape))).map Instr.copyOwnership ++
  clusters.map Instr.streamerRound ++
  ((s.copies.filter (fun e => copyFinished s e.1 e.2)).map (fun e => Instr.copyComplete e.1)) ++
  (keysOf s.copies (fun c => c.parked && !c.msgSent)).map Instr.copyFaultMessage ++
  (keysOf s.launches (fun l => isFull s.mem l.cmdw)).flatMap (fun l => [.copyResume l, .copyDiscard l]) ++
  s.harts.flatMap (fun e => (keysOf e.2.accState (fun n => n == 2)).map (Instr.accstStoresAcked e.1)) ++
  (keysOf s.harts (fun h => !h.accFails.isEmpty)).map Instr.accstStoreFault
/-- Partitions, energy reports and windows, keys and glaze passes (12 R284; 13 R306; 15 R347–R350). -/
def dueParts (s : State) : List Instr :=
  (if s.clk % 1024 = 0 then s.parts.flatMap (fun e => (partTiles s e.1).map (fun t =>
    Instr.energyMeterReport t (Config.freeEnergy (s.clk / 1024) t))) else []) ++
  (if s.clk % 1200000 = 0 then [.energyWindowStart] else []) ++
  s.parts.flatMap (fun e =>
    (if graceOver s e.2.preempt then [.preemptGraceExpire e.1] else []) ++
    (if e.2.resetting && !e.2.flushed && decide (e.2.resetClk + 2400 ≤ s.clk) then [.partitionResetFlush e.1] else []) ++
    (if e.2.resetting && decide (e.2.resetClk + 24000 ≤ s.clk) then [.partitionResetComplete e.1] else []) ++
    (if e.2.valid && !e.2.pass && decide (e.2.passStart + glazePeriod ≤ s.clk) then [.glazePassStart e.1] else []) ++
    (if e.2.pass then ((partTiles s e.1).filter (fun t =>
      decide (tget 0 s.mem.frontier t * glazePeriod < (s.clk - e.2.passStart) * 2 ^ 25))).map Instr.glazeVisit else []))
/-- Debug stops: every agent asked to stop, and every block that waits for one (16 R368). -/
def dueStops (s : State) : List Instr :=
  (keysOf s.harts (fun h => h.stopReq && (!h.tasklet || (match h.place with
    | .slot _ i => i == s.clk % 16
    | _ => false)))).map Instr.debugStopTake ++
  (if s.kiwiow.any (fun e => e.2.stopBusy) then [.debugStopTake 0xFFFFFF] else [])
/-- Issue (13 R299, R301; 05 R137; 06 R161; 12 R273). -/
def dueIssue (s : State) : List Instr :=
  let live := (s.harts.filter (fun e => !e.2.tasklet && e.2.run != .empty && e.2.run != .exited)).map (fun e => subcoreKey e.2.tile e.2.slot)
  let subs := live.foldl (fun l k => if l.contains k then l else k :: l) []
  (keysOf s.harts (fun h => decide (240 ≤ h.starve) && h.boost.isNone)).map Instr.starvationBoost ++
  (keysOf s.harts (fun h => h.yieldTo.isSome)).map Instr.yieldExpire ++
  s.harts.flatMap (fun e => (e.2.pend.filter (writable s.clk)).map (fun _ => Instr.laneResultWrite e.1)) ++
  (s.harts.filter (fun e => e.2.wait != .nothing && mayInterrupt s e.2 && boundaryTrap s e.2)).map (fun e => Instr.trapEntry e.1) ++
  subs.map (fun k => Instr.issuePick (k / 8) (k % 8))
/-- Everything that is due in this clk. -/
def dueOps (s : State) : List Instr :=
  (if pulseDue s then [.sketchPulse] else []) ++ dueBringup s ++ dueHome s ++ dueWaits s ++ dueEngines s ++ dueWork s ++ dueTasklets s ++
    dueParts s ++ dueStops s ++ dueIssue s
/-- The tasklets whose rotation slot has its turn in this clk (01 R34). -/
def rotationTurns (s : State) : List Turn :=
  s.homes.filterMap (fun e => (tfind e.2.slots (s.clk % 16)).map Turn.scalar)
/-- What holds from the next clk on: BUSY bits clear, and a varnish table's grants, way masks, lease lengths, allowances and the package
number come into force (13 R306, R307; 14 R310; 15 R340, R345; 16 R364; 18 R393). -/
def latchClk (s : State) : State :=
  let part := fun (_ : Nat) (q : Part) => { q with
    keyBusy := false, varnBusy := false, grants := q.grantsNext, waysNow := q.ways, leaseNow := q.lease, spent := allowSpent q }
  modHub { s with parts := tmap part s.parts } (fun u => { u with pkgNow := u.pkg })
/-- One clk: the packets of the clk that ends are written, time moves on, counters are latched at every 1,024-clk report (16 R365), and
what is due is put on the tape. -/
def tick (s : State) : State :=
  let s := latchClk (writeTraced s)
  let s := { s with clk := s.clk + 1 }
  let s := if s.clk % 1024 = 0 then { s with latched := s.counters } else s
  { s with inputs := dueOps s, turns := rotationTurns s }
end Due

end Sys2Proof.Machine
end

