-- ==== Sys2Proof/Machine/Turn.lean ====
section
/-! DEFINITION. One turn of an agent, and the placing of an instruction where a turn finds it. A scalar turn
fetches, decodes and executes the instruction at the agent's pc; a lane turn issues the head of the group's lane queue. -/
namespace Sys2Proof.Machine

section Turns
/-- The state in which an agent's decoded scalar instruction executes. -/
def settled (s : State) (k : Nat) (w : Word) : State :=
  modHart { s with cur := k } k (landIf (fun p => !p.landed && scalarWaits w p))
/-- Illegal-instruction for a scalar word that is no instruction: stval holds the word, or the 16 bits of a 16-bit encoding (05
R120). -/
def badWord (w : Word) : Trap := illegal (if w.extractLsb' 0 2 != 3#2 then w.setWidth 64 &&& 0xFFFF else w.setWidth 64)
/-- What an agent's scalar instruction does in this turn, nothing where it may not issue (01 R34, R36; 05 R120; 06 R144, R146). -/
noncomputable def scalarTry (s0 : State) (k : Nat) (h : Hart) : Option Out :=
  if !mayTry s0 k h || irqFirst s0 h || fetchHeld s0 k h h.pc then none
  else
    let s := fetchNote s0 h false h.pc
    let bad := fun (t : Trap) => if h.laneQ.isEmpty then some (Host.Outcome.next (trapCur { s with cur := k } t)) else none
    match fetchWord s0 h h.pc with
    | .error t => bad t
    | .ok (_, w) =>
      if loadHeld h w then none
      else match decodeScalar w with
        | .error _ => bad (badWord w)
        | .ok i =>
          if !h.laneQ.isEmpty && !appends i then none
          else if i.wellFormed then some (exec i (settled s k w))
          else bad (badWord w)
/-- A scalar issue is counted unless the instruction is held and will be tried again (16 R362). -/
def countScalar (k : Nat) (s : State) : State :=
  let h := hartAt s k
  let waits := match h.wait with
    | .launch _ | .placing .. | .copyOwn _ => false
    | _ => true
  if h.tasklet || (h.run == .waitDep && waits) || (h.run == .waitSync && h.wait == .nothing) then s
  else count s 0 h.tile (subcoreOf h.slot) 0 1
/-- The same of a turn of the agent in this state: a WFI that has waited was counted as it began to wait. -/
def countIssue (k : Nat) (h : Hart) (s : State) : State := if h.wait == .wfi then s else countScalar k s
def mapNext (f : State → State) : Out → Out
  | .next s => .next (f s)
  | .fault e => .fault e
  | .refused r => .refused r
/-- Whether an agent's instruction takes a synchronous trap: its trace event says so (16 R370). -/
noncomputable def trapsNow (s : State) (k : Nat) (f : State → Option Out) : Bool :=
  let h := hartAt s k
  match f { s with traced := [], kiwiow := if s.kiwiow.isEmpty then [(15, {})] else s.kiwiow } with
  | some (.next t) => t.traced.any (fun x => x.tile == h.tile && x.slot == slotByte h && (match x.ev with
    | .trap false _ _ => true
    | _ => false))
  | _ => false
/-- One turn at a boundary (12 R273): the end of a terminated member; the instruction, where it traps or no interrupt is due; else the
interrupt. -/
noncomputable def boundary (s : State) (k : Nat) (h : Hart) (f : State → Option Out) (n : State → State) : Out :=
  if dueEnd s h then .next (endMember s k)
  else match takeIrq s k with
    | none => (f s).elim (.next s) (mapNext n)
    | some t => if trapsNow s k f then (f s).elim (.next t) (mapNext n) else .next t
/-- The hart of an agent whose turn it is: a tasklet's late replies have come in (01 R36). -/
def turnReady (s : State) (k : Nat) (h : Hart) : State := if h.loads.isEmpty then s else setHart s k (settleLoads s h)
/-- A scalar turn. -/
noncomputable def scalarTurn (s : State) (k : Nat) : Out :=
  match tfind s.harts k with
  | none => .next s
  | some h =>
    let s := turnReady s k h
    boundary s k (hartAt s k) (fun s => scalarTry s k (hartAt s k)) (countIssue k (hartAt s k))
/-- Takes the head of the lane queue to issue. -/
def issueHead (s : State) (k : Nat) (e : LaneEntry) (q : List LaneEntry) : State :=
  modHart { s with cur := k } k (fun h => { h with laneQ := q, iss := e, laneWait := .nothing })
/-- LANE_ILLEGAL of a word that decodes to no lane instruction, checks 1 and 2 of 05 R136. -/
def undecodable (e : LaneEntry) (err : DecodeError) : Trap :=
  { cause := 24, tval := (e.word.setWidth 32).setWidth 64, detail := some (if err = .laneNoJForm then 2 else 1) }
/-- What the head of a group's lane queue does in this turn, nothing where it may not issue. -/
noncomputable def laneTry (s0 : State) (k : Nat) (h : Hart) : Option Out :=
  if h.tasklet || h.run == .empty || h.run == .exited || h.run == .stopped || h.laneFe.isSome then none
  else match h.laneQ with
    | [] => none
    | e :: q =>
      let s := issueHead s0 k e q
      match e.bad with
      | some t => some (.next (laneTrap s t))
      | none =>
        match decodeLane e.word with
        | .error err => some (.next (laneTrap s (undecodable e err)))
        | .ok i => some (exec i s)
/-- A lane issue is counted unless the instruction went back to the head of its queue. -/
def countLane (k n : Nat) (s : State) : State :=
  let h := hartAt s k
  if h.laneQ.length < n then count s 0 h.tile (subcoreOf h.slot) 1 1 else s
/-- A lane turn. -/
noncomputable def laneTurn (s : State) (k : Nat) : Out :=
  match tfind s.harts k with
  | none => .next s
  | some h => boundary s k h (fun s => laneTry s k (hartAt s k)) (countLane k h.laneQ.length)
noncomputable def turnStep (s : State) : Turn → Out
  | .scalar k => scalarTurn s k
  | .lane k => laneTurn s k
end Turns

section Placing
/-- The agent whose instruction is placed: the one whose turn is next, else the boot group of slot 0 on tile 0. -/
def placeKey (s : State) : Nat :=
  match s.turns with
  | .scalar k :: _ => k
  | .lane k :: _ => k
  | [] => hartKey 0 0
/-- A package in which that agent exists: a boot group in M mode at 0x1000, admitted as bring-up admits one (12 R269). -/
def withAgent (s : State) (k : Nat) : State :=
  if (tfind s.harts k).isSome then s
  else
    let s := modHub s (fun u => { u with powered := true, ready := true, stage := 4 })
    admitBoot s (k / 96) (k % 96) 32 15 0x1000 0
/-- Stores a word where an agent's fetch finds its next scalar instruction. -/
def placeScalar (s : State) (k : Nat) (w : Word) : State :=
  let s := modHart s k (fun h => { h with run := .ready, wait := .nothing })
  let s := match fetchWord s (hartAt s k) (hartAt s k).pc with
    | .ok _ => s
    | .error _ => modHart s k (fun h => { h with priv := .m, virt := false })
  match fetchWord s (hartAt s k) (hartAt s k).pc with
  | .ok (l, _) =>
    modMem s (fun m => match l.loc with
      | .mem a => { writeLoc m (.mem a) 4 (w.setWidth 64) with open_ := tset false m.open_ (chunkOf a) true }
      | l => writeLoc m l 4 (w.setWidth 64))
  | .error _ => s
/-- Puts a lane instruction at the head of an otherwise empty lane queue. -/
def placeLane (s : State) (k : Nat) (w : LaneWords) : State :=
  modHart s k (fun h => { h with run := .ready, wait := .nothing, laneQ := [{ word := w, rem := 1, pc := h.pc, lpc := h.lpc }] })
def withWord (s : State) (nbits w : Nat) : State :=
  let k := placeKey s
  let s := withAgent s k
  if nbits ≤ 32 then { placeScalar s k (wd w) with inputs := [], turns := [.scalar k] }
  else { placeLane s k (BitVec.ofNat 96 w) with inputs := [], turns := [.lane k] }
end Placing

end Sys2Proof.Machine
end

