-- ==== Sys2Proof/Machine/Step.lean ====
section
/-! DEFINITION. The step of the package: an operation from the tape, else a granted turn, else one clk of the package, which
puts every operation that is due on the tape. -/
namespace Sys2Proof.Machine

/-- One step. -/
noncomputable def step (s : State) : Host.Outcome State Fault Refusal :=
  match s.inputs with
  | i :: rest => exec i { s with inputs := rest }
  | [] =>
    match s.turns with
    | t :: rest => turnStep { s with turns := rest } t
    | [] => .next (tick s)

/-- `s` with an instruction placed where the next step fetches it (notes/assumptions/1). -/
def State.withFetchWord (s : State) (nbits w : Nat) : State := withWord s nbits w

end Sys2Proof.Machine
end

