-- ==== Sys2Proof/Safety.lean ====
section
/-! DEFINITION. What counts as a safe step and a safe run: the package answers a next state. -/
namespace Sys2Proof

/-- A step answers a next state. -/
def StepsTo (s t : Machine.State) : Prop := Machine.step s = .next t

/-- States reached from `s` by next states only. -/
inductive Reaches : Machine.State → Machine.State → Prop where
  | refl (s) : Reaches s s
  | tail {s t u} (h : Reaches s t) (g : StepsTo t u) : Reaches s u

/-- A run from `s` never stops. -/
def SafeFrom (s : Machine.State) : Prop := ∀ t, Reaches s t → ∃ u, StepsTo t u

end Sys2Proof
end

