-- ==== Sys2Proof/Certificates/Slice0/Obligations.lean ====
section
/-! DEFINITION. Statements about the model, for the provers. The definitions before each statement say in the spec's terms what it
needs; a part of a statement is a definition of its own under `Sys2Proof.Claims`, and `Obligations.<Name>` states the whole. -/

namespace Sys2Proof.Claims
open Sys2Proof.Machine

section Frames
/-- Every byte of every memory reads as before. -/
def SameBytes (s t : State) : Prop := ∀ l n, readBytes t.mem l n = readBytes s.mem l n
/-- Only the registers of the current agent differ. -/
def OnlyCur (s t : State) : Prop :=
  t = { s with harts := t.harts } ∧ (∀ k, k ≠ s.cur → hartAt t k = hartAt s k) ∧ SameBytes s t
/-- An agent has moved on to a pc, retired one instruction and written x[rd], where a write of x0 is discarded; nothing else of it has
changed. -/
def WroteX (h h' : Hart) (rd : Reg) (v pc : DWord) : Prop :=
  (∀ q : Reg, h'.getX q = if rd = q ∧ rd ≠ 0 then v else h.getX q) ∧
  h' = { h with
    x := h'.x, pc := pc, instret := h.instret + 1, run := .ready, wait := .nothing, bounces := 0, indiv := false }
/-- The agent has retired one instruction and differs in nothing but what `g` names. -/
def RetiredAs (h' g : Hart) : Prop :=
  h' = { g with
    pc := g.pc + 4, instret := g.instret + 1, run := .ready, wait := .nothing, bounces := 0, indiv := false }
/-- `i` completes: it writes x[rd], goes to pc, and changes no other register, no other agent and no byte of memory. -/
def Retires (i : Instr) (s b : State) (rd : Reg) (v pc : DWord) : Prop :=
  ∃ t, exec i s = .next t ∧ OnlyCur b t ∧ WroteX (curHart s) (curHart t) rd v pc
/-- A tasklet may use x1 to x10 alone (05 R123); a group may use every register. -/
def MayRun (s : State) (regs : List Reg) : Prop := (curHart s).tasklet = true → ∀ r ∈ regs, r.toNat < 11
/-- The current agent is a group. -/
def IsGroup (s : State) : Prop := (curHart s).tasklet = false
/-- No write is on its way to its home. -/
def Quiet (s : State) : Prop := s.mem.net = [] ∧ s.mem.farOut = []
def xs (s : State) (r : Reg) : DWord := (curHart s).getX r
def pcOf (s : State) : DWord := (curHart s).pc
def sx (imm : BitVec 12) : DWord := imm.signExtend 64
end Frames

section Arithmetic
/-- A truth value in a register. -/
def flag (p : Bool) : DWord := if p then 1 else 0
/-- The low word of a number, sign-extended. -/
def word32 (n : Int) : DWord := (BitVec.ofInt 32 n).signExtend 64
def low (v : DWord) : BitVec 32 := v.setWidth 32
/-- RV64I with an immediate: the result from x[rs1] and the sign-extended immediate. -/
def immTable : List ((Reg → Reg → BitVec 12 → Instr) × (DWord → DWord → DWord)) :=
  [(.addi, fun a i => BitVec.ofNat 64 (a.toNat + i.toNat)), (.slti, fun a i => flag (decide (a.toInt < i.toInt))),
   (.sltiu, fun a i => flag (decide (a.toNat < i.toNat))), (.xori, fun a i => a ^^^ i), (.ori, fun a i => a ||| i),
   (.andi, fun a i => a &&& i), (.addiw, fun a i => word32 (a.toNat + i.toNat))]
/-- Shifts by a constant: of the dword by 0 to 63, and of the low word by 0 to 31. -/
def shiftTable : List ((Reg → Reg → BitVec 6 → Instr) × (DWord → Nat → DWord)) :=
  [(.slli, fun a n => a <<< n), (.srli, fun a n => a >>> n), (.srai, fun a n => a.sshiftRight n)]
def shiftWTable : List ((Reg → Reg → BitVec 5 → Instr) × (BitVec 32 → Nat → BitVec 32)) :=
  [(.slliw, fun a n => a <<< n), (.srliw, fun a n => a >>> n), (.sraiw, fun a n => a.sshiftRight n)]
/-- RV64I and M with two sources. -/
def regTable : List ((Reg → Reg → Reg → Instr) × (DWord → DWord → DWord)) :=
  [(.add, fun a b => BitVec.ofNat 64 (a.toNat + b.toNat)), (.sub, fun a b => BitVec.ofInt 64 (a.toNat - b.toNat)),
   (.sll, fun a b => a <<< (b.toNat % 64)), (.slt, fun a b => flag (decide (a.toInt < b.toInt))),
   (.sltu, fun a b => flag (decide (a.toNat < b.toNat))), (.xor, fun a b => a ^^^ b), (.srl, fun a b => a >>> (b.toNat % 64)),
   (.sra, fun a b => a.sshiftRight (b.toNat % 64)), (.or, fun a b => a ||| b), (.and, fun a b => a &&& b),
   (.addw, fun a b => word32 (a.toNat + b.toNat)), (.subw, fun a b => word32 (a.toNat - b.toNat)),
   (.sllw, fun a b => (low a <<< (b.toNat % 32)).signExtend 64), (.srlw, fun a b => (low a >>> (b.toNat % 32)).signExtend 64),
   (.sraw, fun a b => ((low a).sshiftRight (b.toNat % 32)).signExtend 64),
   (.mul, fun a b => BitVec.ofNat 64 (a.toNat * b.toNat)), (.mulh, fun a b => BitVec.ofInt 64 (a.toInt * b.toInt / 2 ^ 64)),
   (.mulhsu, fun a b => BitVec.ofInt 64 (a.toInt * b.toNat / 2 ^ 64)),
   (.mulhu, fun a b => BitVec.ofNat 64 (a.toNat * b.toNat / 2 ^ 64)), (.mulw, fun a b => word32 (a.toNat * b.toNat))]
/-- Division of w-bit numbers with the standard results by zero and on overflow. -/
def quotS {w : Nat} (a b : BitVec w) : BitVec w := if b = 0 then BitVec.allOnes w else BitVec.ofInt w (a.toInt.tdiv b.toInt)
def remainS {w : Nat} (a b : BitVec w) : BitVec w := if b = 0 then a else BitVec.ofInt w (a.toInt.tmod b.toInt)
def quotU {w : Nat} (a b : BitVec w) : BitVec w := if b = 0 then BitVec.allOnes w else BitVec.ofNat w (a.toNat / b.toNat)
def remainU {w : Nat} (a b : BitVec w) : BitVec w := if b = 0 then a else BitVec.ofNat w (a.toNat % b.toNat)
def divTable : List ((Reg → Reg → Reg → Instr) × (DWord → DWord → DWord)) :=
  [(.div, quotS), (.divu, quotU), (.rem, remainS), (.remu, remainU),
   (.divw, fun a b => (quotS (low a) (low b)).signExtend 64), (.divuw, fun a b => (quotU (low a) (low b)).signExtend 64),
   (.remw, fun a b => (remainS (low a) (low b)).signExtend 64), (.remuw, fun a b => (remainU (low a) (low b)).signExtend 64)]
end Arithmetic

section Control
/-- A 12- or 20-bit branch offset in units of 2 bytes. -/
def off12 (off : BitVec 12) : DWord := (off ++ (0 : BitVec 1)).signExtend 64
def off20 (off : BitVec 20) : DWord := (off ++ (0 : BitVec 1)).signExtend 64
def imm20 (imm : BitVec 20) : DWord := (imm ++ (0 : BitVec 12)).signExtend 64
def aligned4 (a : DWord) : Prop := a.toNat % 4 = 0
def branchTable : List ((Reg → Reg → BitVec 12 → Instr) × (DWord → DWord → Bool)) :=
  [(.beq, fun a b => decide (a = b)), (.bne, fun a b => decide (a ≠ b)), (.blt, fun a b => decide (a.toInt < b.toInt)),
   (.bge, fun a b => decide (b.toInt ≤ a.toInt)), (.bltu, fun a b => decide (a.toNat < b.toNat)),
   (.bgeu, fun a b => decide (b.toNat ≤ a.toNat))]
/-- The three branches on the 128 bits of one mask (06 R151). -/
def maskBranchTable : List ((Reg → BitVec 12 → Instr) × (Mask → Bool)) :=
  [(.bmany, fun m => (List.range 128).any (fun l => m.getLsbD l)), (.bmnone, fun m => (List.range 128).all (fun l => !m.getLsbD l)),
   (.bmall, fun m => (List.range 128).all (fun l => m.getLsbD l))]
/-- A jump's target as JALR computes it: bit 0 cleared. -/
def jalrTarget (s : State) (rs1 : Reg) (imm : BitVec 12) : DWord := (xs s rs1 + sx imm) &&& ~~~(1 : DWord)
/-- What a jump to a misaligned address is: an exception with that address, and the jump does not retire. -/
def MisalignedJump (i : Instr) (s : State) (target : DWord) : Prop :=
  exec i s = .next (trapCur s { cause := 0, tval := target, gva := (curHart s).virt })
end Control

end Sys2Proof.Claims
open Sys2Proof Sys2Proof.Machine Sys2Proof.Claims

/-- Integer instructions with an immediate write their result to x[rd] and nothing else (05 R129; 02 R42). -/
def Sys2Proof.Claims.ImmediateArithmeticWritesResult : Prop :=
  (∀ e ∈ immTable, ∀ (rd rs1 : Reg) (imm : BitVec 12) (s : State), MayRun s [rd, rs1] →
    Retires (e.1 rd rs1 imm) s s rd (e.2 (xs s rs1) (sx imm)) (pcOf s + 4)) ∧
  (∀ e ∈ shiftTable, ∀ (rd rs1 : Reg) (n : BitVec 6) (s : State), MayRun s [rd, rs1] →
    Retires (e.1 rd rs1 n) s s rd (e.2 (xs s rs1) n.toNat) (pcOf s + 4)) ∧
  (∀ e ∈ shiftWTable, ∀ (rd rs1 : Reg) (n : BitVec 5) (s : State), MayRun s [rd, rs1] →
    Retires (e.1 rd rs1 n) s s rd ((e.2 (low (xs s rs1)) n.toNat).signExtend 64) (pcOf s + 4)) ∧
  (∀ (rd : Reg) (imm : BitVec 20) (s : State), MayRun s [rd] →
    Retires (.lui rd imm) s s rd (imm20 imm) (pcOf s + 4) ∧ Retires (.auipc rd imm) s s rd (pcOf s + imm20 imm) (pcOf s + 4))

/-- Integer and multiply instructions with two sources write their result to x[rd] and nothing else. -/
def Sys2Proof.Claims.RegisterArithmeticWritesResult : Prop :=
  ∀ e ∈ regTable, ∀ (rd rs1 rs2 : Reg) (s : State), MayRun s [rd, rs1, rs2] →
    Retires (e.1 rd rs1 rs2) s s rd (e.2 (xs s rs1) (xs s rs2)) (pcOf s + 4)

/-- Division never traps: by zero it gives −1 or the dividend, and on overflow the dividend or 0. -/
def Sys2Proof.Claims.DivisionNeverTraps : Prop :=
  ∀ e ∈ divTable, ∀ (rd rs1 rs2 : Reg) (s : State), MayRun s [rd, rs1, rs2] →
    Retires (e.1 rd rs1 rs2) s s rd (e.2 (xs s rs1) (xs s rs2)) (pcOf s + 4)

/-- RV64I and M: every integer instruction writes its result to x[rd] and nothing else, and division never traps (05 R129; 02 R42). -/
def Obligations.ScalarArithmeticWritesResult : Prop :=
  ImmediateArithmeticWritesResult ∧ RegisterArithmeticWritesResult ∧ DivisionNeverTraps

/-- Branches and jumps to aligned addresses: where they go, and the link (05 R129; 06 R151). -/
def Sys2Proof.Claims.TakenJumpsGo : Prop :=
  (∀ e ∈ branchTable, ∀ (rs1 rs2 : Reg) (off : BitVec 12) (s : State), MayRun s [rs1, rs2] →
    let taken := e.2 (xs s rs1) (xs s rs2)
    let b := traceEvent s s.cur (.br taken)
    (taken = false → Retires (e.1 rs1 rs2 off) s b 0 0 (pcOf s + 4)) ∧
    (taken = true → aligned4 (pcOf s + off12 off) → Retires (e.1 rs1 rs2 off) s b 0 0 (pcOf s + off12 off))) ∧
  (∀ e ∈ maskBranchTable, ∀ (m : Reg) (off : BitVec 12) (s : State), (e.1 m off).wellFormed = true → IsGroup s →
    let taken := e.2 ((curHart s).getM m.toNat)
    let b := traceEvent s s.cur (.br taken)
    (taken = false → Retires (e.1 m off) s b 0 0 (pcOf s + 4)) ∧
    (taken = true → aligned4 (pcOf s + off12 off) → Retires (e.1 m off) s b 0 0 (pcOf s + off12 off))) ∧
  (∀ (rd : Reg) (off : BitVec 20) (s : State), MayRun s [rd] → aligned4 (pcOf s + off20 off) →
    Retires (.jal rd off) s s rd (pcOf s + 4) (pcOf s + off20 off)) ∧
  (∀ (rd rs1 : Reg) (imm : BitVec 12) (s : State), MayRun s [rd, rs1] → aligned4 (jalrTarget s rs1 imm) →
    Retires (.jalr rd rs1 imm) s (traceEvent s s.cur (.ind (jalrTarget s rs1 imm))) rd (pcOf s + 4) (jalrTarget s rs1 imm))

/-- A jump or taken branch to an address that is not 4-byte aligned raises instruction-address-misaligned (05 R120). -/
def Sys2Proof.Claims.MisalignedJumpsTrap : Prop :=
  (∀ e ∈ branchTable, ∀ (rs1 rs2 : Reg) (off : BitVec 12) (s : State), MayRun s [rs1, rs2] →
    e.2 (xs s rs1) (xs s rs2) = true → ¬ aligned4 (pcOf s + off12 off) →
    MisalignedJump (e.1 rs1 rs2 off) s (pcOf s + off12 off)) ∧
  (∀ e ∈ maskBranchTable, ∀ (m : Reg) (off : BitVec 12) (s : State), (e.1 m off).wellFormed = true → IsGroup s →
    e.2 ((curHart s).getM m.toNat) = true → ¬ aligned4 (pcOf s + off12 off) → MisalignedJump (e.1 m off) s (pcOf s + off12 off)) ∧
  (∀ (rd : Reg) (off : BitVec 20) (s : State), MayRun s [rd] → ¬ aligned4 (pcOf s + off20 off) →
    MisalignedJump (.jal rd off) s (pcOf s + off20 off)) ∧
  (∀ (rd rs1 : Reg) (imm : BitVec 12) (s : State), MayRun s [rd, rs1] → ¬ aligned4 (jalrTarget s rs1 imm) →
    MisalignedJump (.jalr rd rs1 imm) s (jalrTarget s rs1 imm))

/-- Where branches and jumps go, and what a misaligned target raises (05 R120, R129; 06 R151). -/
def Obligations.BranchesAndJumpsGo : Prop :=
  TakenJumpsGo ∧ MisalignedJumpsTrap

namespace Sys2Proof.Claims
open Sys2Proof.Machine

section Memory
/-- A scalar access at a virtual address, in a translation context, reaches this place, needs no migration, and waits for no load of its
tasklet that is still outstanding (04 R86, R90; 14 R311; 01 R35, R36). -/
def ReachesIn (s : State) (c : Ctx) (lkey : Nat) (acc : Acc) (cls : Cls) (va : DWord) (n : Nat) (l : Located) : Prop :=
  locate s c lkey (curHart s).tasklet acc cls va n = .ok l ∧ awayHome (curHart s) l.loc = none ∧
  ∀ p ∈ (curHart s).loads, overlaps p.loc p.size (wordSpan l.loc n).1 (wordSpan l.loc n).2 = false
/-- The same in the agent's own context. -/
def ReachesAt (s : State) (acc : Acc) (cls : Cls) (va : DWord) (n : Nat) (l : Located) : Prop :=
  ReachesIn s (dataCtx (curHart s)) (curHart s).lkey acc cls va n l
/-- The packets between the agent and a place arrive: no router's record ends their route (15 R335, R336). -/
def Routed (s : State) (l : Loc) : Prop := dropped s (curHart s).actsFor (curHart s).tile l = false
/-- An access that reaches its place, and whose answer comes back. -/
def AnswersIn (s : State) (c : Ctx) (lkey : Nat) (acc : Acc) (cls : Cls) (va : DWord) (n : Nat) (l : Located) : Prop :=
  ReachesIn s c lkey acc cls va n l ∧ Routed s l.loc
def AnswersAt (s : State) (acc : Acc) (cls : Cls) (va : DWord) (n : Nat) (l : Located) : Prop :=
  ReachesAt s acc cls va n l ∧ Routed s l.loc
/-- A place that holds bytes: main memory, a scratchpad, a mailbox slot or host memory. -/
def HoldsBytes : Loc → Prop
  | .mem _ => True
  | .win _ => True
  | .mbox _ => True
  | .host _ => True
  | _ => False
/-- No write of the agent's own to the words of a span, and no write to the span that the agent's acquires have obtained, is still on
its way (14 R318; 04 R99, R101). -/
def NoNearWrite (s : State) (l : Loc) (n : Nat) : Prop :=
  (∀ r ∈ s.mem.net, r.agent = s.cur → overlaps r.loc r.size (wordSpan l n).1 (wordSpan l n).2 = false) ∧
  ∀ r ∈ s.mem.net, r.agent ≠ s.cur → s.cur ∈ r.covers → overlaps r.loc r.size l n = false
/-- A write to a span is performed at once: it is held by nothing, its chunk is open and its granules pass their checks. -/
def Writable (s : State) (agent : Nat) (l : Loc) (n : Nat) : Prop :=
  heldWrite s agent l n = false ∧ ∀ a, l = .mem a → gesso s.mem a = false ∧ poisoned s l n = false
/-- The span holds the bytes of `v`, and every byte outside it is unchanged. -/
def WroteBytes (s t : State) (l : Loc) (n v : Nat) : Prop :=
  readBytes t.mem l n = leBytes n v ∧ ∀ l' k, overlaps l' k l n = false → readBytes t.mem l' k = readBytes s.mem l' k
/-- No event counter but those of what L2 slices and their HBM channels did has changed (16 R362). -/
def SliceCounts (s t : State) : Prop := ∀ k, (k / 65536 ≠ 2 ∨ 3 < k % 16) → tget 0 t.counters k = tget 0 s.counters k
/-- Nothing but the current agent and what caches, L2 slices and walkers keep has changed. -/
def CachesOnly (s t : State) : Prop :=
  t = { s with harts := t.harts, counters := t.counters,
               mem := { s.mem with dir := t.mem.dir, copies := t.mem.copies, walks := t.mem.walks, l2 := t.mem.l2,
                                                     recalls := t.mem.recalls } } ∧
  SliceCounts s t ∧ ∀ k, k ≠ s.cur → hartAt t k = hartAt s k
/-- A load completes with this value; `b` is the state before it with what it counts. -/
def LoadsFrom (i : Instr) (s b : State) (rd : Reg) (v : DWord) : Prop :=
  ∃ t, exec i s = .next t ∧ CachesOnly b t ∧ WroteX (curHart s) (curHart t) rd v (pcOf s + 4)
def Loads (i : Instr) (s : State) (rd : Reg) (v : DWord) : Prop := LoadsFrom i s s rd v
/-- The little-endian number at a place. -/
def homeValue (s : State) (l : Loc) (n : Nat) : Nat := leNat (readBytes s.mem l n)
/-- What a load that its own agent's writes do not touch returns: a control page's lease; in an S page the usable copy of the line
where there is one; the bytes at the home otherwise, and where a copy is no longer usable a renewal is counted (16 R362). -/
def LoadCases (i : Instr) (s : State) (rd : Reg) (l : Located) (n : Nat) (ext : Nat → DWord) : Prop :=
  (HoldsBytes l.loc → (l.mode ≠ 1 ∨ (curHart s).tasklet = true) → Loads i s rd (ext (homeValue s l.loc n))) ∧
  (∀ a, l.loc = .mem a → l.mode = 1 → IsGroup s →
    (∀ c, copyFind s.mem (hartHolder (curHart s)) (a / 64) = some c → usable s (curHart s) c = true →
      Loads i s rd (ext (copyBytes c a n).toNat)) ∧
    (∀ c, copyFind s.mem (hartHolder (curHart s)) (a / 64) = some c → usable s (curHart s) c = false →
      LoadsFrom i s (count s 2 (curHart s).tile 0 4 1) rd (ext (homeValue s l.loc n))) ∧
    (copyFind s.mem (hartHolder (curHart s)) (a / 64) = none → Loads i s rd (ext (homeValue s l.loc n)))) ∧
  (∀ o, l.loc = .ctl o → o % 4096 = 0 → Loads i s rd (ext (partAt s (o / 4096)).lease)) ∧
  (∀ o, l.loc = .irq o → Loads i s rd (ext 0))
def signed (n v : Nat) : DWord := (BitVec.ofNat (8 * n) v).signExtend 64
def unsigned (n v : Nat) : DWord := BitVec.ofNat 64 (v % 2 ^ (8 * n))
/-- Loads: bytes, and how they fill the register. -/
def loadTable : List ((Reg → Reg → BitVec 12 → Instr) × Nat × (Nat → DWord)) :=
  [(.lb, 1, signed 1), (.lh, 2, signed 2), (.lw, 4, signed 4), (.ld, 8, unsigned 8), (.lbu, 1, unsigned 1), (.lhu, 2, unsigned 2),
   (.lwu, 4, unsigned 4)]
/-- Hypervisor loads; HLVX reads what it may execute. -/
noncomputable def hlvTable : List ((Reg → Reg → Instr) × Nat × (Nat → DWord) × Bool) :=
  [(.hlvB, 1, signed 1, false), (.hlvBu, 1, unsigned 1, false), (.hlvH, 2, signed 2, false), (.hlvHu, 2, unsigned 2, false),
   (.hlvW, 4, signed 4, false), (.hlvWu, 4, unsigned 4, false), (.hlvD, 8, unsigned 8, false), (.hlvxHu, 2, unsigned 2, true),
   (.hlvxWu, 4, unsigned 4, true)]
def storeTable : List ((Reg → Reg → BitVec 12 → Instr) × Nat) := [(.sb, 1), (.sh, 2), (.sw, 4), (.sd, 8)]
noncomputable def hsvTable : List ((Reg → Reg → Instr) × Nat) := [(.hsvB, 1), (.hsvH, 2), (.hsvW, 4), (.hsvD, 8)]
/-- Hypervisor accesses run outside a guest, in user mode only where hstatus.HU allows them. -/
def MayHyp (s : State) : Prop :=
  IsGroup s ∧ (curHart s).virt = false ∧ ((curHart s).priv = .u → bitAt ((curHart s).getC 0x600) 9 = true)
/-- The write that a store sends towards its home. -/
def storeReq (s : State) (l : Located) (n : Nat) (va v : DWord) : Req :=
  { agent := s.cur, loc := l.loc, size := n, data := BitVec.ofNat 64 (v.toNat % 2 ^ (8 * n)), lkey := (curHart s).lkey,
    pid := (curHart s).actsFor, mode := l.mode, src := (curHart s).tile,
    hub := hubChannel s (curHart s).actsFor (curHart s).tile l.loc, va := va }
/-- A store retires with its write on its way: the last of the package's travelling writes. No byte of memory has changed. -/
def Stores (i : Instr) (s : State) (l : Located) (n : Nat) (va v : DWord) : Prop :=
  ∃ t, exec i s = .next t ∧ WroteX (curHart s) (curHart t) 0 0 (pcOf s + 4) ∧ (∀ k, k ≠ s.cur → hartAt t k = hartAt s k) ∧
    t = { s with harts := t.harts, mem := { s.mem with net := s.mem.net ++ [storeReq s l n va v], copies := t.mem.copies,
                                                       walks := t.mem.walks } }
/-- What an access traps with: cause, the address, and whether that is a guest address. -/
def accessTrap (s : State) (cause : Nat) (va : DWord) : Trap := { cause := cause, tval := va, gva := (dataCtx (curHart s)).virt }
end Memory

section Atomics
/-- An agent that has performed an acquire where `aq` asks for one. -/
def acquired (aq : Bool) (s : State) (h : Hart) : Hart := if aq then { h with av := true, acqTick := leaseTick s } else h
def signedOf (n v : Nat) : Int := (BitVec.ofNat (8 * n) v).toInt
/-- The A extension's operations on n-byte numbers: new value from old value and operand. -/
def amoRows (n : Nat) : List (Nat → Nat → Nat) :=
  [fun _ b => b, fun a b => (a + b) % 2 ^ (8 * n), fun a b => a ^^^ b, fun a b => a &&& b, fun a b => a ||| b,
   fun a b => if signedOf n a ≤ signedOf n b then a else b, fun a b => if signedOf n b ≤ signedOf n a then a else b,
   fun a b => min a b, fun a b => max a b]
noncomputable def amoW : List (Reg → Reg → Reg → Bool → Bool → Instr) :=
  [.amoswapW, .amoaddW, .amoxorW, .amoandW, .amoorW, .amominW, .amomaxW, .amominuW, .amomaxuW]
noncomputable def amoD : List (Reg → Reg → Reg → Bool → Bool → Instr) :=
  [.amoswapD, .amoaddD, .amoxorD, .amoandD, .amoorD, .amominD, .amomaxD, .amominuD, .amomaxuD]
noncomputable def amoTable : List ((Reg → Reg → Reg → Bool → Bool → Instr) × Nat × (Nat → Nat → Nat)) :=
  (amoW.zip (amoRows 4)).map (fun e => (e.1, 4, e.2)) ++ (amoD.zip (amoRows 8)).map (fun e => (e.1, 8, e.2))
/-- The other agents and everything but memory are as before, counters of L2 slices apart. -/
def Elsewhere (s t : State) : Prop :=
  t = { s with harts := t.harts, mem := t.mem, counters := t.counters } ∧ SliceCounts s t ∧ ∀ k, k ≠ s.cur → hartAt t k = hartAt s k
noncomputable def lrForms : List ((Reg → Reg → Bool → Bool → Instr) × Nat) := [(.lrW, 4), (.lrD, 8)]
noncomputable def scTable : List ((Reg → Reg → Reg → Bool → Bool → Instr) × Nat) := [(.scW, 4), (.scD, 8)]
/-- The current hart's reservation of exactly this span stands. -/
def Reserved (s : State) (a n : Nat) : Prop := ∃ r ∈ s.mem.lrs, r.hart = s.cur ∧ r.addr = a ∧ r.size = n
def NoReservation (s : State) (k : Nat) : Prop := ∀ r ∈ s.mem.lrs, r.hart ≠ k
end Atomics

end Sys2Proof.Claims

/-- Loads and hypervisor loads (04 R101; 05 R129; 14 R318, R323). -/
def Obligations.LoadsReturnMemory : Prop :=
  (∀ e ∈ loadTable, ∀ (rd rs1 : Reg) (imm : BitVec 12) (s : State) (l : Located), MayRun s [rd, rs1] →
    AnswersAt s .load .scalar (xs s rs1 + sx imm) e.2.1 l → NoNearWrite s l.loc e.2.1 → heldRead s l.loc e.2.1 = false →
    LoadCases (e.1 rd rs1 imm) s rd l e.2.1 e.2.2) ∧
  (∀ e ∈ hlvTable, ∀ (rd rs1 : Reg) (s : State) (l : Located), MayHyp s →
    AnswersIn s (hlvCtx (curHart s) e.2.2.2) 0 .load .scalar (xs s rs1) e.2.1 l → NoNearWrite s l.loc e.2.1 →
    heldRead s l.loc e.2.1 = false → LoadCases (e.1 rd rs1) s rd l e.2.1 e.2.2.1)

/-- Stores and hypervisor stores retire with their write on its way; no byte of memory changes yet (04 R105, R110). That a scalar store
reaches no other package, and the channel its write takes, are the model's readings (notes/assumptions/25, 85). -/
def Obligations.StoresSendTheirBytes : Prop :=
  (∀ e ∈ storeTable, ∀ (rs1 rs2 : Reg) (imm : BitVec 12) (s : State) (l : Located), MayRun s [rs1, rs2] →
    ReachesAt s .store .scalar (xs s rs1 + sx imm) e.2 l → Stores (e.1 rs1 rs2 imm) s l e.2 (xs s rs1 + sx imm) (xs s rs2)) ∧
  (∀ e ∈ hsvTable, ∀ (rs1 rs2 : Reg) (s : State) (l : Located), MayHyp s →
    ReachesIn s (hlvCtx (curHart s) false) 0 .store .scalar (xs s rs1) e.2 l → Stores (e.1 rs1 rs2) s l e.2 (xs s rs1) (xs s rs2))

/-- An agent's load returns what its own store to the same place wrote before, though the store has not reached its home (14 R318). -/
def Obligations.LoadSeesOwnStore : Prop :=
  ∀ e ∈ storeTable, ∀ g ∈ loadTable, g.2.1 = e.2 →
    ∀ (rs1 rs2 rd rb : Reg) (imm off : BitVec 12) (s t : State) (l m : Located),
    MayRun s [rs1, rs2] → ReachesAt s .store .scalar (xs s rs1 + sx imm) e.2 l → (HoldsBytes l.loc ∧ ∀ a, l.loc ≠ .host a) →
    exec (e.1 rs1 rs2 imm) s = .next t → MayRun t [rd, rb] → ReachesAt t .load .scalar (xs t rb + sx off) e.2 m → m.loc = l.loc →
    Loads (g.1 rd rb off) t rd (g.2.2 ((xs s rs2).toNat % 2 ^ (8 * e.2)))

/-- A misaligned scalar access raises the address-misaligned exception of its kind and performs nothing (04 R94). -/
def Obligations.MisalignedAccessTraps : Prop :=
  (∀ e ∈ loadTable, ∀ (rd rs1 : Reg) (imm : BitVec 12) (s : State), MayRun s [rd, rs1] → (xs s rs1 + sx imm).toNat % e.2.1 ≠ 0 →
    exec (e.1 rd rs1 imm) s = .next (trapCur s (accessTrap s 4 (xs s rs1 + sx imm)))) ∧
  (∀ e ∈ storeTable, ∀ (rs1 rs2 : Reg) (imm : BitVec 12) (s : State), MayRun s [rs1, rs2] → (xs s rs1 + sx imm).toNat % e.2 ≠ 0 →
    exec (e.1 rs1 rs2 imm) s = .next (trapCur s (accessTrap s 6 (xs s rs1 + sx imm)))) ∧
  (∀ e ∈ amoTable, ∀ (rd rs1 rs2 : Reg) (aq rl : Bool) (s : State), MayRun s [rd, rs1, rs2] → (xs s rs1).toNat % e.2.1 ≠ 0 →
    exec (e.1 rd rs1 rs2 aq rl) s = .next (trapCur s (accessTrap s 6 (xs s rs1)))) ∧
  (∀ e ∈ lrForms, ∀ (rd rs1 : Reg) (aq rl : Bool) (s : State), MayRun s [rd, rs1] → (xs s rs1).toNat % e.2 ≠ 0 →
    exec (e.1 rd rs1 aq rl) s = .next (trapCur s (accessTrap s 4 (xs s rs1)))) ∧
  (∀ e ∈ scTable, ∀ (rd rs1 rs2 : Reg) (aq rl : Bool) (s : State), MayRun s [rd, rs1, rs2] → (xs s rs1).toNat % e.2 ≠ 0 →
    exec (e.1 rd rs1 rs2 aq rl) s = .next (trapCur s (accessTrap s 6 (xs s rs1))))

/-- A standard AMO is one read-modify-write at the home: the old value goes to x[rd] and the new one to exactly its bytes (04 R103;
05 R129). -/
def Obligations.AmosUpdateMemory : Prop :=
  ∀ e ∈ amoTable, ∀ (rd rs1 rs2 : Reg) (aq rl : Bool) (s : State) (l : Located), MayRun s [rd, rs1, rs2] →
    AnswersAt s .store .amo (xs s rs1) e.2.1 l → Quiet s → HoldsBytes l.loc → Writable s s.cur l.loc e.2.1 →
    let old := homeValue s l.loc e.2.1
    ∃ t, exec (e.1 rd rs1 rs2 aq rl) s = .next t ∧ Elsewhere s t ∧
      WroteX (acquired aq s (curHart s)) (curHart t) rd (signed e.2.1 old) (pcOf s + 4) ∧
      WroteBytes s t l.loc e.2.1 (e.2.2 old ((xs s rs2).toNat % 2 ^ (8 * e.2.1)))

/-- LR reads and reserves exactly its span; SC succeeds only while the reservation stands and always ends it (14 R321). -/
def Obligations.ReservationsGuardStores : Prop :=
  (∀ e ∈ lrForms, ∀ (rd rs1 : Reg) (aq rl : Bool) (s : State) (l : Located) (a : Nat), MayRun s [rd, rs1] →
    AnswersAt s .load .lrsc (xs s rs1) e.2 l → l.loc = .mem a → Quiet s → heldRead s l.loc e.2 = false →
    (l.mode = 0 ∨ (lrTable s (homeOf a)).length < 32) →
    ∃ t, exec (e.1 rd rs1 aq rl) s = .next t ∧ Elsewhere s t ∧ SameBytes s t ∧
      WroteX (acquired aq s (curHart s)) (curHart t) rd (signed e.2 (homeValue s l.loc e.2)) (pcOf s + 4) ∧
      Reserved t a e.2 ∧ ∀ r ∈ t.mem.lrs, r.hart = s.cur → r.addr = a ∧ r.size = e.2) ∧
  (∀ e ∈ scTable, ∀ (rd rs1 rs2 : Reg) (aq rl : Bool) (s : State) (l : Located) (a : Nat), MayRun s [rd, rs1, rs2] →
    AnswersAt s .store .lrsc (xs s rs1) e.2 l → l.loc = .mem a → Quiet s →
    (Reserved s a e.2 → Writable s s.cur l.loc e.2 →
      ∃ t, exec (e.1 rd rs1 rs2 aq rl) s = .next t ∧ Elsewhere s t ∧ NoReservation t s.cur ∧
        WroteX (acquired aq s (curHart s)) (curHart t) rd 0 (pcOf s + 4) ∧
        WroteBytes s t l.loc e.2 ((xs s rs2).toNat % 2 ^ (8 * e.2))) ∧
    (¬ Reserved s a e.2 → heldWrite s s.cur l.loc e.2 = false →
      ∃ t, exec (e.1 rd rs1 rs2 aq rl) s = .next t ∧ Elsewhere s t ∧ NoReservation t s.cur ∧ SameBytes s t ∧
        WroteX (acquired aq s (curHart s)) (curHart t) rd 1 (pcOf s + 4)))

namespace Sys2Proof.Claims
open Sys2Proof.Machine

section Csr
/-- The Zicsr instructions with a register operand and with an immediate: the new value from the old one and the operand, and whether
an operand x0 or 0 writes too. -/
def csrTable : List ((Reg → Reg → BitVec 12 → Instr) × (DWord → DWord → DWord) × Bool) :=
  [(.csrrw, fun _ b => b, true), (.csrrs, fun a b => a ||| b, false), (.csrrc, fun a b => a &&& ~~~b, false)]
def csriTable : List ((Reg → BitVec 5 → BitVec 12 → Instr) × (DWord → DWord → DWord) × Bool) :=
  [(.csrrwi, fun _ b => b, true), (.csrrsi, fun a b => a ||| b, false), (.csrrci, fun a b => a &&& ~~~b, false)]
/-- A CSR access that its gate admits to register m: a read alone retires with the value; a write first answers the old value and
then has its effect; a value the register refuses is illegal-instruction. -/
def CsrCompletes (i : Instr) (s : State) (rd : Reg) (csr : BitVec 12) (write : Bool) (v : DWord → DWord) : Prop :=
  ∀ m, csrGate (curHart s) csr.toNat write = .pass m →
    (write = false → Retires i s s rd (csrRead s (curHart s) m) (pcOf s + 4)) ∧
    (write = true → csrBad s (curHart s) m (v (csrOld s (curHart s) m)) = false →
      exec i s = .next (csrWrite (retireX (csrTrace s m (v (csrOld s (curHart s) m))) rd (csrRead s (curHart s) m)) s.cur m
        (v (csrOld s (curHart s) m)))) ∧
    (write = true → csrBad s (curHart s) m (v (csrOld s (curHart s) m)) = true → exec i s = .next (trapCur s (illegal (insnBits i))))
/-- The CSR numbers assigned in the Soling ranges, for a group (02 R58–R62). -/
def assignedCsr (n : Nat) : Prop :=
  (0x800 ≤ n ∧ n ≤ 0x807) ∨ (0x810 ≤ n ∧ n ≤ 0x81F) ∨ (0xCC0 ≤ n ∧ n ≤ 0xCCA) ∨ (0x5C0 ≤ n ∧ n ≤ 0x5C8) ∨ (0x6C0 ≤ n ∧ n ≤ 0x6C8) ∨
    (0x7C0 ≤ n ∧ n ≤ 0x7CC)
def solingCsr (n : Nat) : Prop :=
  (0x800 ≤ n ∧ n ≤ 0x8FF) ∨ (0xCC0 ≤ n ∧ n ≤ 0xCFF) ∨ (0x5C0 ≤ n ∧ n ≤ 0x5FF) ∨ (0x6C0 ≤ n ∧ n ≤ 0x6FF) ∨ (0x7C0 ≤ n ∧ n ≤ 0x7FF)
/-- An access that R56 forbids whatever the instruction: an unassigned number, or a mode below the number's level. -/
def CsrForbidden (s : State) (n : Nat) : Prop :=
  (solingCsr n ∧ ¬ assignedCsr n) ∨ (0x7C0 ≤ n ∧ n ≤ 0x7FF ∧ (curHart s).priv ≠ .m) ∨
    (((0x5C0 ≤ n ∧ n ≤ 0x5FF) ∨ (0x6C0 ≤ n ∧ n ≤ 0x6FF)) ∧ (curHart s).priv = .u)
end Csr

section System
/-- The current agent retires in state b as `g` says, and nothing else changes. -/
def Completes (i : Instr) (s b : State) (g : Hart) : Prop :=
  ∃ t, exec i s = .next t ∧ t = { b with harts := t.harts } ∧ (∀ k, k ≠ s.cur → hartAt t k = hartAt s k) ∧ RetiredAs (curHart t) g
/-- The state after a translation fence: matching cached translations of the tiles it reaches are gone, and walks in flight for them are
not installed (14 R317). -/
def fenced (s : State) (p : Tlb → Bool) : State :=
  modMem s (fun m => { m with tlbs := m.tlbs.filter (fun t => !p t), walkCache := m.walkCache.filter (fun t => !p t),
                              walks := m.walks.map (fun w => if p w.entry || w.path.any p then { w with killed := true } else w) })
def fencesReach (s : State) (tile : Nat) : Bool :=
  !(curHart s).virt || (match partOf s (curHart s).tile with
    | some p => rectHas (partAt s p).rect tile
    | none => tile == (curHart s).tile)
/-- A translation cache of a tile, that of a cluster's streamers, which serves its tiles, and that of a tile's home core (14 R315, R317). -/
def cachesReached (s : State) (c : Nat) : Bool :=
  if c < 256 then fencesReach s c
  else if c < 512 then (List.range 256).any (fun t => decide (clusterOf t + 256 = c) && fencesReach s t)
  else fencesReach s (c - 512)
/-- Every load of an agent that a fence reaches has returned (14 R317, R326; 01 R36). -/
def LoadsBack (s : State) : Prop :=
  ∀ e ∈ s.harts, (fencesReach s e.2.tile = true → e.2.spec = []) ∧ ∀ p ∈ e.2.loads, p.value = none → fencesReach s p.tile = false
/-- An address operand names the whole leaf that maps it. -/
def namesPage (r : Reg) (a page lvl : Nat) : Bool := decide (r = 0) || decide (a / 4096 / 512 ^ lvl = page / 512 ^ lvl)
def namesFirst (r : Reg) (a : Nat) (t : Tlb) : Bool := namesPage r a t.vpage (if t.stage1 then t.lvl1 else t.lvl2)
def namesAsid (r : Reg) (v : DWord) (t : Tlb) : Bool := decide (r = 0) || (decide (t.asid = bitsOf v 0 16) && !t.glob)
/-- The modes in which a group may run SFENCE.VMA, and the hypervisor fences. -/
def MaySfence (h : Hart) : Prop :=
  h.priv ≠ .u ∧ (h.virt = true → bitAt (h.getC 0x600) 20 = false) ∧
    (h.virt = false → h.priv = .s → bitAt (h.getC 0x300) 20 = false)
/-- The vmid of the guest in force. -/
def vmidOf (h : Hart) : Nat := bitsOf (h.getC 0x680) 44 14
/-- Environment call causes by mode (the privileged architecture). -/
def callCause (h : Hart) : Nat := if h.priv = .m then 11 else if h.priv = .u then 8 else if h.virt then 10 else 9
/-- The group whose state a trap leaves: no lane full-empty instruction is in progress, and no copy's ownership is awaited. -/
def Plain (s : State) : Prop := IsGroup s ∧ (curHart s).laneFe = none ∧ ∀ c, (curHart s).wait ≠ .copyOwn c
/-- A trap of the current group at its scalar instruction, and the group after it. -/
def afterTrap (s : State) (t : Trap) : Hart := curHart (trapCur s t)
/-- SRET where no mode and no TSR or VTSR forbids it. -/
def MaySret (h : Hart) : Prop :=
  h.priv ≠ .u ∧ (h.virt = true → bitAt (h.getC 0x600) 22 = false) ∧
    (h.virt = false → h.priv = .s → bitAt (h.getC 0x300) 22 = false)
/-- The group as an SRET returns it while SLCTL.LRES of the executing mode's copies is set, which it clears (06 R147; 12 R270). -/
def resumeReturn (h : Hart) : Hart :=
  { (sretHart h).setC (bankKey h.virt 0x5C5) 0 with instret := h.instret + 1, run := .ready, wait := .nothing }
/-- An entry of a batch as its LRUN would append it, without what a resume adds. -/
def bareEntry (e : LaneEntry) : LaneEntry := { e with cnt := none, skip := 0, resumed := false, resVs := false }
/-- What a trap leaves outside its own CSRs: every general register, lane register, mask and limb, where no lane result is pending. -/
def TrapKeeps (h g : Hart) : Prop :=
  h.pend = [] → (∀ q, g.getX q = h.getX q) ∧ g.v = h.v ∧ g.em = h.em ∧ g.m = h.m ∧ g.mstk = h.mstk ∧ g.msp = h.msp ∧
    g.limbs = h.limbs ∧ g.instret = h.instret
end System

end Sys2Proof.Claims

/-- Zicsr in a group: read, then write, where the register admits the access and the value (02 R55–R62; 05 R129). -/
def Sys2Proof.Claims.CsrAccessesComplete : Prop :=
  (∀ e ∈ csrTable, ∀ (rd rs1 : Reg) (csr : BitVec 12) (s : State), IsGroup s →
    CsrCompletes (e.1 rd rs1 csr) s rd csr (e.2.2 || decide (rs1 ≠ 0)) (fun old => e.2.1 old (xs s rs1))) ∧
  (∀ e ∈ csriTable, ∀ (rd : Reg) (u : BitVec 5) (csr : BitVec 12) (s : State), IsGroup s →
    CsrCompletes (e.1 rd u csr) s rd csr (e.2.2 || decide (u ≠ 0)) (fun old => e.2.1 old (u.setWidth 64)))

/-- Accesses that R56 forbids raise illegal-instruction: unassigned numbers, modes below the number's level, and writes of read-only
numbers (02 R56). -/
def Sys2Proof.Claims.ForbiddenCsrAccessesTrap : Prop :=
  (∀ e ∈ csrTable, ∀ (rd rs1 : Reg) (csr : BitVec 12) (s : State), IsGroup s →
    (CsrForbidden s csr.toNat ∨ (0xCC0 ≤ csr.toNat ∧ csr.toNat ≤ 0xCFF ∧ (e.2.2 = true ∨ rs1 ≠ 0))) →
    exec (e.1 rd rs1 csr) s = .next (trapCur s (illegal (insnBits (e.1 rd rs1 csr))))) ∧
  (∀ e ∈ csriTable, ∀ (rd : Reg) (u : BitVec 5) (csr : BitVec 12) (s : State), IsGroup s →
    (CsrForbidden s csr.toNat ∨ (0xCC0 ≤ csr.toNat ∧ csr.toNat ≤ 0xCFF ∧ (e.2.2 = true ∨ u ≠ 0))) →
    exec (e.1 rd u csr) s = .next (trapCur s (illegal (insnBits (e.1 rd u csr)))))

/-- A CSR write of LFRM or MSP stores the value it may hold: LFRM 0 to 4 and MSP 0 to 16, where entries from the new MSP upward read 0
and the others are kept; other values raise illegal-instruction (02 R47, R58). -/
def Sys2Proof.Claims.LaneCsrWritesAreChecked : Prop :=
  ∀ (rd rs1 : Reg) (s : State), IsGroup s →
    let v := (xs s rs1).toNat
    (v % 8 ≤ 4 → ∃ t, exec (.csrrw rd rs1 0x802) s = .next t ∧ (curHart t).getC 0x802 = BitVec.ofNat 64 (v % 8) ∧
      (∀ n, n ≠ 0x802 → (curHart t).getC n = (curHart s).getC n)) ∧
    (4 < v % 8 → exec (.csrrw rd rs1 0x802) s = .next (trapCur s (illegal (insnBits (.csrrw rd rs1 0x802))))) ∧
    (v % 32 ≤ 16 → ∃ t, exec (.csrrw rd rs1 0x801) s = .next t ∧ (curHart t).msp = v % 32 ∧
      ∀ e, (curHart t).getS e = if e < v % 32 then (curHart s).getS e else 0) ∧
    (16 < v % 32 → exec (.csrrw rd rs1 0x801) s = .next (trapCur s (illegal (insnBits (.csrrw rd rs1 0x801))))) ∧
    ∀ w : DWord,
      (w.toNat % 32 ≤ 16 → ∃ t, exec (.mspWrite w) s = .next t ∧ (curHart t).msp = w.toNat % 32 ∧ (curHart t).pc = (curHart s).pc ∧
        ∀ e, (curHart t).getS e = if e < w.toNat % 32 then (curHart s).getS e else 0) ∧
      (16 < w.toNat % 32 → exec (.mspWrite w) s = .next (trapCur s (illegal (insnAt s (curHart s)))))

/-- Zicsr: accesses that complete, accesses that R56 forbids, and the values that LFRM and MSP take (02 R47, R55–R62). The gates of
standard registers, the bits that the LFRM and MSP checks look at, the write of MSP by its own operation and the exception in a guest's
user mode are the model's readings (notes/assumptions/4, 48, 49, 60). -/
def Obligations.CsrAccessesFollowTheirRules : Prop :=
  CsrAccessesComplete ∧ ForbiddenCsrAccessesTrap ∧ LaneCsrWritesAreChecked

/-- Fences, PAUSE and translation fences complete at once where no write of the package is on its way, and for the last no load (04 R97,
R105; 05 R129; 14 R317). -/
def Sys2Proof.Claims.FencesComplete : Prop :=
  (∀ (fm pred succ : BitVec 4) (rs1 rd : Reg) (s : State), MayRun s [rs1, rd] → Quiet s →
    Completes (.fence fm pred succ rs1 rd) s s (acquired (decide (pred ≠ 0 ∧ succ ≠ 0)) s (curHart s))) ∧
  (∀ (rs1 rd : Reg) (s : State), MayRun s [rs1, rd] → Quiet s → Completes (.fenceTso rs1 rd) s s (acquired true s (curHart s))) ∧
  (∀ (imm : BitVec 12) (rs1 rd : Reg) (s : State), IsGroup s → Quiet s → Completes (.fenceI imm rs1 rd) s s (curHart s)) ∧
  (∀ s : State, IsGroup s → Completes .pause s s { curHart s with pauseTo := s.clk + 32 }) ∧
  (∀ (rs1 rs2 : Reg) (s : State), IsGroup s → Quiet s → LoadsBack s → MaySfence (curHart s) →
    Completes (.sfenceVma rs1 rs2) s (fenced s (fun t => cachesReached s t.tile && (decide (t.virt = (curHart s).virt) &&
      (!(curHart s).virt || !t.stage2 || decide (t.vmid = vmidOf (curHart s)))) && namesFirst rs1 (xs s rs1).toNat t &&
      namesAsid rs2 (xs s rs2) t)) (curHart s)) ∧
  (∀ (rs1 rs2 : Reg) (s : State), IsGroup s → Quiet s → LoadsBack s → (curHart s).virt = false → (curHart s).priv ≠ .u →
    Completes (.hfenceVvma rs1 rs2) s (fenced s (fun t => cachesReached s t.tile && t.virt &&
      (!t.stage2 || decide (t.vmid = vmidOf (curHart s))) && namesFirst rs1 (xs s rs1).toNat t && namesAsid rs2 (xs s rs2) t))
      (curHart s)) ∧
  (∀ (rs1 rs2 : Reg) (s : State), IsGroup s → Quiet s → LoadsBack s → (curHart s).virt = false → (curHart s).priv ≠ .u →
    ((curHart s).priv = .s → bitAt ((curHart s).getC 0x300) 20 = false) →
    Completes (.hfenceGvma rs1 rs2) s (fenced s (fun t => cachesReached s t.tile && t.virt && t.stage2 &&
      namesPage rs1 ((xs s rs1).toNat * 4) t.gpage t.lvl2 && (decide (rs2 = 0) || decide (t.vmid = bitsOf (xs s rs2) 0 14))))
      (curHart s))

/-- ECALL and EBREAK take their exceptions (05 R129; the privileged architecture); whether EBREAK's trap value is its own address is
the free value of notes/assumptions/18. -/
def Sys2Proof.Claims.CallsTakeTheirTrap : Prop :=
  (∀ s : State, IsGroup s → exec .ecall s = .next (trapCur s { cause := callCause (curHart s) })) ∧
  (∀ s : State, IsGroup s → ∃ v, (v = 0 ∨ v = pcOf s) ∧ ∃ g, exec .ebreak s = .next (trapCur s { cause := 3, tval := v, gva := g }))

/-- Taking an exception in M mode: what is saved, what the status becomes, and where the pc goes (12 R266, R274). -/
def Sys2Proof.Claims.TrapEntersMachineMode : Prop :=
  ∀ (s : State) (t : Trap), Plain s → t.intr = false → t.lane = none → t.stm = none → t.cause < 64 →
    ((curHart s).priv = .m ∨ bitAt ((curHart s).getC 0x302) t.cause = false) →
    let h := curHart s; let g := afterTrap s t
    g.priv = .m ∧ g.virt = false ∧ g.pc = h.getC 0x305 &&& ~~~(3 : DWord) ∧ g.getC 0x341 = h.pc ∧
      g.getC 0x342 = BitVec.ofNat 64 t.cause ∧ g.getC 0x343 = t.tval ∧ g.getC 0x34B = t.gpa >>> 2 ∧ g.getC 0x34A = t.inst ∧
      bitsOf (g.getC 0x300) 11 2 = privCode h.priv ∧ bitsOf (g.getC 0x300) 7 1 = bitsOf (h.getC 0x300) 3 1 ∧
      bitsOf (g.getC 0x300) 3 1 = 0 ∧ bitAt (g.getC 0x300) 39 = (h.virt && h.priv != .m) ∧
      bitsOf (g.getC 0x5C0) 7 1 = 0 ∧ g.getC 0x5C5 = 0 ∧ g.run = .ready ∧ g.wait = .nothing ∧ g.laneQ = [] ∧ TrapKeeps h g

/-- Taking an exception in HS mode, where medeleg delegates it and no guest's hedeleg does (12 R266, R272, R274). -/
def Sys2Proof.Claims.TrapEntersHypervisorMode : Prop :=
  ∀ (s : State) (t : Trap), Plain s → t.intr = false → t.lane = none → t.stm = none → t.cause < 64 →
    (curHart s).priv ≠ .m → bitAt ((curHart s).getC 0x302) t.cause = true →
    ((curHart s).virt = false ∨ bitAt ((curHart s).getC 0x602) t.cause = false) →
    let h := curHart s; let g := afterTrap s t
    g.priv = .s ∧ g.virt = false ∧ g.pc = h.getC 0x105 &&& ~~~(3 : DWord) ∧ g.getC 0x141 = h.pc ∧
      g.getC 0x142 = BitVec.ofNat 64 t.cause ∧ g.getC 0x143 = t.tval ∧ g.getC 0x643 = t.gpa >>> 2 ∧ g.getC 0x64A = t.inst ∧
      bitsOf (g.getC 0x300) 8 1 = privCode h.priv ∧ bitsOf (g.getC 0x300) 5 1 = bitsOf (h.getC 0x300) 1 1 ∧
      bitsOf (g.getC 0x300) 1 1 = 0 ∧ bitAt (g.getC 0x600) 7 = h.virt ∧ bitAt (g.getC 0x600) 6 = t.gva ∧
      (h.virt = true → bitsOf (g.getC 0x600) 8 1 = privCode h.priv) ∧
      bitsOf (g.getC 0x5C0) 7 1 = 0 ∧ g.getC 0x5C5 = 0 ∧ g.run = .ready ∧ g.wait = .nothing ∧ g.laneQ = [] ∧ TrapKeeps h g

/-- Taking an exception in VS mode, where both delegate it; the HS copies of SLANE and SLCTL are not touched (12 R266, R270, R274). -/
def Sys2Proof.Claims.TrapEntersGuestMode : Prop :=
  ∀ (s : State) (t : Trap), Plain s → t.intr = false → t.lane = none → t.stm = none → t.cause < 64 →
    (curHart s).priv ≠ .m → bitAt ((curHart s).getC 0x302) t.cause = true → (curHart s).virt = true →
    bitAt ((curHart s).getC 0x602) t.cause = true →
    let h := curHart s; let g := afterTrap s t
    g.priv = .s ∧ g.virt = true ∧ g.pc = h.getC 0x205 &&& ~~~(3 : DWord) ∧ g.getC 0x241 = h.pc ∧
      g.getC 0x242 = BitVec.ofNat 64 t.cause ∧ g.getC 0x243 = t.tval ∧ bitsOf (g.getC 0x200) 8 1 = privCode h.priv ∧
      bitsOf (g.getC 0x200) 5 1 = bitsOf (h.getC 0x200) 1 1 ∧ bitsOf (g.getC 0x200) 1 1 = 0 ∧
      bitsOf (g.getC (bankKey true 0x5C0)) 7 1 = 0 ∧ g.getC (bankKey true 0x5C5) = 0 ∧ g.getC 0x5C0 = h.getC 0x5C0 ∧
      g.getC 0x5C5 = h.getC 0x5C5 ∧ g.run = .ready ∧ g.wait = .nothing ∧ g.laneQ = [] ∧ TrapKeeps h g

/-- Taking an exception in M, HS and VS: what is saved, the status, the mode and the pc (12 R266, R270, R272, R274). The status and trap
value fields are the privileged architecture's, as the model presumes it (notes/assumptions/4). -/
def Obligations.TrapsEnterTheirMode : Prop :=
  TrapEntersMachineMode ∧ TrapEntersHypervisorMode ∧ TrapEntersGuestMode

/-- MRET and SRET return: the mode, the pc and the interrupt enable come back from what the trap saved (the privileged architecture; 06
R147 where SLCTL.LRES is clear). -/
def Sys2Proof.Claims.TrapReturnsRestore : Prop :=
  (∀ s : State, IsGroup s → (curHart s).priv = .m →
    ∃ t, exec .mret s = .next t ∧ OnlyCur (traceEvent s s.cur (.ind ((curHart s).getC 0x341 &&& ~~~(3 : DWord)))) t ∧
      let h := curHart s; let g := curHart t
      g.pc = h.getC 0x341 &&& ~~~(3 : DWord) ∧ (privCode g.priv = bitsOf (h.getC 0x300) 11 2 ∨ bitsOf (h.getC 0x300) 11 2 = 2) ∧
        bitsOf (g.getC 0x300) 3 1 = bitsOf (h.getC 0x300) 7 1 ∧ bitsOf (g.getC 0x300) 7 1 = 1 ∧ bitsOf (g.getC 0x300) 11 2 = 0 ∧
        g.virt = (bitAt (h.getC 0x300) 39 && g.priv != .m) ∧ (∀ n, n ≠ 0x300 → g.getC n = h.getC n) ∧ ∀ q, g.getX q = h.getX q) ∧
  (∀ s : State, IsGroup s → (curHart s).virt = false → (curHart s).priv ≠ .u →
    ((curHart s).priv = .s → bitAt ((curHart s).getC 0x300) 22 = false) → bitAt ((curHart s).getC 0x5C5) 0 = false →
    ∃ t, exec .sret s = .next t ∧
      let h := curHart s; let g := curHart t
      g.pc = h.getC 0x141 &&& ~~~(3 : DWord) ∧ privCode g.priv = bitsOf (h.getC 0x300) 8 1 ∧ g.virt = bitAt (h.getC 0x600) 7 ∧
        bitsOf (g.getC 0x300) 1 1 = bitsOf (h.getC 0x300) 5 1 ∧ bitsOf (g.getC 0x300) 5 1 = 1 ∧ bitsOf (g.getC 0x300) 8 1 = 0 ∧
        (∀ n, n ≠ 0x300 → n ≠ 0x600 → g.getC n = h.getC n) ∧ ∀ q, g.getX q = h.getX q) ∧
  (∀ s : State, IsGroup s → (curHart s).virt = true → (curHart s).priv ≠ .u → bitAt ((curHart s).getC 0x600) 22 = false →
    bitAt ((curHart s).getC (bankKey true 0x5C5)) 0 = false →
    ∃ t, exec .sret s = .next t ∧
      let h := curHart s; let g := curHart t
      g.pc = h.getC 0x241 &&& ~~~(3 : DWord) ∧ privCode g.priv = bitsOf (h.getC 0x200) 8 1 ∧ g.virt = true ∧
        bitsOf (g.getC 0x200) 1 1 = bitsOf (h.getC 0x200) 5 1 ∧ bitsOf (g.getC 0x200) 5 1 = 1 ∧ bitsOf (g.getC 0x200) 8 1 = 0 ∧
        (∀ n, n ≠ 0x200 → g.getC n = h.getC n) ∧ ∀ q, g.getX q = h.getX q)

/-- An SRET while SLCTL.LRES is set, from either mode's copies (06 R147; 09 R221; 12 R270): at an LRUN it appends SLREM instructions from
LPC, the first without the lanes that SLANE and STM0, STM1 name, or retires that LRUN where SLREM is 0; elsewhere it clears LRES alone. -/
def Sys2Proof.Claims.SretResumesBatch : Prop :=
  ∀ s : State, IsGroup s → MaySret (curHart s) → bitAt ((curHart s).getC (bankKey (curHart s).virt 0x5C5)) 0 = true →
    let k := bankKey (curHart s).virt
    let r := resumeReturn (curHart s)
    let n := bitsOf (r.getC (k 0x5C4)) 0 7
    fetchHeld s s.cur r r.pc = false →
    (holdsLrun s r r.pc = false → ∃ t, exec .sret s = .next t ∧ curHart t = r) ∧
    (holdsLrun s r r.pc = true → n = 0 →
      ∃ t, exec .sret s = .next t ∧ curHart t = { r with pc := r.pc + 4, instret := r.instret + 1 }) ∧
    (holdsLrun s r r.pc = true → n ≠ 0 → batchHeld s s.cur r n r.lpc = false →
      ∃ t, exec .sret s = .next t ∧ let q := (curHart t).laneQ
        curHart t = { r with laneQ := q, lpc := r.lpc + BitVec.ofNat 64 (12 * n), pc := r.pc + 4 } ∧
        q.map bareEntry = batchEntries s r r.pc n r.lpc ∧
        ∀ i e, q[i]? = some e →
          if i = 0 ∧ bitAt (r.getC (k 0x5C0)) 15 = true ∧ r.getC (k 0x5C3) = r.lpc then
            e.resumed = true ∧ e.resVs = (curHart s).virt ∧ e.skip = (r.getC (k 0x5C2) ++ r.getC (k 0x5C1) : BitVec 128)
          else e.resumed = false ∧ e.skip = 0)

/-- MRET and SRET: the mode, the pc and the interrupt enable, and the batch that an SRET with SLCTL.LRES set queues again (12 R275; 06
R147). The register changes are the privileged architecture's, as the model presumes it (notes/assumptions/4). -/
def Obligations.ReturnsRestore : Prop :=
  TrapReturnsRestore ∧ SretResumesBatch

/-- A trap into M mode followed by MRET leaves the group where it was: pc, mode, virtualization and interrupt enable (12 R266, R274). MRET
and the fields it restores are the privileged architecture's, as the model presumes it (notes/assumptions/4). -/
def Obligations.TrapThenMretReturns : Prop :=
  ∀ (s : State) (t : Trap), Plain s → aligned4 (pcOf s) → ((curHart s).priv = .m → (curHart s).virt = false) → t.intr = false →
    ((curHart s).priv = .m ∨ bitAt ((curHart s).getC 0x302) t.cause = false) →
    ∃ u, exec .mret (trapCur s t) = .next u ∧ pcOf u = pcOf s ∧ (curHart u).priv = (curHart s).priv ∧
      (curHart u).virt = (curHart s).virt ∧ bitsOf ((curHart u).getC 0x300) 3 1 = bitsOf ((curHart s).getC 0x300) 3 1

/-- WFI waits until an interrupt is pending, enabled or not, and then retires; a mode it is forbidden in traps (12 R279). -/
def Sys2Proof.Claims.WfiWaitsForInterrupt : Prop :=
  (∀ s : State, IsGroup s → (curHart s).priv ≠ .u → ((curHart s).priv = .s → bitAt ((curHart s).getC 0x300) 21 = false) →
    ((curHart s).virt = true → bitAt ((curHart s).getC 0x600) 21 = false) →
    (anyPending s (curHart s) = true → Completes .wfi s s (curHart s)) ∧
    (anyPending s (curHart s) = false → ∃ t, exec .wfi s = .next t ∧ OnlyCur s t ∧
      curHart t = { curHart s with run := .waitSync, wait := .wfi })) ∧
  (∀ s : State, IsGroup s → (curHart s).priv ≠ .m → bitAt ((curHart s).getC 0x300) 21 = true →
    exec .wfi s = .next (trapCur s (illegal (insnBits .wfi)))) ∧
  (∀ s : State, IsGroup s → (curHart s).priv ≠ .m → bitAt ((curHart s).getC 0x300) 21 = false →
    ((curHart s).virt = false → (curHart s).priv = .u → exec .wfi s = .next (trapCur s (illegal (insnBits .wfi)))) ∧
    ((curHart s).virt = true → ((curHart s).priv = .u ∨ bitAt ((curHart s).getC 0x600) 21 = true) →
      exec .wfi s = .next (trapCur s (virtualInstr (insnBits .wfi)))))

namespace Sys2Proof.Claims
open Sys2Proof.Machine

section Masks
def maskTable2 : List ((Reg → Reg → Reg → Instr) × (Mask → Mask → Mask)) :=
  [(.mand, fun a b => a &&& b), (.mor, fun a b => a ||| b), (.mxor, fun a b => a ^^^ b), (.mandn, fun a b => a &&& ~~~b)]
def maskTable1 : List ((Reg → Reg → Instr) × (Mask → Mask)) := [(.mnot, fun a => ~~~a), (.mmov, fun a => a)]
/-- Mask n of the current group; 15 names EM. -/
def ms (s : State) (n : Reg) : Mask := (curHart s).getM n.toNat
/-- One half of a mask, and a mask with one half replaced. -/
def halfOf (m : Mask) (k : Nat) : DWord := m.extractLsb' (64 * k) 64
def lowHalf (m : Mask) (v : DWord) : Mask := (halfOf m 1 ++ v : BitVec (64 + 64))
def highHalf (m : Mask) (v : DWord) : Mask := (v ++ halfOf m 0 : BitVec (64 + 64))
/-- Segment j of the bound limbs holds both 1 and 0 bits (06 R150). -/
def Mixed (limbs : Nat) (m : Mask) (j : Nat) : Prop :=
  (∃ i < limbs, m.getLsbD (j * limbs + i) = true) ∧ ∃ i < limbs, m.getLsbD (j * limbs + i) = false
/-- Every segment is whole, or no limbs are bound. -/
def Whole (limbs : Nat) (m : Mask) : Prop := limbs = 0 ∨ ∀ j, j < 128 / limbs → ¬ Mixed limbs m j
/-- A group has moved on and written mask n; nothing else of it has changed. -/
def WroteM (h h' : Hart) (n : Nat) (v : Mask) : Prop :=
  (∀ q, h'.getM q = if q = n then v else h.getM q) ∧
  h' = { h with
    em := h'.em, m := h'.m, pc := h.pc + 4, instret := h.instret + 1, run := .ready, wait := .nothing, bounces := 0, indiv := false }
/-- The instructions that write mask md: each with its value, and the group as the instruction leaves it otherwise (a popped entry is
cleared and MSP counts down). -/
inductive MaskWrite (s : State) (md : Reg) : Instr → Mask → Hart → Prop
  | two {e} (h : e ∈ maskTable2) (ma mb : Reg) : MaskWrite s md (e.1 md ma mb) (e.2 (ms s ma) (ms s mb)) (curHart s)
  | one {e} (h : e ∈ maskTable1) (ma : Reg) : MaskWrite s md (e.1 md ma) (e.2 (ms s ma)) (curHart s)
  | setLow (rs1 : Reg) : MaskWrite s md (.msetx md rs1 0) (lowHalf (ms s md) (xs s rs1)) (curHart s)
  | setHigh (rs1 : Reg) : MaskWrite s md (.msetx md rs1 1) (highHalf (ms s md) (xs s rs1)) (curHart s)
  | pop (h : (curHart s).msp ≠ 0) : MaskWrite s md (.mpop md) ((curHart s).getS ((curHart s).msp - 1))
      { (curHart s).setS ((curHart s).msp - 1) 0 with msp := (curHart s).msp - 1 }
  | peek (e : Reg) (h : e.toNat < (curHart s).msp) : MaskWrite s md (.mpeek md e) ((curHart s).getS e.toNat) (curHart s)
/-- The trace packet of a write of EM. -/
def maskTraced (s : State) (md : Reg) (v : Mask) : State := if md = 15 then traceEvent s s.cur (.mask v) else s
/-- A group's mask stack after an instruction: entry e holds v, MSP is d, and nothing else of the group has changed. -/
def WroteS (h h' : Hart) (e : Nat) (v : Mask) (d : Nat) : Prop :=
  (∀ q, h'.getS q = if q = e then v else h.getS q) ∧
  h' = { h with
    mstk := h'.mstk, msp := d, pc := h.pc + 4, instret := h.instret + 1, run := .ready, wait := .nothing, bounces := 0, indiv := false }
def stackTrap (s : State) : Trap := { cause := 28, tval := BitVec.ofNat 64 (curHart s).msp }
end Masks

section LaneStream
/-- The batch of n lane instructions from LPC. -/
def batchOf (s : State) (n : Nat) : List LaneEntry := batchEntries s (curHart s) (pcOf s) n (curHart s).lpc
/-- Nothing but the current agent, what caches, slices and walkers keep, and the marks of failed tag checks has changed. -/
def FetchesOnly (s t : State) : Prop :=
  t = { s with harts := t.harts, counters := t.counters,
               mem := { s.mem with dir := t.mem.dir, walks := t.mem.walks, l2 := t.mem.l2, recalls := t.mem.recalls,
                                   poison := t.mem.poison, tagErr := t.mem.tagErr } } ∧
  SliceCounts s t ∧ ∀ k, k ≠ s.cur → hartAt t k = hartAt s k
/-- The group after its LRUN: the batch has joined its lane queue, and its last instruction reports the count `c` of an LRUNR. -/
def Appends (i : Instr) (s : State) (n : Nat) (c : Option Nat) : Prop :=
  ∃ t, exec i s = .next t ∧ FetchesOnly s t ∧
    curHart t = { curHart s with
      laneQ := (curHart s).laneQ ++ (batchOf s n).map (fun (e : LaneEntry) => { e with cnt := c }),
      lpc := (curHart s).lpc + BitVec.ofNat 64 (12 * n), pc := pcOf s + 4, run := .ready, wait := .nothing }
/-- The x register that a field of a lane instruction names (05 R131). -/
def fieldX (h : Hart) (w : LaneWords) (lo : Nat) : DWord := h.getX (w.extractLsb' lo 5)
/-- A batch of n instructions can join now: its fetch is not held, and it captures no register that a queued instruction writes. -/
def BatchFree (s : State) (n : Nat) : Prop :=
  capturesQueued (curHart s) (batchOf s n) = false ∧ batchHeld s s.cur (curHart s) n (curHart s).lpc = false
end LaneStream

section Synchronise
/-- Whether two places name the same full-empty word. -/
def sameWord : Loc → Loc → Bool
  | .win a, .win b => a / 4 == b / 4
  | .mbox a, .mbox b => a / 4 == b / 4
  | _, _ => false
/-- No access is parked or bounced on a word. -/
def NoneParked (s : State) (l : Loc) : Prop := ∀ p ∈ s.mem.parks, p.loc ≠ l
/-- The full-empty bit of one word is b and every other is as before. -/
def SetsFull (s t : State) (l : Loc) (b : Bool) : Prop :=
  isFull t.mem l = b ∧ ∀ l', sameWord l' l = false → isFull t.mem l' = isFull s.mem l'
/-- A word may take a full-empty access of an agent that is not stopped: no travelling write, no copy and no reservation stands before
it, and its packets arrive. -/
def FeFree (s : State) (l : Loc) : Prop :=
  Quiet s ∧ (curHart s).run ≠ .stopped ∧ heldWrite s s.cur l 4 = false ∧ Routed s l ∧ ((∃ o, l = .win o) ∨ ∃ b, l = .mbox b)
def lrwTable : List ((Reg → Reg → Instr) × Nat) := [(.lrwW, 4), (.lrwD, 8)]
def schTable : List ((Reg → Reg → Reg → Instr) × Nat) := [(.schW, 4), (.schD, 8)]
/-- What SCH leaves in its agent: x[rd], or PW.SUCC of a tasklet that names x0 (07 R171). -/
def schHart (h : Hart) (rd : Reg) (ok : Bool) : Hart :=
  if h.tasklet = true ∧ rd = 0 then h.setC 0x808 (setBitAt (h.getC 0x808) 0 ok) else h.setX rd (flag ok)
/-- A barrier of the current workgroup, if it has one of that number. -/
def barAt (s : State) (n : Nat) : Bar := tget {} (wgAt s (curHart s).wg).bars n
def gbarAt (s : State) (n : Nat) : Bar := tget {} (launchAt s (curHart s).lkey).gbars n
/-- A barrier after one more arrival (07 R176). -/
def arrival (b : Bar) : Bar :=
  if b.arrived + 1 = b.expected ∧ b.copies = 0 then { b with arrived := 0, phase := !b.phase, groups := [] }
  else { b with arrived := b.arrived + 1 }
/-- A state in which one barrier of the current workgroup differs. -/
def withBar (s : State) (n : Nat) (b : Bar) : State := modWg s (curHart s).wg (fun w => { w with bars := tput w.bars n b })
/-- The agents that the completion of a phase releases, and the agents after it: each released one has retired its wait, which is an
acquire, and the others are as before (07 R176). -/
def Releases (s t : State) (gone : Nat → Prop) : Prop :=
  (∀ k, k ≠ s.cur → ¬ gone k → hartAt t k = hartAt s k) ∧
  ∀ k, k ≠ s.cur → gone k → (hartAt s k).run ≠ .stopped → RetiredAs (hartAt t k) (acquired true s (hartAt s k))
/-- A member of the workgroup that waits on a phase of one of its barriers. -/
def WaitsOnBar (s : State) (n : Nat) (p : Bool) (k : Nat) : Prop :=
  k ∈ (wgAt s (curHart s).wg).members.map Prod.snd ∧ (hartAt s k).wait = .bar n p
/-- A group of the launch that waits on a phase of one of its wire barriers. -/
def WaitsOnGbar (s : State) (n : Nat) (p : Bool) (k : Nat) : Prop :=
  (hartAt s k).lkey = (curHart s).lkey ∧ (hartAt s k).tasklet = false ∧ (hartAt s k).wait = .gbar n p
def barTrap (n : Nat) : Trap := { cause := 50, tval := BitVec.ofNat 64 n }
end Synchronise

end Sys2Proof.Claims

/-- Every mask operation that passes R150's check writes its mask and nothing else (06 R149). -/
def Sys2Proof.Claims.MaskOperationsWriteTheirMask : Prop :=
  ∀ (s : State) (md : Reg) (i : Instr) (v : Mask) (g : Hart), IsGroup s → i.wellFormed = true → MaskWrite s md i v g →
    (md = 15 → Whole (curHart s).limbs v) →
    ∃ t, exec i s = .next t ∧ OnlyCur (maskTraced s md v) t ∧ WroteM g (curHart t) md.toNat v

/-- A write of EM that would leave a segment of the bound limbs partly active traps LIMB_DIVERGE with the lowest such segment, and
EM, the masks, the mask stack and MSP stay as they were (06 R150). -/
def Sys2Proof.Claims.PartialEmTraps : Prop :=
  ∀ (s : State) (i : Instr) (v : Mask) (g : Hart) (j : Nat), IsGroup s → i.wellFormed = true → MaskWrite s 15 i v g →
    (curHart s).limbs ≠ 0 → j < 128 / (curHart s).limbs → Mixed (curHart s).limbs v j →
    (∀ k < j, ¬ Mixed (curHart s).limbs v k) →
    exec i s = .next (trapCur s { cause := 27, tval := BitVec.ofNat 64 j, detail := some 0 }) ∧
    (Plain s → ∀ t, exec i s = .next t → TrapKeeps (curHart s) (curHart t))

/-- MPUSH and MPOKE write the stack; MPUSH at 16, MPOP at 0 and an entry at or above MSP trap MASK_STACK with MSP (06 R149; 02 R47). -/
def Sys2Proof.Claims.MaskStackIsChecked : Prop :=
  (∀ (s : State) (ma : Reg), IsGroup s → (Instr.mpush ma).wellFormed = true → (curHart s).msp < 16 →
    ∃ t, exec (.mpush ma) s = .next t ∧ OnlyCur s t ∧
      WroteS (curHart s) (curHart t) (curHart s).msp (ms s ma) ((curHart s).msp + 1)) ∧
  (∀ (s : State) (e ma : Reg), IsGroup s → (Instr.mpoke e ma).wellFormed = true → e.toNat < (curHart s).msp →
    ∃ t, exec (.mpoke e ma) s = .next t ∧ OnlyCur s t ∧ WroteS (curHart s) (curHart t) e.toNat (ms s ma) (curHart s).msp) ∧
  (∀ (s : State) (ma : Reg), IsGroup s → (Instr.mpush ma).wellFormed = true → 16 ≤ (curHart s).msp →
    exec (.mpush ma) s = .next (trapCur s (stackTrap s))) ∧
  (∀ (s : State) (md : Reg), IsGroup s → (Instr.mpop md).wellFormed = true → (curHart s).msp = 0 →
    exec (.mpop md) s = .next (trapCur s (stackTrap s))) ∧
  (∀ (s : State) (md e ma : Reg), IsGroup s → (curHart s).msp ≤ e.toNat →
    ((Instr.mpeek md e).wellFormed = true → exec (.mpeek md e) s = .next (trapCur s (stackTrap s))) ∧
    ((Instr.mpoke e ma).wellFormed = true → exec (.mpoke e ma) s = .next (trapCur s (stackTrap s))))

/-- MPUSH of a mask and then MPOP into it leaves every mask and MSP as they were, and the entry used cleared (06 R149; 02 R47). -/
def Sys2Proof.Claims.PushThenPopIsExact : Prop :=
  ∀ (s : State) (m : Reg), IsGroup s → (Instr.mpush m).wellFormed = true → (curHart s).msp < 16 →
    (m = 15 → Whole (curHart s).limbs (curHart s).em) →
    ∃ t u, exec (.mpush m) s = .next t ∧ exec (.mpop m) t = .next u ∧ (∀ q, (curHart u).getM q = (curHart s).getM q) ∧
      (curHart u).msp = (curHart s).msp ∧ (curHart u).getS (curHart s).msp = 0 ∧
      (∀ e, e ≠ (curHart s).msp → (curHart u).getS e = (curHart s).getS e) ∧ pcOf u = pcOf s + 8

/-- The checks of EM writes and of the mask stack, and that a pop undoes a push (06 R149, R150; 02 R47). -/
def Obligations.MaskStackAndEmAreChecked : Prop :=
  PartialEmTraps ∧ MaskStackIsChecked ∧ PushThenPopIsExact

/-- MCNT, MFIRST and MGETX read a mask into x[rd] (06 R149). -/
def Sys2Proof.Claims.MaskReadsReachRegisters : Prop :=
  ∀ (s : State) (rd ma half : Reg), IsGroup s → (Instr.mgetx rd ma half).wellFormed = true →
    Retires (.mcnt rd ma) s s rd (BitVec.ofNat 64 ((List.range 128).filter (fun l => (ms s ma).getLsbD l)).length) (pcOf s + 4) ∧
    (∀ k < 128, (ms s ma).getLsbD k = true → (∀ l < k, (ms s ma).getLsbD l = false) →
      Retires (.mfirst rd ma) s s rd (BitVec.ofNat 64 k) (pcOf s + 4)) ∧
    (ms s ma = 0 → Retires (.mfirst rd ma) s s rd 128 (pcOf s + 4)) ∧
    Retires (.mgetx rd ma half) s s rd (halfOf (ms s ma) half.toNat) (pcOf s + 4)

/-- Every mask operation writes its mask, or its register, and nothing else (06 R149). -/
def Obligations.MaskOperationsComplete : Prop :=
  MaskOperationsWriteTheirMask ∧ MaskReadsReachRegisters

/-- LRUN and LRUNR append a batch where the lane queue has room and no operand waits for a queued write; a count above 64 is illegal and
a count of 0 has no effect, once the queue is empty; LPC sets the lane pc (06 R144, R148; 08 R194). -/
def Sys2Proof.Claims.BatchesJoinTheLaneQueue : Prop :=
  (∀ (s : State) (n : BitVec 12), IsGroup s → (Instr.lrun n).wellFormed = true → (curHart s).laneQ.length + n.toNat ≤ 64 →
    BatchFree s n.toNat → Appends (.lrun n) s n.toNat none) ∧
  (∀ (s : State) (rs1 : Reg) (n : Nat), IsGroup s → (xs s rs1).toNat = n → 1 ≤ n → (curHart s).laneQ.length + n ≤ 64 →
    regQueued (curHart s) rs1 = false → BatchFree s n → Appends (.lrunr rs1) s n (some n)) ∧
  (∀ (s : State) (rs1 : Reg), IsGroup s → (curHart s).laneQ = [] →
    (64 < (xs s rs1).toNat → exec (.lrunr rs1) s = .next (trapCur s (illegal (insnBits (.lrunr rs1))))) ∧
    (xs s rs1 = 0 → Completes (.lrunr rs1) s (traceEvent s s.cur (.cnt 0)) (curHart s))) ∧
  (∀ (s : State) (imm : BitVec 12) (rs1 : Reg), IsGroup s →
    Completes (.lpc imm rs1) s (traceEvent s s.cur (.lpc ((xs s rs1 + sx imm) &&& ~~~(3 : DWord))))
      { curHart s with lpc := (xs s rs1 + sx imm) &&& ~~~(3 : DWord) })

/-- The entries of a batch are the 96-bit instructions at LPC, LPC + 12, …, each with its place in the batch and the x registers that its
sources of kind 01 name, captured as the LRUN appends it; the first whose fetch faults ends the batch, as an entry that holds the fault (02
R43; 06 R143–R145). -/
def Sys2Proof.Claims.BatchEntriesFollowLpc : Prop :=
  (∀ (s : State) (h : Hart) (pc a : DWord) (n : Nat), (∀ i < n, ∃ w, fetchLane s h (a + BitVec.ofNat 64 (12 * i)) = .ok w) →
    (batchEntries s h pc n a).length = n ∧
    ∀ i < n, ∃ w e, fetchLane s h (a + BitVec.ofNat 64 (12 * i)) = .ok w ∧ (batchEntries s h pc n a)[i]? = some e ∧ e.word = w ∧
      e.lpc = a + BitVec.ofNat 64 (12 * i) ∧ e.pc = pc ∧ e.rem = n - i ∧ e.bad = none ∧
      (w.extractLsb' 46 2 = 1#2 → e.capA = fieldX h w 26) ∧ (w.extractLsb' 48 2 = 1#2 → e.capB = fieldX h w 36) ∧
      (w.getLsbD 7 = false → w.extractLsb' 74 2 = 1#2 → e.capC = fieldX h w 64)) ∧
  (∀ (s : State) (h : Hart) (pc a : DWord) (n i : Nat) (t : Trap), i < n →
    (∀ j < i, ∃ w, fetchLane s h (a + BitVec.ofNat 64 (12 * j)) = .ok w) →
    fetchLane s h (a + BitVec.ofNat 64 (12 * i)) = .error t →
    (batchEntries s h pc n a).length = i + 1 ∧
    (batchEntries s h pc n a)[i]? = some { bad := some t, lpc := a + BitVec.ofNat 64 (12 * i), pc := pc, rem := n - i })

/-- LRUN, LRUNR and LPC: the batch that joins the lane queue, entry by entry (06 R143–R145, R148; 08 R194). -/
def Obligations.LaneBatchesAreQueued : Prop :=
  BatchesJoinTheLaneQueue ∧ BatchEntriesFollowLpc

/-- Full-empty accesses whose word is in the state they wait for: the value read, the bytes written and the state afterwards (04 R89; 07
R166). -/
def Sys2Proof.Claims.FullEmptyAccessesComplete : Prop :=
  (∀ (rd rs1 : Reg) (imm : BitVec 12) (s : State) (l : Located), MayRun s [rd, rs1] →
    ReachesAt s .load .fe (xs s rs1 + sx imm) 4 l → FeFree s l.loc → NoneParked s l.loc → isFull s.mem l.loc = true →
    (∃ t, exec (.ldfe rd rs1 imm) s = .next t ∧ Elsewhere s t ∧ SameBytes s t ∧ SetsFull s t l.loc false ∧
      WroteX (acquired true s (curHart s)) (curHart t) rd (signed 4 (homeValue s l.loc 4)) (pcOf s + 4)) ∧
    (∃ t, exec (.ldff rd rs1 imm) s = .next t ∧ Elsewhere s t ∧ SameBytes s t ∧ SetsFull s t l.loc true ∧
      WroteX (acquired true s (curHart s)) (curHart t) rd (signed 4 (homeValue s l.loc 4)) (pcOf s + 4))) ∧
  (∀ (rs1 rs2 : Reg) (imm : BitVec 12) (s : State) (l : Located), MayRun s [rs1, rs2] →
    ReachesAt s .store .fe (xs s rs1 + sx imm) 4 l → FeFree s l.loc → NoneParked s l.loc →
    (isFull s.mem l.loc = false → ∃ t, exec (.stef rs1 rs2 imm) s = .next t ∧ Elsewhere s t ∧
      WroteBytes s t l.loc 4 ((xs s rs2).toNat % 2 ^ 32) ∧ SetsFull s t l.loc true ∧
      WroteX (curHart s) (curHart t) 0 0 (pcOf s + 4)) ∧
    (∃ t, exec (.stff rs1 rs2 imm) s = .next t ∧ Elsewhere s t ∧ WroteBytes s t l.loc 4 ((xs s rs2).toNat % 2 ^ 32) ∧
      SetsFull s t l.loc true ∧ WroteX (curHart s) (curHart t) 0 0 (pcOf s + 4)))

/-- A full-empty access that must wait parks at the word's owner, or bounces at once where 256 accesses are parked there; nothing of
memory changes and its agent waits (04 R91). -/
def Sys2Proof.Claims.FullEmptyAccessesPark : Prop :=
  (∀ (rd rs1 : Reg) (imm : BitVec 12) (s : State) (l : Located), MayRun s [rd, rs1] →
    ReachesAt s .load .fe (xs s rs1 + sx imm) 4 l → FeFree s l.loc → isFull s.mem l.loc = false →
    ∀ e ∈ [(Instr.ldfe rd rs1 imm, FeOp.ldfe), (.ldff rd rs1 imm, .ldff)],
      ∃ t p, exec e.1 s = .next t ∧ Elsewhere s t ∧ SameBytes s t ∧ t.mem.parks = s.mem.parks ++ [p] ∧ p.agent = s.cur ∧ p.op = e.2 ∧
        p.loc = l.loc ∧ p.rd = rd ∧ p.bounced = decide (256 ≤ parkCount s.mem (parkOwner l.loc)) ∧
        p.retries = (if p.bounced then 1 else 0) ∧ curHart t = { curHart s with run := .waitSync, wait := .fullEmpty }) ∧
  (∀ (rs1 rs2 : Reg) (imm : BitVec 12) (s : State) (l : Located), MayRun s [rs1, rs2] →
    ReachesAt s .store .fe (xs s rs1 + sx imm) 4 l → FeFree s l.loc → isFull s.mem l.loc = true →
      ∃ t p, exec (.stef rs1 rs2 imm) s = .next t ∧ Elsewhere s t ∧ SameBytes s t ∧ t.mem.parks = s.mem.parks ++ [p] ∧
        p.agent = s.cur ∧ p.op = .stef ∧ p.loc = l.loc ∧ p.data = (xs s rs2).setWidth 32 ∧
        p.bounced = decide (256 ≤ parkCount s.mem (parkOwner l.loc)) ∧
        curHart t = { curHart s with run := .waitSync, wait := .fullEmpty })

/-- A word that is filled serves the access parked on it: a group's LDFE takes the value and leaves the word empty (04 R91). -/
def Sys2Proof.Claims.FillServesParkedLoad : Prop :=
  ∀ (rs1 rs2 : Reg) (imm : BitVec 12) (s : State) (l : Located) (p : Park), MayRun s [rs1, rs2] →
    ReachesAt s .store .fe (xs s rs1 + sx imm) 4 l → FeFree s l.loc → s.mem.parks = [p] → p.loc = l.loc → p.op = .ldfe →
    p.bounced = false → p.lane = none → p.agent ≠ s.cur → (hartAt s p.agent).tasklet = false → (hartAt s p.agent).run ≠ .stopped →
    ∃ t, exec (.stff rs1 rs2 imm) s = .next t ∧ t.mem.parks = [] ∧ isFull t.mem l.loc = false ∧
      WroteX (acquired true s (hartAt s p.agent)) (hartAt t p.agent) p.rd (signed 4 ((xs s rs2).toNat % 2 ^ 32))
        ((hartAt s p.agent).pc + 4)

/-- FECLR empties every word of its range and changes no data; a length of 0 has no effect; a misaligned range raises a store access
fault (07 R169). -/
def Sys2Proof.Claims.FeclrEmptiesItsRange : Prop :=
  ∀ (rs1 rs2 : Reg) (s : State), MayRun s [rs1, rs2] →
    let len := (xs s rs2).toNat
    (len = 0 → Completes (.feclr rs1 rs2) s s (curHart s)) ∧
    (len ≠ 0 → ((xs s rs1).toNat % 4 ≠ 0 ∨ len % 4 ≠ 0) →
      exec (.feclr rs1 rs2) s = .next (trapCur s { cause := 7, tval := xs s rs1, gva := (curHart s).virt })) ∧
    (∀ l, len ≠ 0 → len % 4 = 0 → AnswersAt s .store .fe (xs s rs1) 4 l → feRangeOk l.loc len = true → Quiet s →
      heldWrite s s.cur l.loc len = false → s.mem.parks = [] →
      ∃ t, exec (.feclr rs1 rs2) s = .next t ∧ Elsewhere s t ∧ SameBytes s t ∧ RetiredAs (curHart t) (curHart s) ∧
        (∀ i < len / 4, isFull t.mem (l.loc.add (4 * i)) = false) ∧
        ∀ l', (∀ i < len / 4, sameWord l' (l.loc.add (4 * i)) = false) → isFull t.mem l' = isFull s.mem l')

/-- LDFE, LDFF, STEF, STFF and FECLR: completing, parking, and being served (04 R89, R91; 07 R166, R169). -/
def Obligations.FullEmptyAccessesFollowTheirWord : Prop :=
  FullEmptyAccessesComplete ∧ FullEmptyAccessesPark ∧ FillServesParkedLoad ∧ FeclrEmptiesItsRange

/-- LRW on a free dword is granted at once; behind another holder it waits in the queue (07 R170, R172). -/
def Sys2Proof.Claims.LrwReservesInOrder : Prop :=
  ∀ e ∈ lrwTable, ∀ (rd rs1 : Reg) (s : State) (l : Located) (a : Nat), MayRun s [rd, rs1] →
    ReachesAt s .load .lrw (xs s rs1) e.2 l → l.loc = .mem a → Quiet s → heldRead s l.loc e.2 = false →
    ((∀ q ∈ s.mem.resvs, q.dword ≠ a / 8) → s.mem.resvs.length < 32 → Routed s l.loc →
      ∃ t, exec (e.1 rd rs1) s = .next t ∧ Elsewhere s t ∧ SameBytes s t ∧ holdsResv t.mem s.cur a e.2 = true ∧
        WroteX (acquired true s (curHart s)) (curHart t) rd (signed e.2 (homeValue s l.loc e.2)) (pcOf s + 4)) ∧
    (∀ q r, s.mem.resvs = [q] → q.dword = a / 8 → q.holder = some r → r.agent ≠ s.cur → q.waiters.length < 32 →
      (∀ w ∈ q.waiters, w.agent ≠ s.cur) →
      ∃ t w, exec (e.1 rd rs1) s = .next t ∧ Elsewhere s t ∧ SameBytes s t ∧
        t.mem.resvs = [{ q with waiters := q.waiters ++ [w] }] ∧ w.agent = s.cur ∧ w.addr = a ∧ w.width = e.2 ∧ w.rd = rd ∧
        curHart t = { curHart s with run := .waitSync, wait := .lrw })

/-- SCH writes only while its agent holds the unbroken reservation of exactly this span, answers whether it did, and gives the
reservation up: the agent holds no queue of the dword any more, and a queue with waiters stands without a holder for the first of them,
which LRW_GRANT serves (07 R171, R172). -/
def Sys2Proof.Claims.SchNeedsItsReservation : Prop :=
  ∀ e ∈ schTable, ∀ (rd rs1 rs2 : Reg) (s : State) (l : Located) (a : Nat), MayRun s [rd, rs1, rs2] →
    AnswersAt s .store .lrw (xs s rs1) e.2 l → l.loc = .mem a → Quiet s →
    (holdsResv s.mem s.cur a e.2 = true → Writable s s.cur l.loc e.2 →
      ∃ t, exec (e.1 rd rs1 rs2) s = .next t ∧ Elsewhere s t ∧ WroteBytes s t l.loc e.2 ((xs s rs2).toNat % 2 ^ (8 * e.2)) ∧
        RetiredAs (curHart t) (schHart (curHart s) rd true) ∧
        (∀ q ∈ t.mem.resvs, q.dword = a / 8 → ∀ r, q.holder = some r → r.agent ≠ s.cur) ∧
        ∀ q, s.mem.resvs = [q] →
          (q.waiters = [] → t.mem.resvs = []) ∧ (q.waiters ≠ [] → t.mem.resvs = [{ q with holder := none }])) ∧
    (holdsResv s.mem s.cur a e.2 = false →
      ∃ t, exec (e.1 rd rs1 rs2) s = .next t ∧ Elsewhere s t ∧ SameBytes s t ∧
        RetiredAs (curHart t) (schHart (curHart s) rd false) ∧
        ∀ q ∈ t.mem.resvs, q.dword = a / 8 → ∀ r, q.holder = some r → r.agent ≠ s.cur)

/-- LRW reserves in order and SCH stores only under its reservation (07 R170–R172). -/
def Obligations.OrderedReservationsGuardStores : Prop :=
  LrwReservesInOrder ∧ SchNeedsItsReservation

/-- FENCE.S completes at once where no write is on its way and no accumulator store has failed; its acquire marks every line held
before as old (07 R173; 14 R323). -/
def Sys2Proof.Claims.ScopedFenceCompletes : Prop :=
  ∀ (kind : BitVec 2) (scope : BitVec 3) (s : State), (Instr.fenceS kind scope).wellFormed = true → Quiet s →
    (curHart s).accFails = [] →
    Completes (.fenceS kind scope) s s (acquired (kind.getLsbD 0) s (curHart s))

/-- Fences, PAUSE, translation fences, FENCE.S, ECALL, EBREAK and WFI (04 R97, R105; 07 R173; 12 R279; 14 R317). The standard fences,
calls and WFI follow the privileged architecture as the model presumes it, and EBREAK's trap value is free (notes/assumptions/4, 18, 24,
33). -/
def Obligations.SystemInstructionsComplete : Prop :=
  FencesComplete ∧ ScopedFenceCompletes ∧ CallsTakeTheirTrap ∧ WfiWaitsForInterrupt

/-- BAR.INIT and BAR.ARRIVE, with their faults; the arrival that completes a phase releases every waiter on it (07 R175, R176). -/
def Obligations.WorkgroupBarrierArrives : Prop :=
  (∀ (n rs1 : Reg) (s : State), IsGroup s → (Instr.barInit n rs1).wellFormed = true → n.toNat < (wgAt s (curHart s).wg).nbars →
    let e := (xs s rs1).toNat; let b := barAt s n.toNat
    (1 ≤ e ∧ e ≤ 16 → b.arrived = 0 → b.copies = 0 →
      Completes (.barInit n rs1) s (withBar s n.toNat { b with expected := e }) (curHart s)) ∧
    (e = 0 ∨ 16 < e ∨ b.arrived ≠ 0 ∨ b.copies ≠ 0 → exec (.barInit n rs1) s = .next (trapCur s (barTrap n.toNat)))) ∧
  (∀ (rd n : Reg) (s : State), IsGroup s → (Instr.barArrive rd n).wellFormed = true → n.toNat < (wgAt s (curHart s).wg).nbars →
    let b := barAt s n.toNat
    (b.arrived ≠ b.expected → Quiet s → ((wgAt s (curHart s).wg).members.map Prod.snd).Nodup →
      ¬ WaitsOnBar s n.toNat b.phase s.cur →
      ∃ t, exec (.barArrive rd n) s = .next t ∧ t = { withBar s n.toNat (arrival b) with harts := t.harts } ∧
        WroteX (curHart s) (curHart t) rd (flag b.phase) (pcOf s + 4) ∧
        Releases s t (fun k => (arrival b).phase ≠ b.phase ∧ WaitsOnBar s n.toNat b.phase k)) ∧
    (b.arrived = b.expected → exec (.barArrive rd n) s = .next (trapCur s (barTrap n.toNat)))) ∧
  (∀ (rd n rs1 : Reg) (s : State), IsGroup s → (Instr.barInit n rs1).wellFormed = true → (wgAt s (curHart s).wg).nbars ≤ n.toNat →
    ∀ i ∈ [Instr.barInit n rs1, .barArrive rd n, .barWait n rs1, .barQuery rd n],
      exec i s = .next (trapCur s (barTrap n.toNat)))

/-- BAR.WAIT retires where the phase bit differs from bit 0 of x[rs1] and waits where it does not (07 R176). -/
def Sys2Proof.Claims.BarrierWaitsForItsPhase : Prop :=
  (∀ (n rs1 : Reg) (s : State), IsGroup s → (Instr.barWait n rs1).wellFormed = true →
    n.toNat < (wgAt s (curHart s).wg).nbars → Quiet s →
    (bitAt (xs s rs1) 0 ≠ (barAt s n.toNat).phase → Completes (.barWait n rs1) s s (acquired true s (curHart s))) ∧
    (bitAt (xs s rs1) 0 = (barAt s n.toNat).phase → ∃ t, exec (.barWait n rs1) s = .next t ∧ OnlyCur s t ∧
      curHart t = { curHart s with run := .waitSync, wait := .bar n.toNat (barAt s n.toNat).phase })) ∧
  (∀ (n rs1 : Reg) (s : State), IsGroup s → (Instr.gbarWait n rs1).wellFormed = true →
    n.toNat < (launchAt s (curHart s).lkey).gbarn → Quiet s →
    (bitAt (xs s rs1) 0 ≠ (gbarAt s n.toNat).phase → Completes (.gbarWait n rs1) s s (acquired true s (curHart s))) ∧
    (bitAt (xs s rs1) 0 = (gbarAt s n.toNat).phase → ∃ t, exec (.gbarWait n rs1) s = .next t ∧ OnlyCur s t ∧
      curHart t = { curHart s with run := .waitSync, wait := .gbar n.toNat (gbarAt s n.toNat).phase }))

/-- BAR.QUERY returns the barrier's fields in their places, and a workgroup's barriers start with its size expected and every other
field 0 (07 R177). -/
def Obligations.BarQueryReportsBarrier : Prop :=
  (∀ (rd n : Reg) (s : State), IsGroup s → (Instr.barQuery rd n).wellFormed = true → n.toNat < (wgAt s (curHart s).wg).nbars →
    let b := barAt s n.toNat
    b.expected ≤ 16 → b.arrived ≤ 16 → b.copies ≤ 63 →
    ∃ v : DWord, Retires (.barQuery rd n) s s rd v (pcOf s + 4) ∧ bitsOf v 16 5 = b.expected ∧ bitsOf v 8 6 = b.copies ∧
      bitsOf v 1 5 = b.arrived ∧ bitAt v 0 = b.phase ∧ bitsOf v 6 2 = 0 ∧ bitsOf v 14 2 = 0 ∧ bitsOf v 21 43 = 0) ∧
  (∀ (s : State) (tile b first : Nat) (e : EaselEntry) (n : Nat),
    let w := wgAt (admitWg s tile b first e) s.nextWg
    n < w.nbars → tget {} w.bars n = { expected := w.size, arrived := 0, copies := 0, phase := false })

/-- GBAR.ARRIVE records the group, and its workgroup arrives with the last of its groups; the arrival that completes a phase
releases every waiter of the launch; a second arrival in a phase faults (07 R176). -/
def Sys2Proof.Claims.WireBarrierArrives : Prop :=
  ∀ (rd n : Reg) (s : State), IsGroup s → (Instr.gbarArrive rd n).wellFormed = true →
    n.toNat < (launchAt s (curHart s).lkey).gbarn → Quiet s →
    let h := curHart s; let b := gbarAt s n.toNat
    (tfind b.groups (h.wg * 16 + h.rank) = none → (s.harts.map Prod.fst).Nodup → ¬ WaitsOnGbar s n.toNat b.phase s.cur →
      ∃ t, exec (.gbarArrive rd n) s = .next t ∧ WroteX h (curHart t) rd (flag b.phase) (pcOf s + 4) ∧
        t = { s with harts := t.harts, launches := t.launches } ∧
        Releases s t (fun k => (gbarAt t n.toNat).phase ≠ b.phase ∧ WaitsOnGbar s n.toNat b.phase k) ∧
        let mine := ((tput b.groups (h.wg * 16 + h.rank) 1).filter (fun e => e.1 / 16 == h.wg)).length
        let c := gbarAt t n.toNat
        (mine ≠ (wgAt s h.wg).size → b.arrived ≠ b.expected → c.arrived = b.arrived ∧ c.phase = b.phase) ∧
        (mine = (wgAt s h.wg).size → b.arrived + 1 ≠ b.expected → c.arrived = b.arrived + 1 ∧ c.phase = b.phase) ∧
        (mine = (wgAt s h.wg).size → b.arrived + 1 = b.expected → b.copies = 0 → c.arrived = 0 ∧ c.phase = !b.phase)) ∧
    ((tfind b.groups (h.wg * 16 + h.rank)).isSome → exec (.gbarArrive rd n) s = .next (trapCur s (barTrap (n.toNat + 16))))

/-- BAR.WAIT, GBAR.ARRIVE and GBAR.WAIT (07 R176). -/
def Obligations.BarriersCountAndWait : Prop :=
  BarrierWaitsForItsPhase ∧ WireBarrierArrives

namespace Sys2Proof.Claims
open Sys2Proof.Machine

section Work
/-- The launch of the current group. -/
def myLaunch (s : State) : Launch := launchAt s (curHart s).lkey
/-- A group of a launch, not a boot group. -/
def InLaunch (s : State) : Prop := IsGroup s ∧ (curHart s).lkey ≠ 0
/-- The descriptor that a FORK pushes. -/
def forkEntry (s : State) (k : Nat) (arg jw : DWord) : EaselEntry :=
  { lkey := (curHart s).lkey, kidx := k, arg := arg, joinWord := jw, wgid := (myLaunch s).wgidCtr }
/-- A tile's easel has room for one more entry beside those reserved for launches being placed, without spilling. -/
def EaselRoom (s : State) : Prop :=
  reservedOn s (curHart s).tile < freeEntries s (myLaunch s).pid (curHart s).tile ∧ (easelAt s (curHart s).tile).resident.length < 32
/-- The mode in which a LAUNCH is legal: a guest's, or user mode. -/
def MayLaunch (s : State) : Prop :=
  IsGroup s ∧ ((curHart s).priv = .u ∨ ((curHart s).priv = .s ∧ (curHart s).virt = true))
/-- A tasklet just created for an address at its home, with its pc, its argument and the group's x11 to x14 (01 R33). -/
def IsNewTasklet (s : State) (k : Hart) (pc arg : DWord) (reply : Option DWord) (home : Nat) : Prop :=
  k.tasklet = true ∧ k.pc = pc ∧ k.reply = reply ∧ k.place = .flight home ∧ k.tile = home ∧ k.lkey = (curHart s).lkey ∧ k.priv = .u ∧
  k.pid = (myLaunch s).pid ∧
  k.getX 1 = arg ∧ k.getX 2 = xs s 11 ∧ k.getX 3 = xs s 12 ∧ k.getX 4 = xs s 13 ∧ k.getX 5 = xs s 14 ∧
  (∀ q : Reg, 6 ≤ q.toNat → k.getX q = 0) ∧ k.creatorTile = (curHart s).tile ∧ k.creatorSlot = (curHart s).slot
/-- The group has sent a tasklet and retired; one more tasklet of its launch is alive. -/
def Sends (i : Instr) (s : State) (pc arg : DWord) (reply : Option DWord) (home : Nat) : Prop :=
  ∃ t, exec i s = .next t ∧ IsNewTasklet s (hartAt t s.nextTask) pc arg reply home ∧ t.nextTask = s.nextTask + 1 ∧
    RetiredAs (curHart t) (curHart s) ∧ SameBytes s t ∧ (myLaunch t).liveTasks = (myLaunch s).liveTasks + 1
/-- Nothing is traced. -/
def NoTrace (s : State) : Prop := s.kiwiow = []
end Work

section Engines
/-- The queued form of a copy: its number, and the instruction (07 R182). -/
noncomputable def cpyForms : List (Nat × (Reg → Reg → Reg → Reg → Instr)) :=
  [(0, .cpy), (1, .cpyRs), (2, fun bar rs1 _ rs3 => .cpyPf bar rs1 rs3)]
/-- The destination register of a form; CPY.PF has none. -/
def cpyDst (form : Nat) (rs2 : Reg) : Reg := if form = 2 then 0 else rs2
/-- The entry a copy takes in its cluster's queue. -/
def copyEntry (s : State) (form : Nat) (bar rs1 rs2 rs3 : Reg) : Copy :=
  { form := form, src := xs s rs1, dst := xs s (cpyDst form rs2), shape := xs s rs3, stride := (curHart s).getC 0x807,
    wg := (curHart s).wg, bar := bar.toNat, hart := s.cur, tile := (curHart s).tile, lkey := (curHart s).lkey,
    pid := (wgAt s (curHart s).wg).pid, weight := (curHart s).sweight, seq := s.seqNo }
/-- The shape and the addresses of a copy are legal (07 R181, R182 checks 1 and 2). -/
def CopyLegal (s : State) (form : Nat) (rs1 rs2 rs3 : Reg) : Prop :=
  shapeOk form (xs s rs3) = true ∧
    copyAligned form (xs s rs1) (xs s (cpyDst form rs2)) (xs s rs3) ((curHart s).getC 0x807) = true
/-- The queue of the group's cluster has a free entry for this core (13 R305). -/
def QueueRoom (s : State) (i : Nat) : Prop :=
  freeEntry s (clusterOf (curHart s).tile) = some i ∧
    ((clusterCopies s (clusterOf (curHart s).tile)).filter (fun e => e.2.tile == (curHart s).tile)).length < 40
/-- A line of main memory that a row of a copy writes, by the addresses that hold as it issues. -/
def Targets (s : State) (c : Copy) (line : Nat) : Prop :=
  ∃ r < shRows c.shape, ∃ p ∈ copyPieces (rowDst c r) (rowLen s { c with pals := s.pal } r), ∃ l a,
    locate s (copyCtx s c) c.lkey false .store .copy (BitVec.ofNat 64 p.1) 4 = .ok l ∧ l.loc = .mem a ∧
    a / 64 ≤ line ∧ line ≤ (a + p.2.1 - 1) / 64
/-- Exactly the issuing core's cached copies of the lines that a copy writes are gone, and nothing else of memory has changed (14 R327). -/
def DropsTarget (s t : State) (c : Copy) : Prop :=
  t.mem = { s.mem with copies := t.mem.copies } ∧
  ∀ d, d ∈ t.mem.copies ↔ d ∈ s.mem.copies ∧ ¬ (d.holder / 16 = c.tile ∧ Targets s c d.line)
/-- A group after an accumulator name changed: its state, and the elements of that tile alone. -/
def WroteAcc (h h' : Hart) (n st : Nat) (e : Nat → Nat → Word) : Prop :=
  (∀ q, accSt h' q = if q = n then st else accSt h q) ∧
  (∀ q i l, i < 8 → l < 128 → getAcc h' q i l = if q = n then e i l else getAcc h q i l) ∧
  h' = { h with accState := h'.accState, acc := h'.acc, pc := h.pc + 4, instret := h.instret + 1, run := .ready, wait := .nothing,
                bounces := 0, indiv := false }
/-- No failed accumulator store names a tile, and no put of it is unfinished. -/
def AccIdle (s : State) (n : Nat) : Prop := (∀ f ∈ (curHart s).accFails, f.name ≠ n) ∧ accSt (curHart s) n ≠ 2
end Engines

end Sys2Proof.Claims

/-- LAUNCH reads its descriptor and joins its partition's sequencer, and the group is in WAIT_DEP while it waits there; elsewhere than in
a guest or user mode it is illegal, and a misaligned descriptor traps (06 R152; 13 R294). -/
def Sys2Proof.Claims.LaunchJoinsSequencer : Prop :=
  ∀ (rd rs1 : Reg) (s : State),
    (MayLaunch s → (xs s rs1).toNat % 64 = 0 → ∀ s' ds, readDwords s.cur 16 s (xs s rs1) = .ok (s', some ds) →
      ∃ t, exec (.launch rd rs1) s = .next t ∧
        (partAt t (curHart s).actsFor).seqQ = (partAt s' (curHart s).actsFor).seqQ ++ [{ hart := s.cur, desc := xs s rs1, rd := rd }] ∧
        t = { s' with parts := t.parts, harts := t.harts } ∧ (∀ k, k ≠ s'.cur → hartAt t k = hartAt s' k) ∧
        curHart t = { curHart s' with run := .waitDep, wait := .launch rd }) ∧
    (IsGroup s → ¬ MayLaunch s → exec (.launch rd rs1) s = .next (trapCur s (illegal (insnBits (.launch rd rs1))))) ∧
    (MayLaunch s → (xs s rs1).toNat % 64 ≠ 0 →
      exec (.launch rd rs1) s = .next (trapCur s { cause := 4, tval := xs s rs1, gva := (curHart s).virt }))

/-- FORK: the statuses for a kernel or an identifier that does not exist and for a full easel, and the push with its join increment
(06 R156, R157). -/
def Sys2Proof.Claims.ForkPushesWork : Prop :=
  ∀ (rd rs1 rs2 : Reg) (k : BitVec 7) (s : State), InLaunch s →
    let l := myLaunch s; let i := Instr.fork rd rs1 rs2 k
    (l.kernels.length ≤ k.toNat → Retires i s s rd 16 (pcOf s + 4)) ∧
    (k.toNat < l.kernels.length → l.wgidCtr = 0xFFFFFFFF → Retires i s s rd 17 (pcOf s + 4)) ∧
    (k.toNat < l.kernels.length → l.wgidCtr ≠ 0xFFFFFFFF → Quiet s → EaselRoom s →
      (xs s rs2 = 0 ∨ ∃ j, AnswersAt s .store .join (xs s rs2) 8 j ∧ HoldsBytes j.loc ∧ Writable s s.cur j.loc 8) →
      ∃ t, exec i s = .next t ∧ WroteX (curHart s) (curHart t) rd (BitVec.ofNat 64 (l.wgidCtr * 2 ^ 32)) (pcOf s + 4) ∧
        (easelAt t (curHart s).tile).resident = forkEntry s k.toNat (xs s rs1) (xs s rs2) :: (easelAt s (curHart s).tile).resident ∧
        (myLaunch t).wgidCtr = l.wgidCtr + 1 ∧ (myLaunch t).liveWgs = l.liveWgs + 1 ∧
        (xs s rs2 = 0 → SameBytes s t) ∧
        (∀ j, xs s rs2 ≠ 0 → ReachesAt s .store .join (xs s rs2) 8 j → HoldsBytes j.loc →
          WroteBytes s t j.loc 8 ((homeValue s j.loc 8 + 1) % 2 ^ 64))) ∧
    (k.toNat < l.kernels.length → l.wgidCtr ≠ 0xFFFFFFFF → Quiet s → xs s rs2 = 0 →
      freeEntries s l.pid (curHart s).tile ≤ reservedOn s (curHart s).tile →
      ∃ t, exec i s = .next t ∧ WroteX (curHart s) (curHart t) rd 18 (pcOf s + 4) ∧ SameBytes s t ∧
        (myLaunch t).liveWgs = l.liveWgs)

/-- JOIN retires as an acquire when the word reads 0, and otherwise waits (06 R158). -/
def Sys2Proof.Claims.JoinWaitsForZero : Prop :=
  ∀ (imm : BitVec 12) (rs1 : Reg) (s : State) (l : Located), IsGroup s → AnswersAt s .load .join (xs s rs1 + sx imm) 8 l → Quiet s →
    heldRead s l.loc 8 = false →
    (homeValue s l.loc 8 = 0 → ∃ t, exec (.join imm rs1) s = .next t ∧ CachesOnly s t ∧
      RetiredAs (curHart t) (acquired true s (curHart s))) ∧
    (homeValue s l.loc 8 ≠ 0 → ∃ t, exec (.join imm rs1) s = .next t ∧ CachesOnly s t ∧
      curHart t = { curHart s with run := .waitSync, wait := .join (xs s rs1 + sx imm) })

/-- SPAWNAT and CALLAT send one tasklet to the home of an address, where that home has room; CALLAT names a reply word of its own window
(06 R162; 01 R33). -/
def Sys2Proof.Claims.TaskletsAreSent : Prop :=
  ∀ (rs1 rs2 rs3 : Reg) (s s' : State) (pa : Nat), InLaunch s → Quiet s → s.nextTask ≠ s.cur →
    taskletTarget s (curHart s) (xs s rs1) = .ok (s', pa) → Routed s (.mem pa) → homeRoom s (homeOf pa) (myLaunch s).pid = true →
    Sends (.spawnat rs1 rs2) s (xs s rs2) (xs s rs1) none (homeOf pa) ∧
    (replyCheck s (curHart s) (xs s rs3) = none →
      Sends (.callat rs1 rs2 rs3) s (xs s rs2) (xs s rs1) (some (xs s rs3)) (homeOf pa)) ∧
    (∀ t, replyCheck s (curHart s) (xs s rs3) = some t → ∃ w, exec (.callat rs1 rs2 rs3) s = .next (trapCur w t) ∧ CachesOnly s w)

/-- REPLY writes the reply word, sets it full and ends the tasklet; TEXIT ends it without a reply; in a group both are illegal, and REPLY
in a tasklet without a reply word is LANE_ILLEGAL (06 R163, R164). -/
def Sys2Proof.Claims.TaskletsEnd : Prop :=
  (∀ (rs1 : Reg) (s : State) (rw : DWord) (o : Nat), (curHart s).tasklet = true → MayRun s [rs1] → Quiet s → NoTrace s →
    (curHart s).reply = some rw → windowOff s (curHart s).lkey rw.toNat = some o → windowOk s (curHart s).lkey o 4 = true →
    heldWrite s s.cur (.win o) 4 = false → NoneParked s (.win o) →
    ∃ t, exec (.reply rs1) s = .next t ∧ tfind t.harts s.cur = none ∧ (∀ k, k ≠ s.cur → hartAt t k = hartAt s k) ∧
      WroteBytes s t (.win o) 4 ((xs s rs1).toNat % 2 ^ 32) ∧ SetsFull s t (.win o) true ∧
      (launchAt t (curHart s).lkey).liveTasks = (myLaunch s).liveTasks - 1) ∧
  (∀ s : State, (curHart s).tasklet = true → NoTrace s →
    ∃ t, exec .texit s = .next t ∧ tfind t.harts s.cur = none ∧ (∀ k, k ≠ s.cur → hartAt t k = hartAt s k) ∧ SameBytes s t ∧
      t.mem.net = s.mem.net ∧ (launchAt t (curHart s).lkey).liveTasks = (myLaunch s).liveTasks - 1) ∧
  (∀ (rs1 : Reg) (s : State), IsGroup s → exec (.reply rs1) s = .next (trapCur s (illegal (insnBits (.reply rs1)))) ∧
    exec .texit s = .next (trapCur s (illegal (insnBits .texit)))) ∧
  (∀ (rs1 : Reg) (s : State), (curHart s).tasklet = true → MayRun s [rs1] → (curHart s).reply = none →
    exec (.reply rs1) s = .next (trapCur s (laneIllegal (insnBits (.reply rs1)))))

/-- EXIT and exit park stop their group and let it drain; exit park is illegal in user mode; YIELD ranks its group last for 16 clk (06
R159–R161). -/
def Sys2Proof.Claims.GroupsEndAndYield : Prop :=
  (∀ s : State, IsGroup s → ∃ t, exec .exit s = .next t ∧ OnlyCur s t ∧
    curHart t = { landAll (curHart s) with run := .waitSync, wait := .exit false }) ∧
  (∀ s : State, IsGroup s → (curHart s).priv ≠ .u → ∃ t, exec .exitPark s = .next t ∧ OnlyCur s t ∧
    curHart t = { landAll (curHart s) with run := .waitSync, wait := .exit true }) ∧
  (∀ s : State, IsGroup s → (curHart s).priv = .u → exec .exitPark s = .next (trapCur s (illegal (insnBits .exitPark)))) ∧
  (∀ s : State, IsGroup s → ∃ l, s.cur ∉ l ∧ Completes .yield s s { curHart s with yieldTo := some (s.clk + 16), yieldFor := l })

/-- LAUNCH, FORK, JOIN, EXIT and YIELD (06 R152, R156–R161). -/
def Obligations.GroupsStartJoinAndEndWork : Prop :=
  LaunchJoinsSequencer ∧ ForkPushesWork ∧ JoinWaitsForZero ∧ GroupsEndAndYield

/-- The three copy forms join their cluster's queue, attach to their barrier and wait for ownership, and the two that write drop their
core's cached copies of what they will write; nothing else of the package changes; at a full queue, or with forty copies of the core in
it, they wait; an illegal shape, a wrong region and a missing barrier trap in that order (07 R181, R182; 13 R305; 14 R327). -/
def Obligations.CopiesAreQueued : Prop :=
  ∀ e ∈ cpyForms, ∀ (bar rs1 rs2 rs3 : Reg) (s : State), IsGroup s → (e.2 bar rs1 rs2 rs3).wellFormed = true →
    let i := e.2 bar rs1 rs2 rs3
    let region := if e.1 = 2 then none else copyRegion s (curHart s) e.1 (xs s rs1) (xs s rs2) (xs s rs3)
    (¬ CopyLegal s e.1 rs1 rs2 rs3 → exec i s = .next (trapCur s (illegal (xs s rs3)))) ∧
    (∀ t, CopyLegal s e.1 rs1 rs2 rs3 → region = some t → exec i s = .next (trapCur s t)) ∧
    (CopyLegal s e.1 rs1 rs2 rs3 → region = none → (wgAt s (curHart s).wg).nbars ≤ bar.toNat →
      exec i s = .next (trapCur s (barTrap bar.toNat))) ∧
    (∀ j, CopyLegal s e.1 rs1 rs2 rs3 → region = none → bar.toNat < (wgAt s (curHart s).wg).nbars → QueueRoom s j → Quiet s →
      let k := clusterOf (curHart s).tile * 64 + j
      ∃ t, exec i s = .next t ∧ curHart t = { curHart s with run := .waitDep, wait := .copyOwn k } ∧
        (∀ g, g ≠ s.cur → hartAt t g = hartAt s g) ∧
        t = { withBar s bar.toNat { barAt s bar.toNat with copies := (barAt s bar.toNat).copies + 1 } with
              copies := tput s.copies k (copyEntry s e.1 bar rs1 rs2 rs3), harts := t.harts, seqNo := s.seqNo + 1, mem := t.mem } ∧
        (e.1 = 2 → t.mem = s.mem) ∧ (e.1 ≠ 2 → DropsTarget s t (copyEntry s e.1 bar rs1 rs2 rs3))) ∧
    (CopyLegal s e.1 rs1 rs2 rs3 → region = none → bar.toNat < (wgAt s (curHart s).wg).nbars → (∀ j, ¬ QueueRoom s j) →
      ∃ t, exec i s = .next t ∧ OnlyCur s t ∧ curHart t = { curHart s with run := .waitDep, wait := .copyQueue })

/-- MLD fills a weight slot from the scratchpad where its checks pass and no copy owns what it reads; otherwise the first failing check
traps (07 R187). -/
def Sys2Proof.Claims.WeightLoadFillsSlot : Prop :=
  ∀ (slot : Reg) (imm : BitVec 12) (rs1 : Reg) (s : State), IsGroup s → (Instr.mld slot imm rs1).wellFormed = true →
    let o := xs s rs1 + sx imm; let w := wgAt s (curHart s).wg
    let key := wslotKey (curHart s).tile (subcoreOf (curHart s).slot) slot.toNat
    (∀ t, mldCheck s (curHart s) w slot.toNat o = some t → exec (.mld slot imm rs1) s = .next (trapCur s t)) ∧
    (mldCheck s (curHart s) w slot.toNat o = none → Quiet s → s.copies = [] → s.mem.inits = [] →
      (∀ b ∈ mldSpans (palAt s (curHart s).tile (ownBank w o.toNat)) w o.toNat, Routed s b.1) →
      ∃ t, exec (.mld slot imm rs1) s = .next t ∧ wslotAt t key = mldSlot s (curHart s) w o.toNat ∧
        (∀ k, k ≠ key → wslotAt t k = wslotAt s k) ∧ RetiredAs (curHart t) (curHart s) ∧
        t = { s with wslots := t.wslots, harts := t.harts, counters := t.counters })

/-- ACC.GET, ACC.PUT and ACC.ZERO: what they make of a tile name, and ACC_FAULT where the quota is fully bound; ACC.QUERY reports (07
R188; 02 R50). -/
def Sys2Proof.Claims.TileNamesBindAndClear : Prop :=
  (∀ (t : Reg) (s : State), IsGroup s → (Instr.accGet t).wellFormed = true → AccIdle s t.toNat →
    let h := curHart s; let n := t.toNat
    (accSt h n ≠ 0 → (∃ u, exec (.accGet t) s = .next u ∧ OnlyCur s u ∧ WroteAcc h (curHart u) n (accSt h n) (getAcc h n)) ∧
      ∃ u, exec (.accZero t) s = .next u ∧ OnlyCur s u ∧ WroteAcc h (curHart u) n (accSt h n) (fun _ _ => 0)) ∧
    (accSt h n = 0 → boundNames h < h.accQuota →
      (∃ u, exec (.accGet t) s = .next u ∧ OnlyCur s u ∧ WroteAcc h (curHart u) n 1 (fun _ _ => 0)) ∧
      ∃ u, exec (.accZero t) s = .next u ∧ OnlyCur s u ∧ WroteAcc h (curHart u) n 1 (fun _ _ => 0)) ∧
    (accSt h n = 0 → h.accQuota ≤ boundNames h →
      exec (.accGet t) s = .next (trapCur s { cause := 48, tval := BitVec.ofNat 64 n, detail := some n }) ∧
      exec (.accZero t) s = .next (trapCur s { cause := 48, tval := BitVec.ofNat 64 n, detail := some n })) ∧
    (∃ u, exec (.accPut t) s = .next u ∧ OnlyCur s u ∧ WroteAcc h (curHart u) n 0 (fun _ _ => 0))) ∧
  (∀ (rd : Reg) (s : State), IsGroup s → (∀ n, accSt (curHart s) n ≤ 2) → (curHart s).accQuota ≤ 16 →
    ∃ v : DWord, Retires (.accQuery rd) s s rd v (pcOf s + 4) ∧ bitsOf v 32 8 = (curHart s).accQuota ∧
      bitsOf v 40 8 = tilePool s (curHart s) ∧ ∀ n < 16, bitsOf v (2 * n) 2 = accSt (curHart s) n)

/-- LBIND binds limbs that leave every segment of EM whole, and otherwise traps LIMB_DIVERGE; MARK only traces (07 R189, R190). -/
def Sys2Proof.Claims.LimbsBindAndMarks : Prop :=
  (∀ (n : BitVec 12) (s : State), IsGroup s → (Instr.lbind n).wellFormed = true →
    (Whole n.toNat (curHart s).em → Completes (.lbind n) s s { curHart s with limbs := n.toNat }) ∧
    (∀ j, n ≠ 0 → j < 128 / n.toNat → Mixed n.toNat (curHart s).em j → (∀ k < j, ¬ Mixed n.toNat (curHart s).em k) →
      exec (.lbind n) s = .next (trapCur s { cause := 27, tval := BitVec.ofNat 64 j, detail := some 0 }))) ∧
  (∀ (n : BitVec 12) (s : State), Completes (.mark n) s (traceEvent s s.cur (.mark n.toNat)) (curHart s))

/-- MLD, the accumulator tile names, LBIND and MARK (07 R187–R190; 02 R50). -/
def Obligations.SlotsTilesAndLimbsAreBound : Prop :=
  WeightLoadFillsSlot ∧ TileNamesBindAndClear ∧ LimbsBindAndMarks

namespace Sys2Proof.Claims
open Sys2Proof.Machine

section Lanes
/-- The instruction at issue passes the checks of 05 R136, waits for no earlier result, and no load before it is speculative. -/
def LaneGo (s : State) (x : LaneOp) (p : Plan) : Prop :=
  (curHart s).spec = [] ∧ laneCheck (curHart s) x p = none ∧ writeHeld s.clk (curHart s) x p = false
/-- The group that the instruction sees: earlier results that it must see are written. -/
def seen (s : State) (x : LaneOp) (p : Plan) : Hart := laneReady s.clk (curHart s) x p
def seenState (s : State) (x : LaneOp) (p : Plan) : State := setCur s (seen s x p)
/-- Lane l is active in the instruction. -/
def active (s : State) (x : LaneOp) (p : Plan) (l : Nat) : Prop := l < 128 ∧ (laneActive (seen s x p) x).getLsbD l = true
/-- The operands of lane l at issue. -/
def opA (s : State) (x : LaneOp) (p : Plan) (l : Nat) : Word := opndA (seenState s x p) (seen s x p) x l
def opB (s : State) (x : LaneOp) (p : Plan) (l : Nat) : Word := opndB (seenState s x p) (seen s x p) x l
def opC (s : State) (x : LaneOp) (p : Plan) (l : Nat) : Word := opndC (seenState s x p) (seen s x p) x l
/-- 64-bit operands (08 R191). -/
def opA64 (s : State) (x : LaneOp) (p : Plan) (l : Nat) : DWord := opnd64A (seenState s x p) (seen s x p) x l
def opB64 (s : State) (x : LaneOp) (p : Plan) (l : Nat) : DWord := opnd64B (seenState s x p) (seen s x p) x l
def opC64 (s : State) (x : LaneOp) (p : Plan) (l : Nat) : DWord := opnd64C (seenState s x p) (seen s x p) x l
/-- The registers that a pending result writes are exactly these: in each active lane, word `w l k` in register VD + k for k < n. -/
def WritesLanes (s : State) (x : LaneOp) (p : Plan) (r : Pending) (n : Nat) (w : Nat → Nat → Word) : Prop :=
  r.mask = none ∧ r.x = none ∧
  ∀ q l v, (q, l, v) ∈ r.vs ↔ active s x p l ∧ ∃ k < n, q = opVd x + k ∧ v = w l k
/-- The instruction issues and, `lat` issue distances later, its result is a word of each active lane. -/
def GivesWords (i : Instr) (s : State) (x : LaneOp) (p : Plan) (lat n : Nat) (w : Nat → Nat → Word) : Prop :=
  ∃ r, exec i s = .next (laneIssued (seenState s x p) x (some r)) ∧ r.board = false ∧ r.latency = lat ∧ WritesLanes s x p r n w
/-- Each element of a word is the operation on the elements of the operands (08 R192). -/
def Elements (ty : Nat) (a b w : Word) (f : Nat → Nat → Nat) : Prop :=
  ∀ e < 32 / tyWidth ty, elBits (tyWidth ty) w e = f (elBits (tyWidth ty) a e) (elBits (tyWidth ty) b e) % 2 ^ tyWidth ty
/-- An exact integer brought into w bits: clamped to the type's range with SAT, wrapped without (03 R71). -/
def intoType (sat sg : Bool) (w : Nat) (r : Int) : Nat := if sat then clampTo sg w r else (r % 2 ^ w).toNat
/-- Integer element operations of one word a lane: the L form, the J form, opcode, plan, latency, the operation. -/
noncomputable def elementL : List ((LaneL → Instr) × Nat × (LaneOp → Plan) × Nat × (Int → Int → Int)) :=
  [(.iadd, 0x00, addPlan, 4, fun a b => a + b), (.isub, 0x01, addPlan, 4, fun a b => a - b), (.imul, 0x02, mulPlan, 6, fun a b => a * b),
   (.imin, 0x05, minPlan, 4, fun a b => min a b), (.imax, 0x06, minPlan, 4, fun a b => max a b)]
noncomputable def elementJ : List ((LaneJ → Instr) × Nat × (LaneOp → Plan) × Nat × (Int → Int → Int)) :=
  [(.iaddJ, 0x80, addPlan, 4, fun a b => a + b), (.isubJ, 0x81, addPlan, 4, fun a b => a - b), (.imulJ, 0x82, mulPlan, 6, fun a b => a * b),
   (.iminJ, 0x85, minPlan, 4, fun a b => min a b), (.imaxJ, 0x86, minPlan, 4, fun a b => max a b)]
/-- Shifts of an element of w bits by an amount below w (08 R198). -/
noncomputable def shiftL : List ((LaneL → Instr) × Nat × (Nat → Nat → Nat → Nat)) :=
  [(.shl, 0x08, fun _ a n => a * 2 ^ n), (.shr, 0x09, fun _ a n => a / 2 ^ n),
   (.sar, 0x0A, fun w a n => ((BitVec.ofNat w a).sshiftRight n).toNat)]
noncomputable def shiftJ : List ((LaneJ → Instr) × Nat × (Nat → Nat → Nat → Nat)) :=
  [(.shlJ, 0x88, fun _ a n => a * 2 ^ n), (.shrJ, 0x89, fun _ a n => a / 2 ^ n),
   (.sarJ, 0x8A, fun w a n => ((BitVec.ofNat w a).sshiftRight n).toNat)]
noncomputable def logicL : List ((LaneL → Instr) × Nat × (Word → Word → Word)) :=
  [(.laneAnd, 0x0B, fun a b => a &&& b), (.laneOr, 0x0C, fun a b => a ||| b), (.laneXor, 0x0D, fun a b => a ^^^ b)]
noncomputable def logicJ : List ((LaneJ → Instr) × Nat × (Word → Word → Word)) :=
  [(.laneAndJ, 0x8B, fun a b => a &&& b), (.laneOrJ, 0x8C, fun a b => a ||| b), (.laneXorJ, 0x8D, fun a b => a ^^^ b)]
/-- The words of an exact integer, low word first. -/
def wordOf (r : Int) (k : Nat) : Word := BitVec.ofInt 32 (r / 2 ^ (32 * k))
/-- An operand as a signed or unsigned integer by TY 0 or 1. -/
def asTy (x : LaneOp) (w : Word) : Int := if opTy x = 0 then w.toInt else w.toNat
/-- Counts and positions in a word. -/
def onesIn (a : Word) : Nat := ((List.range 32).filter (fun i => a.getLsbD i)).length
def IsHighBit (a : Word) (k : Nat) : Prop := a.getLsbD k = true ∧ ∀ j, k < j → a.getLsbD j = false
/-- Position and width of a bit field: bits 4:0 of b, and bits 5:0 of c cut at the top of the word (08 R198). -/
def posOf (b : Word) : Nat := b.toNat % 32
def widthOf (b c : Word) : Nat := min (c.toNat % 64) (32 - posOf b)
end Lanes

section Floats
/-- Float operations with two sources, by TY's format: the rounded result of the exact one with its flags (08 R200; 03 R67). -/
noncomputable def floatL : List ((LaneL → Instr) × Nat × (Fmt → Nat → Bool → Nat → Nat → Nat × Flags)) :=
  [(.fadd, 0x20, fAdd), (.fsub, 0x21, fSub), (.fmul, 0x22, fMul)]
noncomputable def floatJ : List ((LaneJ → Instr) × Nat × (Fmt → Nat → Bool → Nat → Nat → Nat × Flags)) :=
  [(.faddJ, 0xA0, fAdd), (.fsubJ, 0xA1, fSub), (.fmulJ, 0xA2, fMul)]
/-- Minimum and maximum of two floats (08 R200). -/
noncomputable def minMaxL : List ((LaneL → Instr) × Nat × Bool) := [(.fmin, 0x24, false), (.fmax, 0x25, true)]
noncomputable def minMaxJ : List ((LaneJ → Instr) × Nat × Bool) := [(.fminJ, 0xA4, false), (.fmaxJ, 0xA5, true)]
/-- The special functions (08 R201): value and flags of an exact operand. -/
noncomputable def specialL : List ((LaneL → Instr) × Nat × (Fv → Fv × Flags)) :=
  [(.frcp, 0x26, rcpFv), (.frsq, 0x27, rsqFv), (.fex2, 0x28, ex2Fv), (.flg2, 0x29, lg2Fv)]
/-- The elements of an element-wise result, and the flags of all of them. -/
def FloatElements (ty : Nat) (a b : Word) (f : Nat → Nat → Nat × Flags) (w : Word) : Prop :=
  ∀ e < 32 / tyWidth ty,
    elBits (tyWidth ty) w e = (f (elBits (tyWidth ty) a e) (elBits (tyWidth ty) b e)).1 % 2 ^ tyWidth ty
/-- The instruction issues, and its result carries exactly the flags that active lanes raise: bit b is NX, UF, OF, DZ, NV for b from 0
to 4. -/
def IssuesFlags (i : Instr) (s : State) (x : LaneOp) (p : Plan) (raises : Nat → Nat → Prop) : Prop :=
  ∃ r, exec i s = .next (laneIssued (seenState s x p) x (some r)) ∧ r.landed = false ∧
    ∀ b < 5, (r.flags.getLsbD b = true ↔ ∃ l, active s x p l ∧ raises l b)
/-- Some element of lane l raises flag b under an operation on the elements of both operands. -/
def ElementRaises (s : State) (x : LaneOp) (p : Plan) (f : Nat → Nat → Nat × Flags) (l b : Nat) : Prop :=
  ∃ e < 32 / tyWidth (opTy x),
    (f (elBits (tyWidth (opTy x)) (opA s x p l) e) (elBits (tyWidth (opTy x)) (opB s x p l) e)).2.getLsbD b = true
/-- The formats of lane floats. -/
def floatFormats : List Fmt := [fmtF32, fmtBF16, fmtF16, fmtE5M2, fmtE4M3]
/-- A zero and an infinity of a format. -/
def IsZero (f : Fmt) (a : Nat) : Prop := ∃ n e, fDecode f a = .fin n 0 e
def IsInf (f : Fmt) (a : Nat) (n : Bool) : Prop := fDecode f a = .inf n
end Floats

section Compares
/-- The condition of FN on an ordering (08 R205). -/
def fnHolds (fn : Nat) (lt eq : Prop) : Prop :=
  match fn with
  | 0 => eq
  | 1 => ¬ eq
  | 2 => lt
  | 3 => lt ∨ eq
  | 4 => ¬ (lt ∨ eq)
  | _ => ¬ lt
/-- The instruction issues with one mask as its result: the bits of active lanes are as `c` says. -/
def GivesMask (i : Instr) (s : State) (x : LaneOp) (p : Plan) (lat : Nat) (c : Nat → Prop) : Prop :=
  ∃ r bits, exec i s = .next (laneIssued (seenState s x p) x (some r)) ∧ r.board = false ∧ r.latency = lat ∧ r.vs = [] ∧ r.x = none ∧
    r.mask = some (opVd x % 16, laneActive (seen s x p) x, bits) ∧ ∀ l, active s x p l → (bits.getLsbD l = true ↔ c l)
end Compares

end Sys2Proof.Claims

/-- IADD, ISUB, IMUL, IMIN and IMAX on the elements of whole words and packed integers, wrapped or clamped, and the 64-bit forms of IADD,
ISUB and IMUL, in the L and J forms (08 R196, R197; 03 R71). -/
def Sys2Proof.Claims.ElementLanesCompute : Prop :=
  (∀ e ∈ elementL, ∀ (f : LaneL) (s : State), let x := lOp e.2.1 f; LaneGo s x (e.2.2.1 x) → opFn x = 0 →
    ∃ w : Nat → Word, GivesWords (e.1 f) s x (e.2.2.1 x) e.2.2.2.1 1 (fun l _ => w l) ∧
      ∀ l, Elements (opTy x) (opA s x (e.2.2.1 x) l) (opB s x (e.2.2.1 x) l) (w l) (fun a b =>
        intoType (opSat x) (tySigned (opTy x)) (tyWidth (opTy x))
          (e.2.2.2.2 (asInt (tySigned (opTy x)) (tyWidth (opTy x)) a) (asInt (tySigned (opTy x)) (tyWidth (opTy x)) b)))) ∧
  (∀ e ∈ elementJ, ∀ (f : LaneJ) (s : State), let x := jOp e.2.1 f; LaneGo s x (e.2.2.1 x) → opFn x = 0 →
    ∃ w : Nat → Word, GivesWords (e.1 f) s x (e.2.2.1 x) e.2.2.2.1 1 (fun l _ => w l) ∧
      ∀ l, Elements (opTy x) (opA s x (e.2.2.1 x) l) (opB s x (e.2.2.1 x) l) (w l) (fun a b =>
        intoType (opSat x) (tySigned (opTy x)) (tyWidth (opTy x))
          (e.2.2.2.2 (asInt (tySigned (opTy x)) (tyWidth (opTy x)) a) (asInt (tySigned (opTy x)) (tyWidth (opTy x)) b)))) ∧
  (∀ (f : LaneL) (s : State), let x := lOp 0x00 f; LaneGo s x (addPlan x) → opFn x = 1 →
    GivesWords (.iadd f) s x (addPlan x) 4 2 (fun l k =>
      (opA64 s x (addPlan x) l + opB64 s x (addPlan x) l).extractLsb' (32 * k) 32)) ∧
  (∀ (f : LaneL) (s : State), let x := lOp 0x01 f; LaneGo s x (addPlan x) → opFn x = 1 →
    GivesWords (.isub f) s x (addPlan x) 4 2 (fun l k =>
      (opA64 s x (addPlan x) l - opB64 s x (addPlan x) l).extractLsb' (32 * k) 32)) ∧
  (∀ (f : LaneL) (s : State), let x := lOp 0x02 f; LaneGo s x (mulPlan x) → opFn x = 1 →
    GivesWords (.imul f) s x (mulPlan x) 6 2 (fun l k => wordOf (asTy x (opA s x (mulPlan x) l) * asTy x (opB s x (mulPlan x) l)) k)) ∧
  (∀ (f : LaneJ) (s : State), let x := jOp 0x80 f; LaneGo s x (addPlan x) → opFn x = 1 →
    GivesWords (.iaddJ f) s x (addPlan x) 4 2 (fun l k =>
      (opA64 s x (addPlan x) l + opB64 s x (addPlan x) l).extractLsb' (32 * k) 32)) ∧
  (∀ (f : LaneJ) (s : State), let x := jOp 0x81 f; LaneGo s x (addPlan x) → opFn x = 1 →
    GivesWords (.isubJ f) s x (addPlan x) 4 2 (fun l k =>
      (opA64 s x (addPlan x) l - opB64 s x (addPlan x) l).extractLsb' (32 * k) 32)) ∧
  (∀ (f : LaneJ) (s : State), let x := jOp 0x82 f; LaneGo s x (mulPlan x) → opFn x = 1 →
    GivesWords (.imulJ f) s x (mulPlan x) 6 2 (fun l k => wordOf (asTy x (opA s x (mulPlan x) l) * asTy x (opB s x (mulPlan x) l)) k))

/-- SHL, SHR and SAR shift each element by the other operand's element modulo the width (08 R198). -/
def Sys2Proof.Claims.ShiftLanesCompute : Prop :=
  (∀ e ∈ shiftL, ∀ (f : LaneL) (s : State), let x := lOp e.2.1 f; LaneGo s x (shiftPlan x) →
    ∃ w : Nat → Word, GivesWords (e.1 f) s x (shiftPlan x) 4 1 (fun l _ => w l) ∧
      ∀ l, Elements (opTy x) (opA s x (shiftPlan x) l) (opB s x (shiftPlan x) l) (w l)
        (fun a b => e.2.2 (tyWidth (opTy x)) a (b % tyWidth (opTy x)))) ∧
  (∀ e ∈ shiftJ, ∀ (f : LaneJ) (s : State), let x := jOp e.2.1 f; LaneGo s x (shiftPlan x) →
    ∃ w : Nat → Word, GivesWords (e.1 f) s x (shiftPlan x) 4 1 (fun l _ => w l) ∧
      ∀ l, Elements (opTy x) (opA s x (shiftPlan x) l) (opB s x (shiftPlan x) l) (w l)
        (fun a b => e.2.2 (tyWidth (opTy x)) a (b % tyWidth (opTy x))))

/-- The bitwise operations, LOP3's truth table, POPC, CLZ, BFE and BFI (08 R198). -/
def Sys2Proof.Claims.BitLanesCompute : Prop :=
  (∀ e ∈ logicL, ∀ (f : LaneL) (s : State), let x := lOp e.2.1 f; LaneGo s x (logicPlan x) →
    GivesWords (e.1 f) s x (logicPlan x) 4 1 (fun l _ => e.2.2 (opA s x (logicPlan x) l) (opB s x (logicPlan x) l))) ∧
  (∀ e ∈ logicJ, ∀ (f : LaneJ) (s : State), let x := jOp e.2.1 f; LaneGo s x (logicPlan x) →
    GivesWords (e.1 f) s x (logicPlan x) 4 1 (fun l _ => e.2.2 (opA s x (logicPlan x) l) (opB s x (logicPlan x) l))) ∧
  (∀ (f : LaneL) (s : State), let x := lOp 0x0E f; LaneGo s x (lop3Plan x) →
    ∃ w : Nat → Word, GivesWords (.lop3 f) s x (lop3Plan x) 4 1 (fun l _ => w l) ∧ ∀ l n, n < 32 →
      (w l).getLsbD n = (modF x 8 8).testBit ((if (opA s x (lop3Plan x) l).getLsbD n then 1 else 0) +
        (if (opB s x (lop3Plan x) l).getLsbD n then 2 else 0) + (if (opC s x (lop3Plan x) l).getLsbD n then 4 else 0))) ∧
  (∀ (f : LaneL) (s : State), let x := lOp 0x0F f; LaneGo s x (onePlan x) →
    GivesWords (.popc f) s x (onePlan x) 4 1 (fun l _ => BitVec.ofNat 32 (onesIn (opA s x (onePlan x) l)))) ∧
  (∀ (f : LaneL) (s : State), let x := lOp 0x10 f; LaneGo s x (onePlan x) →
    ∃ w : Nat → Word, GivesWords (.clz f) s x (onePlan x) 4 1 (fun l _ => w l) ∧ ∀ l,
      (opA s x (onePlan x) l = 0 → w l = 32) ∧
      ∀ k, IsHighBit (opA s x (onePlan x) l) k → w l = BitVec.ofNat 32 (31 - k)) ∧
  (∀ (f : LaneL) (s : State), let x := lOp 0x11 f; LaneGo s x (bfePlan x) →
    ∃ w : Nat → Word, GivesWords (.bfe f) s x (bfePlan x) 4 1 (fun l _ => w l) ∧ ∀ l,
      let a := opA s x (bfePlan x) l; let p := posOf (opB s x (bfePlan x) l)
      let n := widthOf (opB s x (bfePlan x) l) (opC s x (bfePlan x) l)
      (n = 0 → w l = 0) ∧ (n ≠ 0 → ∀ j < 32, (w l).getLsbD j =
        if j < n then a.getLsbD (p + j) else (decide (opTy x = 0) && a.getLsbD (p + n - 1)))) ∧
  (∀ (f : LaneL) (s : State), let x := lOp 0x12 f; let q : Plan := { bfePlan x with vread := true }; LaneGo s x q →
    ∃ w : Nat → Word, GivesWords (.bfi f) s x q 4 1 (fun l _ => w l) ∧ ∀ l,
      let p := posOf (opB s x q l); let n := widthOf (opB s x q l) (opC s x q l)
      ∀ j < 32, (w l).getLsbD j =
        if p ≤ j ∧ j < p + n then (opA s x q l).getLsbD (j - p) else ((seen s x q).getV (opVd x) l).getLsbD j)

/-- IMULH, IMAD and IABS (08 R197). -/
def Sys2Proof.Claims.ProductLanesCompute : Prop :=
  (∀ (f : LaneL) (s : State), let x := lOp 0x03 f; LaneGo s x (mulhPlan x) →
    GivesWords (.imulh f) s x (mulhPlan x) 6 1 (fun l _ => wordOf (asTy x (opA s x (mulhPlan x) l) *
      (if opFn x = 1 then ((opB s x (mulhPlan x) l).toNat : Int) else asTy x (opB s x (mulhPlan x) l))) 1)) ∧
  (∀ (f : LaneJ) (s : State), let x := jOp 0x83 f; LaneGo s x (mulhPlan x) →
    GivesWords (.imulhJ f) s x (mulhPlan x) 6 1 (fun l _ => wordOf (asTy x (opA s x (mulhPlan x) l) *
      (if opFn x = 1 then ((opB s x (mulhPlan x) l).toNat : Int) else asTy x (opB s x (mulhPlan x) l))) 1)) ∧
  (∀ (f : LaneL) (s : State), let x := lOp 0x04 f; LaneGo s x (madPlan x) →
    (opFn x = 0 → GivesWords (.imad f) s x (madPlan x) 6 1 (fun l _ => BitVec.ofNat 32 (intoType (opSat x) (opTy x == 0) 32
      (asTy x (opA s x (madPlan x) l) * asTy x (opB s x (madPlan x) l) + asTy x (opC s x (madPlan x) l))))) ∧
    (opFn x = 1 → GivesWords (.imad f) s x (madPlan x) 6 2 (fun l k => wordOf
      (asTy x (opA s x (madPlan x) l) * asTy x (opB s x (madPlan x) l) + ((opC64 s x (madPlan x) l).toNat : Int)) k))) ∧
  (∀ (f : LaneL) (s : State), let x := lOp 0x07 f; LaneGo s x (absPlan x) →
    ∃ w : Nat → Word, GivesWords (.iabs f) s x (absPlan x) 4 1 (fun l _ => w l) ∧
      ∀ l, Elements (opTy x) (opA s x (absPlan x) l) 0 (w l) (fun a _ =>
        intoType (opSat x) true (tyWidth (opTy x)) (asInt true (tyWidth (opTy x)) a).natAbs))

/-- The integer, shift, bit and product lane operations (08 R196–R198; 03 R71). -/
def Obligations.IntegerLanesCompute : Prop :=
  ElementLanesCompute ∧ ShiftLanesCompute ∧ BitLanesCompute ∧ ProductLanesCompute

/-- The IEEE operations on elements, rounded once, and the special functions (08 R200, R201; 03 R65–R67). -/
def Sys2Proof.Claims.RoundedLanesCompute : Prop :=
  (∀ e ∈ floatL, ∀ (f : LaneL) (s : State), let x := lOp e.2.1 f; LaneGo s x (floatPlan x) →
    ∃ w : Nat → Word, GivesWords (e.1 f) s x (floatPlan x) 6 1 (fun l _ => w l) ∧
      ∀ l, FloatElements (opTy x) (opA s x (floatPlan x) l) (opB s x (floatPlan x) l)
        (e.2.2 (tyFmt (opTy x)) (opRound (seen s x (floatPlan x)) x) (opSat x)) (w l)) ∧
  (∀ e ∈ floatJ, ∀ (f : LaneJ) (s : State), let x := jOp e.2.1 f; LaneGo s x (floatPlan x) →
    ∃ w : Nat → Word, GivesWords (e.1 f) s x (floatPlan x) 6 1 (fun l _ => w l) ∧
      ∀ l, FloatElements (opTy x) (opA s x (floatPlan x) l) (opB s x (floatPlan x) l)
        (e.2.2 (tyFmt (opTy x)) (opRound (seen s x (floatPlan x)) x) (opSat x)) (w l)) ∧
  (∀ e ∈ minMaxL, ∀ (f : LaneL) (s : State), let x := lOp e.2.1 f; let p : Plan := { floatPlan x with assigned := 0 }; LaneGo s x p →
    ∃ w : Nat → Word, GivesWords (e.1 f) s x p 6 1 (fun l _ => w l) ∧
      ∀ l, FloatElements (opTy x) (opA s x p l) (opB s x p l) (fMinMax (tyFmt (opTy x)) e.2.2) (w l)) ∧
  (∀ e ∈ minMaxJ, ∀ (f : LaneJ) (s : State), let x := jOp e.2.1 f; let p : Plan := { floatPlan x with assigned := 0 }; LaneGo s x p →
    ∃ w : Nat → Word, GivesWords (e.1 f) s x p 6 1 (fun l _ => w l) ∧
      ∀ l, FloatElements (opTy x) (opA s x p l) (opB s x p l) (fMinMax (tyFmt (opTy x)) e.2.2) (w l)) ∧
  (∀ (f : LaneL) (s : State), let x := lOp 0x23 f; let p : Plan := { floatPlan x with c := some anySrc }; LaneGo s x p →
    ∃ w : Nat → Word, GivesWords (.ffma f) s x p 6 1 (fun l _ => w l) ∧ ∀ l, ∀ e < 32 / tyWidth (opTy x),
      elBits (tyWidth (opTy x)) (w l) e = (fFma (tyFmt (opTy x)) (opRound (seen s x p) x) (opSat x)
        (elBits (tyWidth (opTy x)) (opA s x p l) e) (elBits (tyWidth (opTy x)) (opB s x p l) e)
        (elBits (tyWidth (opTy x)) (opC s x p l) e)).1 % 2 ^ tyWidth (opTy x)) ∧
  (∀ e ∈ specialL, ∀ (f : LaneL) (s : State), let x := lOp e.2.1 f; LaneGo s x (sfuPlan x) →
    GivesWords (e.1 f) s x (sfuPlan x) 20 1 (fun l _ => BitVec.ofNat 32
      (fEncode fmtF32 (opRound (seen s x (sfuPlan x)) x) (opSat x) (e.2.2 (fDecode fmtF32 (opA s x (sfuPlan x) l).toNat)).1).1))

/-- CVT, QNT and DQT: each element converted, blocks of eight quantised with their scale, and fp4 codes expanded (08 R202–R204; 03 R72,
R75, R77). -/
def Sys2Proof.Claims.ConversionLanesCompute : Prop :=
  (∀ (f : LaneL) (s : State), let x := lOp 0x30 f; let p := cvtPlan x; LaneGo s x p →
    let src := modF x 4 4; let dst := opTy x
    ∃ w : Nat → Nat → Word, GivesWords (.cvt f) s x p 6 (max (tyEls src) (tyEls dst) / tyEls dst) w ∧
      ∀ l, ∀ e < max (tyEls src) (tyEls dst), elBits (tyWidth dst) (w l (e / tyEls dst)) (e % tyEls dst) =
        (cvtEl src dst (opRound (seen s x p) x) (opSat x)
          (elBits (tyWidth src) ((seen s x p).getV (opSa x + e / tyEls src) l) (e % tyEls src))).1 % 2 ^ tyWidth dst) ∧
  (∀ (f : LaneL) (s : State), let x := lOp 0x31 f; let p := qntPlan x; LaneGo s x p →
    GivesWords (.qnt f) s x p 6 2 (fun l k =>
      let r := quantise ((List.range 8).map (fun i => ((seen s x p).getV (opSa x + i) l).toNat)) ((opB s x p l).toNat % 2 ^ 16)
      if k = 0 then r.1 else BitVec.ofNat 32 r.2.1)) ∧
  (∀ (f : LaneL) (s : State), let x := lOp 0x32 f; let p := dqtPlan x; LaneGo s x p →
    GivesWords (.dqt f) s x p 6 8 (fun l k => BitVec.ofNat 32 (fEncode fmtF32 (opRound (seen s x p) x) false
      (fp4Fv (elBits 4 (opA s x p l) k) ((opB s x p l).toNat % 2 ^ 8) ((opC s x p l).toNat % 2 ^ 16))).1))

/-- What accrues into LFFLAGS: the flags that the active lanes' operations raise, when the result is written; integer operations raise none,
saturating ones among them. A signalling NaN and an invalid operation raise NV, and a reciprocal or a logarithm of zero DZ (02 R58; 03
R66, R71). -/
def Sys2Proof.Claims.LaneFlagsAccrue : Prop :=
  (∀ (h : Hart) (r : Pending), r.landed = false → (landOne h r).getC 0x803 = h.getC 0x803 ||| r.flags.setWidth 64) ∧
  (∀ e ∈ floatL, ∀ (f : LaneL) (s : State), let x := lOp e.2.1 f; LaneGo s x (floatPlan x) →
    IssuesFlags (e.1 f) s x (floatPlan x)
      (ElementRaises s x (floatPlan x) (e.2.2 (tyFmt (opTy x)) (opRound (seen s x (floatPlan x)) x) (opSat x)))) ∧
  (∀ e ∈ floatJ, ∀ (f : LaneJ) (s : State), let x := jOp e.2.1 f; LaneGo s x (floatPlan x) →
    IssuesFlags (e.1 f) s x (floatPlan x)
      (ElementRaises s x (floatPlan x) (e.2.2 (tyFmt (opTy x)) (opRound (seen s x (floatPlan x)) x) (opSat x)))) ∧
  (∀ e ∈ minMaxL, ∀ (f : LaneL) (s : State), let x := lOp e.2.1 f; let p : Plan := { floatPlan x with assigned := 0 }; LaneGo s x p →
    IssuesFlags (e.1 f) s x p (ElementRaises s x p (fMinMax (tyFmt (opTy x)) e.2.2))) ∧
  (∀ e ∈ minMaxJ, ∀ (f : LaneJ) (s : State), let x := jOp e.2.1 f; let p : Plan := { floatPlan x with assigned := 0 }; LaneGo s x p →
    IssuesFlags (e.1 f) s x p (ElementRaises s x p (fMinMax (tyFmt (opTy x)) e.2.2))) ∧
  (∀ (f : LaneL) (s : State), let x := lOp 0x23 f; let p : Plan := { floatPlan x with c := some anySrc }; LaneGo s x p →
    IssuesFlags (.ffma f) s x p (fun l b => ∃ e < 32 / tyWidth (opTy x),
      (fFma (tyFmt (opTy x)) (opRound (seen s x p) x) (opSat x) (elBits (tyWidth (opTy x)) (opA s x p l) e)
        (elBits (tyWidth (opTy x)) (opB s x p l) e) (elBits (tyWidth (opTy x)) (opC s x p l) e)).2.getLsbD b = true)) ∧
  (∀ e ∈ specialL, ∀ (f : LaneL) (s : State), let x := lOp e.2.1 f; let p := sfuPlan x; LaneGo s x p →
    IssuesFlags (e.1 f) s x p (fun l b => let a := (opA s x p l).toNat; let v := e.2.2 (fDecode fmtF32 a)
      v.2.getLsbD b = true ∨ (fEncode fmtF32 (opRound (seen s x p) x) (opSat x) v.1).2.getLsbD b = true ∨
        (b = 4 ∧ fSnan fmtF32 a = true))) ∧
  (∀ (f : LaneL) (s : State), let x := lOp 0x30 f; let p := cvtPlan x; LaneGo s x p →
    let src := modF x 4 4; let dst := opTy x
    IssuesFlags (.cvt f) s x p (fun l b => ∃ e < max (tyEls src) (tyEls dst),
      (cvtEl src dst (opRound (seen s x p) x) (opSat x)
        (elBits (tyWidth src) ((seen s x p).getV (opSa x + e / tyEls src) l) (e % tyEls src))).2.getLsbD b = true)) ∧
  (∀ (f : LaneL) (s : State), let x := lOp 0x31 f; let p := qntPlan x; LaneGo s x p →
    IssuesFlags (.qnt f) s x p (fun l b => (quantise ((List.range 8).map (fun i => ((seen s x p).getV (opSa x + i) l).toNat))
      ((opB s x p l).toNat % 2 ^ 16)).2.2.getLsbD b = true)) ∧
  (∀ (f : LaneL) (s : State), let x := lOp 0x32 f; let p := dqtPlan x; LaneGo s x p →
    IssuesFlags (.dqt f) s x p (fun l b => ∃ k < 8, (fEncode fmtF32 (opRound (seen s x p) x) false
      (fp4Fv (elBits 4 (opA s x p l) k) ((opB s x p l).toNat % 2 ^ 8) ((opC s x p l).toNat % 2 ^ 16))).2.getLsbD b = true)) ∧
  (∀ (f : LaneL) (s : State), let x := lOp 0x39 f; let p := fcmpPlan x; LaneGo s x p →
    IssuesFlags (.fcmp f) s x p (fun l b => (fcmpBits (opFn x) (opA s x p l).toNat (opB s x p l).toNat).2.getLsbD b = true)) ∧
  (∀ (f : LaneJ) (s : State), let x := jOp 0xB9 f; let p := fcmpPlan x; LaneGo s x p →
    IssuesFlags (.fcmpJ f) s x p (fun l b => (fcmpBits (opFn x) (opA s x p l).toNat (opB s x p l).toNat).2.getLsbD b = true)) ∧
  (∀ e ∈ elementL, ∀ (f : LaneL) (s : State), let x := lOp e.2.1 f; LaneGo s x (e.2.2.1 x) →
    IssuesFlags (e.1 f) s x (e.2.2.1 x) (fun _ _ => False)) ∧
  (∀ e ∈ elementJ, ∀ (f : LaneJ) (s : State), let x := jOp e.2.1 f; LaneGo s x (e.2.2.1 x) →
    IssuesFlags (e.1 f) s x (e.2.2.1 x) (fun _ _ => False)) ∧
  (∀ (f : LaneL) (s : State), let x := lOp 0x04 f; LaneGo s x (madPlan x) → IssuesFlags (.imad f) s x (madPlan x) (fun _ _ => False)) ∧
  (∀ (f : LaneL) (s : State), let x := lOp 0x07 f; LaneGo s x (absPlan x) → IssuesFlags (.iabs f) s x (absPlan x) (fun _ _ => False)) ∧
  (∀ f ∈ floatFormats, ∀ (rm : Nat) (sat : Bool) (a b c : Nat),
    (fSnan f a = true ∨ fSnan f b = true → (fAdd f rm sat a b).2.getLsbD 4 = true ∧ (fSub f rm sat a b).2.getLsbD 4 = true ∧
      (fMul f rm sat a b).2.getLsbD 4 = true ∧ (fFma f rm sat a b c).2.getLsbD 4 = true ∧ ∀ m, (fMinMax f m a b).2.getLsbD 4 = true) ∧
    (∀ n, IsInf f a n → (IsInf f b (!n) → (fAdd f rm sat a b).2.getLsbD 4 = true) ∧
      (IsInf f b n → (fSub f rm sat a b).2.getLsbD 4 = true) ∧
      (IsZero f b → (fMul f rm sat a b).2.getLsbD 4 = true ∧ (fMul f rm sat b a).2.getLsbD 4 = true))) ∧
  (∀ a, IsZero fmtF32 a → (rcpFv (fDecode fmtF32 a)).2 = flDZ ∧ (rsqFv (fDecode fmtF32 a)).2 = flDZ ∧
    (lg2Fv (fDecode fmtF32 a)).2 = flDZ)

/-- The float and special functions, conversion and quantisation, and the flags that lane results accrue (08 R200–R204; 03 R65–R77). -/
def Obligations.FloatLanesCompute : Prop :=
  RoundedLanesCompute ∧ ConversionLanesCompute ∧ LaneFlagsAccrue

/-- ICMP writes one mask bit an active lane, by the condition of FN on signed or unsigned words; FCMP by the ordering of f32 values (08
R205). -/
def Sys2Proof.Claims.CompareLanesWriteMasks : Prop :=
  (∀ (f : LaneL) (s : State), let x := lOp 0x38 f; LaneGo s x (icmpPlan x) →
    GivesMask (.icmp f) s x (icmpPlan x) 4 (fun l => fnHolds (opFn x)
      (asTy x (opA s x (icmpPlan x) l) < asTy x (opB s x (icmpPlan x) l)) (opA s x (icmpPlan x) l = opB s x (icmpPlan x) l))) ∧
  (∀ (f : LaneJ) (s : State), let x := jOp 0xB8 f; LaneGo s x (icmpPlan x) →
    GivesMask (.icmpJ f) s x (icmpPlan x) 4 (fun l => fnHolds (opFn x)
      (asTy x (opA s x (icmpPlan x) l) < asTy x (opB s x (icmpPlan x) l)) (opA s x (icmpPlan x) l = opB s x (icmpPlan x) l))) ∧
  (∀ (f : LaneL) (s : State), let x := lOp 0x39 f; LaneGo s x (fcmpPlan x) →
    GivesMask (.fcmp f) s x (fcmpPlan x) 6 (fun l => (fcmpBits (opFn x) (opA s x (fcmpPlan x) l).toNat
      (opB s x (fcmpPlan x) l).toNat).1 = true)) ∧
  (∀ (f : LaneJ) (s : State), let x := jOp 0xB9 f; LaneGo s x (fcmpPlan x) →
    GivesMask (.fcmpJ f) s x (fcmpPlan x) 6 (fun l => (fcmpBits (opFn x) (opA s x (fcmpPlan x) l).toNat
      (opB s x (fcmpPlan x) l).toNat).1 = true))

/-- SEL, MOV, SHFL and BCST move words between lanes and registers (08 R206–R209). -/
def Sys2Proof.Claims.MoveLanesCompute : Prop :=
  (∀ (f : LaneL) (s : State), let x := lOp 0x3A f; let p := selPlan x; LaneGo s x p →
    GivesWords (.sel f) s x p 4 1 (fun l _ => if ((seen s x p).getM (modF x 8 4)).getLsbD l then opA s x p l else opB s x p l)) ∧
  (∀ (f : LaneL) (s : State), let x := lOp 0x40 f; let p := movPlan x; LaneGo s x p →
    (opFn x = 0 → GivesWords (.mov f) s x p 4 1 (fun l _ => opA s x p l)) ∧
    (opFn x = 1 → GivesWords (.mov f) s x p 4 2 (fun l k => (opA64 s x p l).extractLsb' (32 * k) 32))) ∧
  (∀ (f : LaneJ) (s : State), let x := jOp 0xC0 f; let p := movPlan x; LaneGo s x p →
    (opFn x = 0 → GivesWords (.movi f) s x p 4 1 (fun _ _ => f.imm)) ∧
    (opFn x = 1 → GivesWords (.movi f) s x p 4 2 (fun _ k => if k = 0 then f.imm else if opTy x = 0 ∧
      f.imm.msb then BitVec.allOnes 32 else 0))) ∧
  (∀ (f : LaneL) (s : State), let x := lOp 0x41 f; let p := shflPlan x; LaneGo s x p →
    let n := segSize (seen s x p) x; let d := fun (l : Nat) => (opB s x p l).toNat % 256
    ∃ w : Nat → Word, GivesWords (.shfl f) s x p 8 1 (fun l _ => w l) ∧ ∀ l < 128,
      let reg := fun (j : Nat) => (seen s x p).getV (opSa x) j
      let out := if x.mods.testBit 12 then (0 : Word) else reg l
      (opFn x = 0 → w l = reg (l / n * n + d l % n)) ∧ (opFn x = 1 → w l = if d l ≤ l % n then reg (l - d l) else out) ∧
      (opFn x = 2 → w l = if l % n + d l < n then reg (l + d l) else out) ∧
      (opFn x = 3 → w l = reg (l / n * n + Nat.xor (l % n) (d l % n)))) ∧
  (∀ (f : LaneL) (s : State), let x := lOp 0x42 f; let p := bcstPlan x; LaneGo s x p →
    let n := segSize (seen s x p) x
    GivesWords (.bcst f) s x p 8 1 (fun l _ => (seen s x p).getV (opSa x) (l / n * n + (opB s x p l).toNat % 256 % n)))

/-- Comparisons into masks, and moves between lanes and registers (08 R205–R209). -/
def Obligations.CompareAndMoveLanesCompute : Prop :=
  CompareLanesWriteMasks ∧ MoveLanesCompute

namespace Sys2Proof.Claims
open Sys2Proof.Machine

section LaneMemory
/-- As GivesWords, for a scoreboarded result. -/
def GivesLater (i : Instr) (s : State) (x : LaneOp) (p : Plan) (n : Nat) (w : Nat → Nat → Word) : Prop :=
  ∃ r, exec i s = .next (laneIssued (seenState s x p) x (some r)) ∧ r.board = true ∧ WritesLanes s x p r n w
/-- The words of a register in the active lanes, in lane order. -/
def activeWords (s : State) (x : LaneOp) (p : Plan) (v : Nat) : List Nat :=
  (lanesOf (laneActive (seen s x p) x)).map (fun l => ((seen s x p).getV v l).toNat)
/-- State b differs from a in nothing but walks noted, and what caches, directories and L2 slices keep and count. -/
def NotedOnly (a b : State) : Prop :=
  b = { a with harts := b.harts, counters := b.counters,
               mem := { a.mem with walks := b.mem.walks, copies := b.mem.copies, dir := b.mem.dir, l2 := b.mem.l2,
                                   recalls := b.mem.recalls } } ∧
    SliceCounts a b ∧ ∀ k, hartAt b k = hartAt a k
/-- State b differs from a in walks noted, copies dropped and the writes that one lane instruction has sent, which no write of another
agent comes between (09 R223). -/
def Sent (a b : State) (rs : List Req) : Prop :=
  b = { a with harts := b.harts, seqNo := b.seqNo,
               mem := { a.mem with walks := b.mem.walks, copies := b.mem.copies,
                                   net := a.mem.net ++ rs.map (fun (r : Req) => { r with group := b.seqNo }) } } ∧
    a.seqNo < b.seqNo ∧ ∀ k, hartAt b k = hartAt a k
/-- Every active lane's address reaches a place. -/
def LanesAt (s : State) (x : LaneOp) (p : Plan) (acc : Acc) (cls : Cls) (n : Nat) (loc : Nat → Located) : Prop :=
  ∀ l, active s x p l → vaPlace (seenState s x p) (seen s x p) acc cls n (laneEa (seenState s x p) (seen s x p) x l) = .ok (loc l)
/-- Every active lane's scratchpad offset passes its checks. -/
def PadsAt (s : State) (x : LaneOp) (p : Plan) (acc : Acc) (pad : Nat → PadPlace) : Prop :=
  ∀ l, active s x p l → padPlace (seenState s x p) (seen s x p) x acc (laneEo (seenState s x p) (seen s x p) x l) = .ok (pad l)
/-- A piece of memory may be read as it stands: nothing is on its way, no copy owns it, and its packets arrive. -/
def Readable (s : State) (l : Loc) (n : Nat) : Prop :=
  Quiet s ∧ HoldsBytes l ∧ ∀ o k, o + k ≤ n → heldRead s (l.add o) k = false ∧ Routed s (l.add o)
/-- Word k of a loaded value: the extended element of FN 0, or the k-th word (09 R218). -/
def loadedWord (s : State) (x : LaneOp) (l : Loc) (k : Nat) : Word :=
  if opFn x = 0 then memExt x (homeValue s l (memBytes x)) else BitVec.ofNat 32 (homeValue s (l.add (4 * k)) 4)
/-- A write that the current group sends: of which launch, partition and tile it is, the channel it takes, and the address it names. -/
def laneReq (s : State) (l : Loc) (mode n : Nat) (va v : DWord) : Req :=
  let h := curHart s
  { agent := s.cur, loc := l, size := n, data := v, lkey := h.lkey, pid := h.actsFor, mode := mode, src := h.tile,
    hub := hubChannel s h.actsFor h.tile l, va := va }
/-- The writes of a lane store to the addresses `ea`, lane by lane and piece by piece (09 R223). -/
def laneReqs (s : State) (x : LaneOp) (p : Plan) (n : Nat) (ea : Nat → DWord) (loc : Nat → Located) : List Req :=
  (lanesOf (laneActive (seen s x p) x)).flatMap (fun l => (memPieces n).map (fun q =>
    laneReq s ((loc l).loc.add q.1) (loc l).mode q.2 (ea l + BitVec.ofNat 64 q.1)
      (BitVec.ofNat 64 (((seen s x p).getV (opVd x + q.1 / 4) l).toNat % 2 ^ (8 * q.2)))))
/-- State b differs from a in nothing but walks noted, what caches and L2 slices keep, renewals counted and failed tags marked. -/
def Fetched (a b : State) : Prop :=
  b = { a with harts := b.harts, counters := b.counters,
               mem := { a.mem with walks := b.mem.walks, copies := b.mem.copies, dir := b.mem.dir, l2 := b.mem.l2,
                                   recalls := b.mem.recalls, poison := b.mem.poison, tagErr := b.mem.tagErr } } ∧
    (∀ k, (k / 65536 ≠ 2 ∨ 4 < k % 16) → tget 0 b.counters k = tget 0 a.counters k) ∧ ∀ k, hartAt b k = hartAt a k
/-- Exactly one lane is active. -/
def OneLane (s : State) (x : LaneOp) (p : Plan) (l : Nat) : Prop := lanesOf (laneActive (seen s x p) x) = [l]
/-- What a lane atomic makes of a number: FN and TY of 09 R229. -/
def laneRmw (x : LaneOp) (n : Nat) (old v cmp : Nat) : Nat :=
  match opFn x with
  | 0 => if opTy x = 2 then (fAdd fmtF32 0 false old v).1 else (old + v) % 2 ^ (8 * n)
  | 1 => if opTy x = 0 then (if signedOf n v < signedOf n old then v else old) else min old v
  | 2 => if opTy x = 0 then (if signedOf n old < signedOf n v then v else old) else max old v
  | 3 => old &&& v
  | 4 => old ||| v
  | 5 => old ^^^ v
  | 6 => v
  | _ => if old = cmp then v else old
/-- The full-empty lane forms that load and that store, with the operation. -/
noncomputable def feLoads : List ((LaneL → Instr) × (LaneJ → Instr) × Nat × FeOp) :=
  [(.laneLdfe, .laneLdfeJ, 0x54, .ldfe), (.laneLdff, .laneLdffJ, 0x55, .ldff)]
noncomputable def feStores : List ((LaneL → Instr) × (LaneJ → Instr) × Nat × FeOp) :=
  [(.laneStef, .laneStefJ, 0x56, .stef), (.laneStff, .laneStffJ, 0x57, .stff)]
/-- A lane full-empty instruction of one lane whose word is ready completes: the word's bit and, for a load, the lane's word. One without
an active lane completes with no effect. -/
def FeLaneDone (i : Instr) (s : State) (x : LaneOp) (l : Nat) (op : FeOp) (load : Bool) : Prop :=
  let p := fePlan (curHart s) x load
  LaneGo s x p →
  ((∀ k, ¬ active s x p k) → exec i s = .next (laneIssued (seenState s x p) x none)) ∧
  (OneLane s x p l → (curHart s).pend = [] →
  ∀ q : Located, vaPlace (seenState s x p) (seen s x p) (if load then .load else .store) .fe 4
      (laneEa (seenState s x p) (seen s x p) x l) = .ok q →
    FeFree s q.loc → NoneParked s q.loc → (op = .stff ∨ isFull s.mem q.loc = load) →
    ∃ t, exec i s = .next t ∧ (curHart t).laneFe = none ∧ (curHart t).run = .ready ∧ (curHart t).wait = .nothing ∧
      SetsFull s t q.loc (op != .ldfe) ∧
      (load = true → SameBytes s t ∧ ∀ v k, k < 128 → (curHart t).getV v k =
        if v = opVd x ∧ k = l then BitVec.ofNat 32 (homeValue s q.loc 4) else (curHart s).getV v k) ∧
      (load = false → WroteBytes s t q.loc 4 ((curHart s).getV (opVd x) l).toNat ∧
        ∀ v k, k < 128 → (curHart t).getV v k = (curHart s).getV v k))
end LaneMemory

section Limbs
/-- The plan of a limb operation, which also needs bound limbs (09 R241). -/
def limbPlan (s : State) (p : Plan) : Plan := { p with bad := p.bad || (curHart s).limbs == 0 }
/-- The segments whose lanes are all active. -/
def segs (s : State) (x : LaneOp) (p : Plan) : List Nat := wholeSegs (seen s x p).limbs (laneActive (seen s x p) x)
/-- The result writes a number of each whole segment into VD, lane by lane, and into these further words. -/
def GivesSegments (i : Instr) (s : State) (x : LaneOp) (p : Plan) (lat : Nat) (r : Pending) (n : Nat → Nat) (top : Nat →
  Option (Nat × Word)) :
    Prop :=
  exec i s = .next (laneIssued (seenState s x p) x (some r)) ∧ r.board = false ∧ r.latency = lat ∧
  ∀ q l v, (q, l, v) ∈ r.vs ↔ ∃ j ∈ segs s x p,
    (∃ k < (seen s x p).limbs, q = opVd x ∧ l = j * (seen s x p).limbs + k ∧ v = BitVec.ofNat 32 (n j / 2 ^ (32 * k))) ∨
    (∃ w, top j = some (q, w) ∧ l = segTop (seen s x p).limbs j ∧ v = w)
/-- The carry into a segment. -/
def carryIn (s : State) (x : LaneOp) (p : Plan) (j : Nat) : Nat :=
  if limbCin x ≠ 15 ∧ ((seen s x p).getM (limbCin x)).getLsbD (segTop (seen s x p).limbs j) = true then 1 else 0
/-- The segments' results as mask bits of their top lanes. -/
def SegmentBits (s : State) (x : LaneOp) (p : Plan) (r : Pending) (md : Nat) (c : Nat → Prop) : Prop :=
  ∃ lanes bits, r.mask = some (md, lanes, bits) ∧
    ∀ j ∈ segs s x p, (bits.getLsbD (segTop (seen s x p).limbs j) = true ↔ c j) ∧
      ∀ k < (seen s x p).limbs, lanes.getLsbD (j * (seen s x p).limbs + k) = true
end Limbs

section Matrix
/-- The slot that an MMA names, and its plan. -/
def mmaSlotOf (s : State) (x : LaneOp) : WSlot :=
  wslotAt s (wslotKey (curHart s).tile (subcoreOf (curHart s).slot) (mmaSlot x))
def mmaMask (s : State) (x : LaneOp) : Mask := laneActive (seen s x (mmaPlan x 0 none)) x
def mmaP (s : State) (x : LaneOp) : Plan := mmaPlan x (mmaMask s x) (some (mmaSlotOf s x))
/-- The slot is the workgroup's and is loaded, and the partition may spend energy. -/
def MmaReady (s : State) (x : LaneOp) : Prop :=
  (mmaSlotOf s x).owner = (curHart s).wg ∧ (mmaSlotOf s x).loaded = true ∧
    (partAt s (ownerOf s (curHart s))).allow ≠ 0 ∧ energyHeld s (ownerOf s (curHart s)) = false
/-- No failure and no unfinished put stands on the named tiles, and the quota has room for those not bound yet. -/
def TilesReady (h : Hart) (names : List Nat) (h' : Hart) : Prop :=
  (∀ n ∈ names, (∀ f ∈ h.accFails, f.name ≠ n) ∧ accSt h n ≠ 2) ∧ bindAll h names = .ok h'
end Matrix

section Checks
/-- Every lane instruction in L form whose checks depend on the instruction word alone: constructor, opcode and plan. -/
noncomputable def checkedL : List ((LaneL → Instr) × Nat × (LaneOp → Plan)) :=
  elementL.map (fun e => (e.1, e.2.1, e.2.2.1)) ++ shiftL.map (fun e => (e.1, e.2.1, shiftPlan)) ++
  logicL.map (fun e => (e.1, e.2.1, logicPlan)) ++ specialL.map (fun e => (e.1, e.2.1, sfuPlan)) ++
  floatL.map (fun e => (e.1, e.2.1, floatPlan)) ++ minMaxL.map (fun e => (e.1, e.2.1, fun x => { floatPlan x with assigned := 0 })) ++
  [(.imulh, 0x03, mulhPlan), (.imad, 0x04, madPlan), (.iabs, 0x07, absPlan), (.lop3, 0x0E, lop3Plan), (.popc, 0x0F, onePlan),
   (.clz, 0x10, onePlan), (.bfe, 0x11, bfePlan), (.bfi, 0x12, fun x => { bfePlan x with vread := true }),
   (.ffma, 0x23, fun x => { floatPlan x with c := some anySrc }), (.cvt, 0x30, cvtPlan), (.qnt, 0x31, qntPlan), (.dqt, 0x32, dqtPlan),
   (.icmp, 0x38, icmpPlan), (.fcmp, 0x39, fcmpPlan), (.sel, 0x3A, selPlan), (.mov, 0x40, movPlan), (.shfl, 0x41, shflPlan),
   (.bcst, 0x42, bcstPlan), (.lred, 0x43, lredPlan), (.lscan, 0x44, lscanPlan), (.disp, 0x45, dispPlan), (.nop, 0x78, nopPlan)] ++
  [(.laneLd, 0x50, loadPlan), (.laneSt, 0x51, storePlan), (.lds, 0x52, fun x => padPlan x 0), (.sts, 0x53, stsPlan),
   (.pfetch, 0x58, pfPlan), (.amo, 0x60, amoPlan), (.red, 0x61, redMemPlan), (.accld, 0x69, accldPlan), (.accrd, 0x6A, accrdPlan),
   (.accst, 0x6B, accstPlan)]
/-- Those in J form. -/
noncomputable def checkedJ : List ((LaneJ → Instr) × Nat × (LaneOp → Plan)) :=
  elementJ.map (fun e => (e.1, e.2.1, e.2.2.1)) ++ shiftJ.map (fun e => (e.1, e.2.1, shiftPlan)) ++
  logicJ.map (fun e => (e.1, e.2.1, logicPlan)) ++ floatJ.map (fun e => (e.1, e.2.1, floatPlan)) ++
  minMaxJ.map (fun e => (e.1, e.2.1, fun x => { floatPlan x with assigned := 0 })) ++
  [(.imulhJ, 0x83, mulhPlan), (.icmpJ, 0xB8, icmpPlan), (.fcmpJ, 0xB9, fcmpPlan), (.movi, 0xC0, movPlan), (.laneLdJ, 0xD0, loadPlan),
   (.laneStJ, 0xD1, storePlan), (.ldsJ, 0xD2, fun x => padPlan x 0), (.stsJ, 0xD3, stsPlan), (.pfetchJ, 0xD8, pfPlan)]
/-- Those that need bound limbs, or none, and MMA, which needs its slot: the plan depends on the group too. -/
noncomputable def limbForms : List ((LaneL → Instr) × Nat × (State → LaneOp → Plan)) :=
  [(.ladd, 0x70, fun s x => limbPlan s (limbAddPlan x)), (.lsub, 0x71, fun s x => limbPlan s (limbAddPlan x)),
   (.lshl, 0x72, fun s x => limbPlan s (limbShiftPlan x)), (.lshr, 0x73, fun s x => limbPlan s (limbShiftPlan x)),
   (.lmac, 0x74, fun s x => limbPlan s (lmacPlan (curHart s) x)), (.lcmp, 0x75, fun s x => limbPlan s (lcmpPlan x))]
noncomputable def checkedG : List ((LaneL → Instr) × Nat × (State → LaneOp → Plan)) :=
  limbForms ++ feLoads.map (fun e => (e.1, e.2.2.1, fun s x => fePlan (curHart s) x true)) ++
  feStores.map (fun e => (e.1, e.2.2.1, fun s x => fePlan (curHart s) x false)) ++
  [(.mma, 0x68, fun s x => mmaPlan x (mmaMask s x)
    (if (mmaSlotOf s x).owner = (curHart s).wg ∧ (mmaSlotOf s x).loaded = true then some (mmaSlotOf s x) else none))]
noncomputable def checkedFeJ : List ((LaneJ → Instr) × Nat × Bool) :=
  feLoads.map (fun e => (e.2.1, e.2.2.1 + 128, true)) ++ feStores.map (fun e => (e.2.1, e.2.2.1 + 128, false))
/-- What a precise trap of a lane instruction leaves: the group's registers as the earlier lane instructions left them, and in the copies
of the receiving mode SLPC, SLREM and SLCTL.LRES, beside `epc` in its exception pc (06 R146; 12 R270, R274). -/
def LaneTrapLeaves (s : State) (t : Trap) (epc : Nat) (vs : Bool) (p : Priv) : Prop :=
  let g := curHart (laneTrap s t); let w := landAll (curHart s); let k := bankKey vs
  TrapKeeps (curHart s) g ∧ (∀ q, g.getX q = w.getX q) ∧ (∀ q l, g.getV q l = w.getV q l) ∧ (∀ q, g.getM q = w.getM q) ∧
    g.mstk = (curHart s).mstk ∧ g.msp = (curHart s).msp ∧ g.limbs = (curHart s).limbs ∧ g.pend = [] ∧
  g.getC epc = (curHart s).iss.pc ∧ g.getC (k 0x5C3) = (curHart s).iss.lpc ∧ g.getC (k 0x5C4) = BitVec.ofNat 64 (curHart s).iss.rem ∧
    g.getC (k 0x5C5) = 1 ∧ g.lpc = (curHart s).iss.lpc ∧ g.laneQ = [] ∧ g.priv = p ∧ g.virt = vs
end Checks

end Sys2Proof.Claims

/-- LRED and LSCAN over the active lanes, and NOP (08 R210, R211, R213). -/
def Sys2Proof.Claims.ReductionLanesCompute : Prop :=
  (∀ (f : LaneL) (s : State), let x := lOp 0x43 f; let p := lredPlan x; LaneGo s x p →
    ∃ r, exec (.lred f) s = .next (laneIssued (seenState s x p) x (some r)) ∧ r.board = true ∧ r.vs = [] ∧ r.mask = none ∧
      (opTy x ≠ 2 → r.x = some (BitVec.ofNat 5 (opVd x), BitVec.ofInt 64 (redInt (opFn x) (opTy x == 0) (activeWords s x p (opSa x))))) ∧
      (opTy x ≠ 2 → opFn x = 0 → r.x = some (BitVec.ofNat 5 (opVd x),
        BitVec.ofInt 64 (((activeWords s x p (opSa x)).map (fun n => asTy x (BitVec.ofNat 32 n))).sum))) ∧
      (opTy x = 2 → r.x = some (BitVec.ofNat 5 (opVd x),
        BitVec.ofNat 64 (redF32 (opFn x) (opRound (seen s x p) x) (activeWords s x p (opSa x))).1))) ∧
  (∀ (f : LaneL) (s : State), let x := lOp 0x44 f; let p := lscanPlan x; LaneGo s x p →
    let es := fun (l : Nat) => (scanLanes (segSize (seen s x p) x) l (x.mods.testBit 13) (laneActive (seen s x p) x)).map
      (fun j => ((seen s x p).getV (opSa x) j).toNat)
    GivesLater (.lscan f) s x p 1 (fun l _ => if opTy x = 2 then BitVec.ofNat 32 (redF32 (opFn x) (opRound (seen s x p) x) (es l)).1
      else BitVec.ofInt 32 (redInt (opFn x) (opTy x == 0) (es l)))) ∧
  (∀ (f : LaneL) (s : State), let x := lOp 0x78 f; LaneGo s x (nopPlan x) →
    exec (.nop f) s = .next (laneIssued (seenState s x (nopPlan x)) x none))

/-- DISP reads the dispatch entry of the lowest active lane's index and marks the lanes that share it; without an active lane it answers
0; an index at or above DTLEN traps (08 R212). -/
def Sys2Proof.Claims.DispatchReadsItsTable : Prop :=
  ∀ (f : LaneL) (s : State), let x := lOp 0x45 f; let p := dispPlan x; LaneGo s x p →
    let h := seen s x p; let idx := fun (l : Nat) => (h.getV (opSa x) l).toNat; let rd : Reg := BitVec.ofNat 5 (opVd x / 16)
    ((∀ l, ¬ active s x p l) →
      ∃ r, exec (.disp f) s = .next (laneIssued (seenState s x p) x (some r)) ∧ r.x = some (rd, 0) ∧ r.mask = none) ∧
    (∀ l, active s x p l → (∀ k, active s x p k → k < l → idx k < (h.getC 0x806).toNat) → (h.getC 0x806).toNat ≤ idx l →
      exec (.disp f) s = .next (laneTrap (seenState s x p)
        { cause := 29, tval := BitVec.ofNat 64 (idx l), lane := some l, detail := some 0 })) ∧
    (∀ (l : Nat) (q : Located), active s x p l → (∀ k < l, ¬ active s x p k) → (∀ k, active s x p k → idx k < (h.getC 0x806).toNat) →
      locate (seenState s x p) (dataCtx h) h.lkey false .load .scalar (h.getC 0x805 + BitVec.ofNat 64 (8 * idx l)) 8 = .ok q →
      Readable s q.loc 8 →
      (q.mode ≠ 1 ∨ ∀ a, q.loc = .mem a → copyFind s.mem (hartHolder h) (a / 64) = none) →
      ∃ r b bits, exec (.disp f) s = .next (laneIssued b x (some r)) ∧ NotedOnly (seenState s x p) b ∧ r.board = true ∧
        r.x = some (rd, BitVec.ofNat 64 (homeValue s q.loc 8)) ∧ r.mask = some (opVd x % 16, laneActive h x, bits) ∧
        ∀ k, active s x p k → (bits.getLsbD k = true ↔ idx k = idx l))

/-- LRED, LSCAN, DISP and NOP (08 R210–R213). The DETAIL of an unlisted FN with TY 2 is the model's reading (notes/assumptions/72). -/
def Obligations.ReductionsAndDispatchAnswer : Prop :=
  ReductionLanesCompute ∧ DispatchReadsItsTable

/-- Lane loads and stores and the scratchpad forms, in the L and J forms: the words loaded, extended by TY, also through a copy of an S
line, usable or not, and the writes sent (09 R215–R225; 14 R318, R326). -/
def Obligations.LaneMemoryAccesses : Prop :=
  (∀ (i : Instr) (x : LaneOp) (s : State), ((∃ f, i = .laneLd f ∧ x = lOp 0x50 f) ∨ ∃ f, i = .laneLdJ f ∧ x = jOp 0xD0 f) →
    let p := loadPlan x; LaneGo s x p → ∀ loc, LanesAt s x p .load .lane (memBytes x) loc →
    (∀ l, active s x p l → Readable s (loc l).loc (memBytes x) ∧ (loc l).mode ≠ 1) →
    ∃ r b, exec i s = .next (laneIssued b x (some r)) ∧ NotedOnly (seenState s x p) b ∧ r.board = true ∧
      WritesLanes s x p r (memRegs x) (fun l k => loadedWord s x (loc l).loc k)) ∧
  (∀ (i : Instr) (x : LaneOp) (s : State), ((∃ f, i = .laneLd f ∧ x = lOp 0x50 f) ∨ ∃ f, i = .laneLdJ f ∧ x = jOp 0xD0 f) →
    let p := loadPlan x; LaneGo s x p → ∀ (l : Nat) (q : Located) (a : Nat), OneLane s x p l → opFn x = 0 →
    vaPlace (seenState s x p) (seen s x p) .load .lane (memBytes x) (laneEa (seenState s x p) (seen s x p) x l) = .ok q →
    q.loc = .mem a → q.mode = 1 → Readable s q.loc (memBytes x) →
    let copy := copyFind s.mem (l1Holder (curHart s).tile) (a / 64)
    (copy = none → ∃ r b, exec i s = .next (laneIssued b x (some r)) ∧ NotedOnly (seenState s x p) b ∧
      WritesLanes s x p r 1 (fun _ k => loadedWord s x q.loc k)) ∧
    (∀ c, copy = some c → ∃ r b, exec i s = .next (laneIssued b x (some r)) ∧
      WritesLanes s x p r 1 (fun _ _ => memExt x (copyBytes c a (memBytes x)).toNat) ∧
      (usable (seenState s x p) (seen s x p) c = true → NotedOnly (seenState s x p) b) ∧
      (usable (seenState s x p) (seen s x p) c = false →
        ∃ w, (curHart b).spec = [w] ∧ w.lines = [c] ∧ w.v = (seen s x p).v ∧ w.m = (seen s x p).m))) ∧
  (∀ (i : Instr) (x : LaneOp) (s : State), ((∃ f, i = .laneSt f ∧ x = lOp 0x51 f) ∨ ∃ f, i = .laneStJ f ∧ x = jOp 0xD1 f) →
    let p := storePlan x; LaneGo s x p → ∀ loc, LanesAt s x p .store .lane (memBytes x) loc →
    ∃ b, exec i s = .next (laneIssued b x none) ∧
      Sent (seenState s x p) b (laneReqs s x p (memBytes x) (laneEa (seenState s x p) (seen s x p) x) loc)) ∧
  (∀ (i : Instr) (x : LaneOp) (s : State), ((∃ f, i = .lds f ∧ x = lOp 0x52 f) ∨ ∃ f, i = .ldsJ f ∧ x = jOp 0xD2 f) →
    let p := padPlan x 0; LaneGo s x p → ∀ pad, PadsAt s x p .load pad →
    (∀ l, active s x p l → Readable s (pad l).loc (pad l).bytes) →
    ∃ r b, exec i s = .next (laneIssued b x (some r)) ∧ NotedOnly (seenState s x p) b ∧ r.board = true ∧
      (palBit x = false → WritesLanes s x p r (memRegs x) (fun l k => loadedWord s x (pad l).loc k)) ∧
      (palBit x = true → WritesLanes s x p r 1 (fun l _ =>
        BitVec.ofNat 32 (fromPal (pad l).fmt (homeValue s (pad l).loc (pad l).bytes)).1))) ∧
  (∀ (i : Instr) (x : LaneOp) (s : State), ((∃ f, i = .sts f ∧ x = lOp 0x53 f) ∨ ∃ f, i = .stsJ f ∧ x = jOp 0xD3 f) →
    let p := stsPlan x; LaneGo s x p → ∀ pad, PadsAt s x p .store pad →
    (palBit x = false → ∃ b, exec i s = .next (laneIssued b x none) ∧
      Sent (seenState s x p) b (laneReqs s x p (memBytes x) (fun _ => 0) (fun l => { loc := (pad l).loc, mode := 2 }))) ∧
    (palBit x = true → ∃ b fl, exec i s = .next (laneIssued b x (some (flagsOnly fl))) ∧
      Sent (seenState s x p) b ((lanesOf (laneActive (seen s x p) x)).map (fun l =>
        laneReq s (pad l).loc 2 (pad l).bytes 0
          (BitVec.ofNat 64 (toPal (pad l).fmt (opRound (seen s x p) x) (opSat x) ((seen s x p).getV (opVd x) l).toNat).1)))))

/-- A lane full-empty instruction of one lane whose word is ready performs it and completes, in all eight forms (09 R226). -/
def Sys2Proof.Claims.LaneFullEmptyCompletes : Prop :=
  (∀ e ∈ feLoads, (∀ f s l, FeLaneDone (e.1 f) s (lOp e.2.2.1 f) l e.2.2.2 true) ∧
    ∀ f s l, FeLaneDone (e.2.1 f) s (jOp (e.2.2.1 + 128) f) l e.2.2.2 true) ∧
  (∀ e ∈ feStores, (∀ f s l, FeLaneDone (e.1 f) s (lOp e.2.2.1 f) l e.2.2.2 false) ∧
    ∀ f s l, FeLaneDone (e.2.1 f) s (jOp (e.2.2.1 + 128) f) l e.2.2.2 false)

/-- PFETCH writes nothing and traps on no address; RED sends one remote update for each active lane; AMO in one lane returns the old
value and writes the new one, a failed comparison nothing (09 R227–R231). -/
def Sys2Proof.Claims.LaneAtomicsUpdate : Prop :=
  (∀ (i : Instr) (x : LaneOp) (s : State), ((∃ f, i = .pfetch f ∧ x = lOp 0x58 f) ∨ ∃ f, i = .pfetchJ f ∧ x = jOp 0xD8 f) →
    LaneGo s x (pfPlan x) → ∃ b, exec i s = .next (laneIssued b x none) ∧ Fetched (seenState s x (pfPlan x)) b) ∧
  (∀ (f : LaneL) (s : State), let x := lOp 0x61 f; let p := redMemPlan x; LaneGo s x p →
    ∀ loc, LanesAt s x p .store .amo (amoBytes x) loc →
    ∃ b, exec (.red f) s = .next (laneIssued b x none) ∧ Sent (seenState s x p) b
      ((lanesOf (laneActive (seen s x p) x)).map (fun l =>
        { laneReq s (loc l).loc (loc l).mode (amoBytes x) (laneEa (seenState s x p) (seen s x p) x l) (atomVal (seenState s x p) (seen s
          x p) x l) with
          red := some (atomOp x) }))) ∧
  (∀ (f : LaneL) (s : State) (l : Nat) (q : Located), let x := lOp 0x60 f; let p := amoPlan x; LaneGo s x p → OneLane s x p l →
    vaPlace (seenState s x p) (seen s x p) .store .amo (amoBytes x) (laneEa (seenState s x p) (seen s x p) x l) = .ok q →
    Quiet s → HoldsBytes q.loc → Writable s s.cur q.loc (amoBytes x) → Routed s q.loc →
    let n := amoBytes x; let old := homeValue s q.loc n
    let v := (atomVal (seenState s x p) (seen s x p) x l).toNat % 2 ^ (8 * n); let c := (atomCmp (seen s x p) x l).toNat % 2 ^ (8 * n)
    ∃ t r b, exec (.amo f) s = .next t ∧ t = laneIssued b x (some r) ∧ r.board = true ∧
      (opFn x ≠ 7 ∨ old = c → WroteBytes s t q.loc n (laneRmw x n old v c)) ∧ (opFn x = 7 → old ≠ c → SameBytes s t) ∧
      WritesLanes s x p r (n / 4) (fun _ k => BitVec.ofNat 32 (old / 2 ^ (32 * k))))

/-- Lane full-empty accesses, PFETCH, RED and AMO (09 R226–R231). The order among lanes is the model's choice (notes/assumptions/12). -/
def Obligations.LaneAtomicsAndFullEmptyComplete : Prop :=
  LaneFullEmptyCompletes ∧ LaneAtomicsUpdate

/-- The accumulator transfers (09 R236–R239): ACCLD writes the active lanes of a tile, ACCRD reads them converted, and ACCST sends an
element of each row and active lane. -/
def Obligations.AccumulatorTransfers : Prop :=
  (∀ (f : LaneL) (s : State) (h' : Hart), let x := lOp 0x69 f; let p := accldPlan x; LaneGo s x p → TilesReady (seen s x p) [opVd x] h' →
    ∃ b, exec (.accld f) s = .next (laneIssued b x none) ∧ b = { seenState s x p with harts := b.harts } ∧
      (∀ k, k ≠ s.cur → hartAt b k = hartAt s k) ∧ (curHart b).accState = h'.accState ∧
      ∀ i l, i < 8 → l < 128 → getAcc (curHart b) (opVd x) i l =
        if (laneActive (seen s x p) x).getLsbD l then (seen s x p).getV (opSa x + i) l else getAcc h' (opVd x) i l) ∧
  (∀ (f : LaneL) (s : State) (h' : Hart), let x := lOp 0x6A f; let p := accrdPlan x; LaneGo s x p → TilesReady (seen s x p) [opSa x] h' →
    ∃ r b, exec (.accrd f) s = .next (laneIssued b x (some r)) ∧ curHart b = h' ∧ b = { seenState s x p with harts := b.harts } ∧
      r.board = true ∧ (tyWidth (opTy x) = 32 → opTy x ≤ 2 → WritesLanes s x p r 8 (fun l k => getAcc h' (opSa x) k l)) ∧
      r = vectorResult x p none (laneActive (seen s x p) x) (fun l =>
        let rs := (List.range 8).map (fun i => accElement h' x (getAcc h' (opSa x) i l))
        ((chunksOf (32 / tyWidth (opTy x)) (8 / (32 / tyWidth (opTy x))) (rs.map Prod.fst)).map (packWord (tyWidth (opTy x))),
         rs.foldl (fun a r => a ||| r.2) 0))) ∧
  (∀ (f : LaneL) (s : State) (h' : Hart) (loc : Nat → Nat → Located), let x := lOp 0x6B f; let p := accstPlan x; LaneGo s x p →
    TilesReady (seen s x p) [opVd x] h' →
    let n := tyWidth (opTy x) / 8
    (∀ i l, i < 8 → active s x p l → vaPlace (setCur (seenState s x p) h') h' .store .amo n
      (h'.iss.capA + BitVec.ofNat 64 i * h'.iss.capB + BitVec.ofNat 64 (l * n)) = .ok (loc i l)) →
    ∃ b fl, exec (.accst f) s = .next (laneIssued b x (some (flagsOnly fl))) ∧
      b.mem.net = s.mem.net ++ (List.range 8).flatMap (fun i => (lanesOf (laneActive (seen s x p) x)).map (fun l =>
        { laneReq s (loc i l).loc (loc i l).mode n (h'.iss.capA + BitVec.ofNat 64 i * h'.iss.capB + BitVec.ofNat 64 (l * n))
            (BitVec.ofNat 64 (accElement h' x (getAcc h' (opVd x) i l)).1) with
          accName := if x.mods.testBit 8 then some (opVd x) else none })) ∧
      SameBytes s b ∧ (x.mods.testBit 8 = false → accSt (curHart b) (opVd x) = accSt h' (opVd x)) ∧
      (x.mods.testBit 8 = true → (∃ l, active s x p l) → accSt (curHart b) (opVd x) = 2))

/-- MMA runs a pass for each whole quarter that is active, on a loaded slot of its workgroup, and binds the tiles it accumulates into;
a slot that is not the workgroup's or not loaded traps, and so does an allowance of 0 (09 R232–R235; 13 R307). -/
def Sys2Proof.Claims.PassesAccumulate : Prop :=
  (∀ (f : LaneL) (s : State) (h' : Hart), let x := lOp 0x68 f; let p := mmaP s x; LaneGo s x p → MmaReady s x →
    TilesReady (seen s x p) ((quarters (laneActive (seen s x p) x)).map (fun q => opVd x + q)) h' →
    ∃ b fl, exec (.mma f) s = .next (laneIssued b x (some (flagsOnly fl))) ∧
      b = { seenState s x p with harts := b.harts, counters := b.counters, free := s.free + 1 } ∧
      (∀ k, k ≠ s.cur → hartAt b k = hartAt s k) ∧
      curHart b = ((quarters (laneActive (seen s x p) x)).foldl (fun (st : Hart × Flags) q => mmaQuarter x (mmaSlotOf s x) q st.1 st.2)
        (h', 0)).1) ∧
  (∀ (f : LaneL) (s : State), let x := lOp 0x68 f; let p := mmaPlan x (mmaMask s x) none; LaneGo s x p →
    (mmaSlotOf s x).owner ≠ (curHart s).wg →
    exec (.mma f) s = .next (laneTrap (seenState s x p)
      { cause := 49, tval := BitVec.ofNat 64 (mmaSlot x), detail := some (mmaSlot x) })) ∧
  (∀ (f : LaneL) (s : State), let x := lOp 0x68 f; let p := mmaPlan x (mmaMask s x) none; LaneGo s x p →
    (mmaSlotOf s x).owner = (curHart s).wg → (mmaSlotOf s x).loaded = false →
    exec (.mma f) s = .next (laneTrap (seenState s x p)
      { cause := 49, tval := BitVec.ofNat 64 (mmaSlot x), detail := some (4 + mmaSlot x) })) ∧
  (∀ (f : LaneL) (s : State), let x := lOp 0x68 f; let p := mmaP s x; LaneGo s x p → (mmaSlotOf s x).owner = (curHart s).wg →
    (mmaSlotOf s x).loaded = true → (partAt s (ownerOf s (curHart s))).allow = 0 →
    exec (.mma f) s = .next (laneTrap (seenState s x p) { cause := 52, tval := opWord0 x }))

/-- An s8 pass adds the exact product of a row and a column to each element of its column block, modulo 2^32, and changes no other
element (09 R234; 03 R84). -/
def Sys2Proof.Claims.IntegerPassIsExact : Prop :=
  ∀ (x : LaneOp) (w : WSlot) (q : Nat) (h : Hart) (fl : Flags), mmaFmt (opTy x) = 6 → w.fmt = 6 → mmaCol x < 2 →
    let g := (mmaQuarter x w q h fl).1; let t := opVd x + q
    (∀ i j, i < 8 → j < 64 → getAcc g t i (mmaCol x * 64 + j) = BitVec.ofInt 32 ((getAcc h t i (mmaCol x * 64 + j)).toNat +
      (((mmaRow h x q i).1.zip (w.ints.getD j [])).map (fun e => e.1 * e.2)).sum)) ∧
    (∀ n i l, i < 8 → l < 128 → (n ≠ t ∨ l / 64 ≠ mmaCol x) → getAcc g n i l = getAcc h n i l) ∧
    (∀ r l, g.getV r l = h.getV r l)

/-- MMA and what one integer pass adds (09 R232–R235; 03 R84; 13 R307). Slices that fuse are a free value, and which trap of an MMA comes
first is the model's choice (notes/assumptions/21, 90). -/
def Obligations.MatrixPassesAccumulate : Prop :=
  PassesAccumulate ∧ IntegerPassIsExact

/-- The limb operations on whole active segments (09 R241–R244): sums and differences with carries, shifts, multiply-add and comparison of
the segments' numbers; a segment partly active traps LIMB_DIVERGE. -/
def Obligations.LimbLanesCompute : Prop :=
  (∀ (f : LaneL) (s : State), let x := lOp 0x70 f; let p := limbPlan s (limbAddPlan x); LaneGo s x p →
    Whole (seen s x p).limbs (laneActive (seen s x p) x) →
    let h := seen s x p; let sum := fun (j : Nat) => segVal h (opSa x) h.limbs j + segVal h (opSb x) h.limbs j + carryIn s x p j
    ∃ r, GivesSegments (.ladd f) s x p 8 r (fun j => sum j % 2 ^ (32 * h.limbs)) (fun _ => none) ∧
      (limbCout x = 15 → r.mask = none) ∧
      (limbCout x ≠ 15 → SegmentBits s x p r (limbCout x) (fun j => 2 ^ (32 * h.limbs) ≤ sum j))) ∧
  (∀ (f : LaneL) (s : State), let x := lOp 0x71 f; let p := limbPlan s (limbAddPlan x); LaneGo s x p →
    Whole (seen s x p).limbs (laneActive (seen s x p) x) →
    let h := seen s x p
    let diff := fun (j : Nat) => (segVal h (opSa x) h.limbs j : Int) - segVal h (opSb x) h.limbs j - carryIn s x p j
    ∃ r, GivesSegments (.lsub f) s x p 8 r (fun j => (diff j % 2 ^ (32 * h.limbs)).toNat) (fun _ => none) ∧
      (limbCout x = 15 → r.mask = none) ∧ (limbCout x ≠ 15 → SegmentBits s x p r (limbCout x) (fun j => diff j < 0))) ∧
  (∀ (f : LaneL) (s : State), let x := lOp 0x72 f; let p := limbPlan s (limbShiftPlan x); LaneGo s x p →
    Whole (seen s x p).limbs (laneActive (seen s x p) x) →
    let h := seen s x p
    ∃ r, GivesSegments (.lshl f) s x p 6 r (fun j => segVal h (opSa x) h.limbs j * 2 ^ limbAmount h x j % 2 ^ (32 * h.limbs))
      (fun _ => none)) ∧
  (∀ (f : LaneL) (s : State), let x := lOp 0x73 f; let p := limbPlan s (limbShiftPlan x); LaneGo s x p →
    Whole (seen s x p).limbs (laneActive (seen s x p) x) →
    let h := seen s x p; let w := 32 * h.limbs
    ∃ r, GivesSegments (.lshr f) s x p 6 r (fun j => if opTy x = 1 then segVal h (opSa x) h.limbs j / 2 ^ limbAmount h x j
      else ((BitVec.ofNat w (segVal h (opSa x) h.limbs j)).sshiftRight (limbAmount h x j)).toNat) (fun _ => none)) ∧
  (∀ (f : LaneL) (s : State), let x := lOp 0x74 f; let p := limbPlan s (lmacPlan (curHart s) x); LaneGo s x p →
    Whole (seen s x p).limbs (laneActive (seen s x p) x) →
    let h := seen s x p; let md := 2 ^ (32 * h.limbs)
    let b := fun (j : Nat) => if opKb x = 1 then h.iss.capB.toNat % 2 ^ 32 else (h.getV (opSb x) (j * h.limbs + limbK x)).toNat
    let v := fun (j : Nat) => segVal h (opVd x) h.limbs j + segVal h (opSa x) h.limbs j * b j
    ∃ r, GivesSegments (.lmac f) s x p 12 r (fun j => v j % md) (fun j => some (x.sc, BitVec.ofNat 32 (v j / md)))) ∧
  (∀ (f : LaneL) (s : State), let x := lOp 0x75 f; let p := limbPlan s (lcmpPlan x); LaneGo s x p →
    Whole (seen s x p).limbs (laneActive (seen s x p) x) →
    let h := seen s x p
    let v := fun (r j : Nat) => if opTy x = 0 then (BitVec.ofNat (32 * h.limbs) (segVal h r h.limbs j)).toInt
      else (segVal h r h.limbs j : Int)
    ∃ r, exec (.lcmp f) s = .next (laneIssued (seenState s x p) x (some r)) ∧ r.vs = [] ∧ r.latency = 8 ∧ r.board = false ∧
      SegmentBits s x p r (opVd x % 16) (fun j => fnHolds (opFn x) (v (opSa x) j < v (opSb x) j) (v (opSa x) j = v (opSb x) j))) ∧
  (∀ e ∈ limbForms, ∀ (f : LaneL) (s : State) (j : Nat), let x := lOp e.2.1 f
    let p := e.2.2 s x; LaneGo s x p → let m := laneActive (seen s x p) x
    j < 128 / (seen s x p).limbs → Mixed (seen s x p).limbs m j → (∀ k < j, ¬ Mixed (seen s x p).limbs m k) →
    exec (e.1 f) s = .next (laneTrap (seenState s x p) { cause := 27, tval := BitVec.ofNat 64 j, detail := some 0 }))

/-- A result of lane words changes exactly its registers in its active lanes: every other register keeps its words there, and every
register in the other lanes; masks, and scalar registers stay (01 R13, R14; 08 R191, R192). -/
def Obligations.InactiveLanesKeepTheirWords : Prop :=
  ∀ (x : LaneOp) (p : Plan) (lat : Option Nat) (m : Mask) (f : Nat → List Word × Flags) (h : Hart),
    let g := landOne h (vectorResult x p lat m f)
    (∀ q l, l < 128 → m.getLsbD l = false → g.getV q l = h.getV q l) ∧
    (∀ q l, l < 128 → m.getLsbD l = true → (∀ k < (f l).1.length, q ≠ opVd x + k) → g.getV q l = h.getV q l) ∧
    (∀ l k, m.getLsbD l = true → l < 128 → k < (f l).1.length → g.getV (opVd x + k) l = (f l).1.getD k 0) ∧
    (∀ q, g.getM q = h.getM q) ∧ ∀ q, g.getX q = h.getX q

/-- A lane instruction that fails a check of 05 R136 traps precisely, in every form: the group's registers are as the earlier lane
instructions left them, and the receiving mode's exception pc, SLPC, SLREM and SLCTL name its LRUN and itself (05 R136; 06 R146; 12
R270). -/
def Obligations.FailedLaneCheckTraps : Prop :=
  (∀ e ∈ checkedL, ∀ (f : LaneL) (s : State) (t : Trap), (curHart s).spec = [] →
    laneCheck (curHart s) (lOp e.2.1 f) (e.2.2 (lOp e.2.1 f)) = some t → exec (e.1 f) s = .next (laneTrap s t)) ∧
  (∀ e ∈ checkedJ, ∀ (f : LaneJ) (s : State) (t : Trap), (curHart s).spec = [] →
    laneCheck (curHart s) (jOp e.2.1 f) (e.2.2 (jOp e.2.1 f)) = some t → exec (e.1 f) s = .next (laneTrap s t)) ∧
  (∀ e ∈ checkedG, ∀ (f : LaneL) (s : State) (t : Trap), (curHart s).spec = [] →
    laneCheck (curHart s) (lOp e.2.1 f) (e.2.2 s (lOp e.2.1 f)) = some t → exec (e.1 f) s = .next (laneTrap s t)) ∧
  (∀ e ∈ checkedFeJ, ∀ (f : LaneJ) (s : State) (t : Trap), (curHart s).spec = [] →
    laneCheck (curHart s) (jOp e.2.1 f) (fePlan (curHart s) (jOp e.2.1 f) e.2.2) = some t → exec (e.1 f) s = .next (laneTrap s t)) ∧
  (∀ (h : Hart) (x : LaneOp) (p : Plan), (p.tyOk = false → laneCheck h x p = some (laneIll x 3)) ∧
    (laneCheck h x p = none → p.tyOk = true ∧ p.bad = false ∧ (x.b.mn = 1#1 → opMs x ≠ 15) ∧
      (p.vspan ≠ 0 → opVd x + p.vspan ≤ h.vcnt))) ∧
  (∀ (s : State) (t : Trap), Plain s → (curHart s).spec = [] → t.intr = false →
    let del := bitAt ((curHart s).getC 0x302) t.cause; let hdel := bitAt ((curHart s).getC 0x602) t.cause
    ((curHart s).priv = .m ∨ del = false → LaneTrapLeaves s t 0x341 false .m) ∧
    ((curHart s).priv ≠ .m → del = true → ((curHart s).virt = false ∨ hdel = false) → LaneTrapLeaves s t 0x141 false .s) ∧
    ((curHart s).priv ≠ .m → del = true → (curHart s).virt = true → hdel = true →
      LaneTrapLeaves s t 0x241 true .s ∧
      ∀ n ∈ [0x5C0, 0x5C1, 0x5C2, 0x5C3, 0x5C4, 0x5C5], (curHart (laneTrap s t)).getC n = (curHart s).getC n))

namespace Sys2Proof.Claims
open Sys2Proof.Machine

section Events
/-- The package answers a state t. -/
def Goes (i : Instr) (s : State) (t : State) : Prop := exec i s = .next t
/-- Nothing happens. -/
def Idle (i : Instr) (s : State) : Prop := exec i s = .next s
/-- The fields of an MBOOT write are in range (12 R269). -/
def BootFields (v : DWord) : Prop :=
  bitAt v 15 = false ∧ bitsOf v 32 27 = 0 ∧ (bitsOf v 28 4 < 12 ∨ bitsOf v 28 4 = 15) ∧ 32 ≤ bitsOf v 16 12 ∧ bitsOf v 16 12 ≤ 1024 ∧
    bitsOf v 16 12 % 32 = 0 ∧ bitsOf v 8 7 ≤ 95
def bootKey (v : DWord) : Nat := bitsOf v 0 8 * 96 + bitsOf v 8 7
/-- The slot is empty and its sub-core has the registers. -/
def BootRoom (s : State) (v : DWord) : Prop :=
  (∀ h, tfind s.harts (bootKey v) = some h → h.run = .empty) ∧
    vcntUsed s (bitsOf v 0 8) (bitsOf v 8 7 / 12) + bitsOf v 16 12 ≤ 1024
/-- A boot group as it starts. -/
def IsBootGroup (h : Hart) (tile slot vcnt pid : Nat) (pc arg : DWord) : Prop :=
  h.tasklet = false ∧ h.priv = .m ∧ h.virt = false ∧ h.pc = pc ∧ h.getX 10 = arg ∧ (∀ q, q ≠ 10 → h.getX q = 0) ∧ h.lpc = 0 ∧
    h.vcnt = vcnt ∧
    h.tile = tile ∧ h.slot = slot ∧ h.pid = pid ∧ h.lkey = 0 ∧ h.em = BitVec.allOnes 128 ∧ h.run = .fetch
/-- Bring-up is in progress at a stage. -/
def InStage (s : State) (n : Nat) : Prop := s.hub.powered = true ∧ s.hub.ready = false ∧ s.hub.fwerr = 0 ∧ s.hub.stage = n
/-- A measurement register was extended with a digest (15 R357). -/
def Extended (s t : State) (i : Nat) (d : List Byte) : Prop := measOf t i = Config.sha3_256 (measOf s i ++ d)
end Events

section Requests
/-- A request word of one operation, as the partition receives it. -/
def asOp (op : Nat) (v : DWord) : DWord := setBits v 61 3 op
/-- The partition takes a request now, and no reserved field rejects it (12 R282, R283). -/
def Accepts (s : State) (p : Nat) (v : DWord) : Prop :=
  (partAt s p).preempt.busy = false ∧ (partAt s p).valid = true ∧ bitsOf v 59 2 ≠ 3
/-- The workgroups of the table that a request names. -/
def Named (s : State) (f : Nat → Wg → Bool) : Prop := ∃ e ∈ s.wgs, f e.1 e.2 = true
def parkable (s : State) (p : Nat) (v : DWord) (k : Nat) (w : Wg) : Bool := inScope s p v k w && !w.parked && !w.terminated
/-- HPSTAT's fields. -/
def Answered (s : State) (p : Nat) (busy : Bool) (result : Nat) : Prop :=
  (partAt s p).preempt.busy = busy ∧ (partAt s p).preempt.result = result
/-- The interrupt file of a group that a message names. -/
def fileOf (s : State) (tile slot file : Nat) : IrqFile :=
  if file = 0 then (hartAt s (hartKey tile slot)).irqS else (hartAt s (hartKey tile slot)).irqG
end Requests

end Sys2Proof.Claims

/-- Power-on, the four stages of bring-up with their failures, recovery, and boot groups (18 R397, R398; 12 R269; 15 R357). What power-on
and RECOVER keep, the first boot group's slot and registers, and the order of MBOOT's results are the model's choices
(notes/assumptions/1, 43, 44, 45, 79). -/
def Obligations.PackageComesUp : Prop :=
  (∀ s : State, ∃ t, Goes .powerOn s t ∧ t.hub.powered = true ∧ t.hub.stage = 1 ∧ t.hub.ready = false ∧ t.hub.fwerr = 0 ∧ t.harts = [] ∧
    t.parts = [] ∧ t.clk = 0 ∧ t.mem.bytes = [] ∧ t.mem.open_ = [] ∧ t.hub.meas = []) ∧
  (∀ (err : BitVec 8) (s : State), InStage s 1 → s.hub.recov = false →
    (s.hub.flash.valid = true → ∃ t, Goes (.bringupStage err) s t ∧ t.hub.stage = 2 ∧ t.hub.fwerr = 0 ∧
      t.hub.imgver = s.hub.flash.version ∧ Extended s t 0 (Config.bootDigest 0) ∧
      Extended s t 1 (Config.sha3_256 (s.hub.flash.image.map Prod.snd)) ∧ Extended s t 2 (Config.bootDigest 2)) ∧
    (s.hub.flash.valid = false → ∃ t, Goes (.bringupStage err) s t ∧ t.hub = { s.hub with fwerr := 1 })) ∧
  (∀ (err : BitVec 8) (s : State), InStage s 2 →
    ((err = 2 ∨ err = 3 ∨ err = 4 ∨ err = 5) → ∃ t, Goes (.bringupStage err) s t ∧ t.hub = { s.hub with fwerr := err }) ∧
    (err = 0 → ∃ t, Goes (.bringupStage err) s t ∧ t.hub.stage = 3 ∧ t.hub.fwerr = 0 ∧ Extended s t 3 (Config.bootDigest 3))) ∧
  (∀ (err : BitVec 8) (s : State), InStage s 1 → s.hub.recov = true →
    ((hostFlash s).valid = true → ∃ t, Goes (.bringupStage err) s t ∧ t.hub.stage = 2 ∧ t.hub.flash = hostFlash s) ∧
    ((hostFlash s).valid = false → ∃ t, Goes (.bringupStage err) s t ∧ t.hub.stage = 1 ∧ t.hub.fwerr = 1 ∧ t.hub.flash = s.hub.flash)) ∧
  (∀ (err : BitVec 8) (s : State), InStage s 3 → (∃ e ∈ s.parts, e.2.resetting = true) → Idle (.bringupStage err) s) ∧
  (∀ (err : BitVec 8) (s : State), InStage s 3 → (∀ e ∈ s.parts, e.2.resetting = false) →
    (err = 6 → ∃ t, Goes (.bringupStage err) s t ∧ t.hub = { s.hub with fwerr := 6 }) ∧
    (err = 0 → ∃ t, Goes (.bringupStage err) s t ∧ t.hub.stage = 4 ∧ t.parts = [(15, { keySlot0 := some (newKeys s) })] ∧
      t.routers = [] ∧ ∀ a, gesso t.mem a = true)) ∧
  (∀ (err : BitVec 8) (s : State), InStage s 4 → ∃ t, Goes (.bringupStage err) s t ∧ t.hub.ready = true ∧ t.hub.recov = false ∧
    t.hub.stage = 4 ∧ IsBootGroup (hartAt t 0) 0 0 32 15 s.hub.flash.entry 0) ∧
  (∀ s : State, s.hub.powered = true →
    (s.hub.recov = true ∧ s.hub.fwerr = 0 → Idle .recover s) ∧
    (¬ (s.hub.recov = true ∧ s.hub.fwerr = 0) → ∃ t, Goes .recover s t ∧ t.hub.recov = true ∧ t.hub.ready = false ∧ t.hub.fwerr = 0 ∧
      t.hub.stage = 1 ∧ t.harts = [] ∧ t.wgs = [] ∧ t.launches = [] ∧ t.hub.flash = s.hub.flash)) ∧
  (∀ (v : DWord) (s : State), bitAt v 63 = true →
    let n := fun (t : State) => t.hub.bootResult.toNat
    (¬ BootFields v → ∃ t, Goes (.bootGroupAdmit v) s t ∧ n t = 3 ∧ t.harts = s.harts) ∧
    (BootFields v → inPart s (bitsOf v 28 4) (bitsOf v 0 8) = false → ∃ t, Goes (.bootGroupAdmit v) s t ∧ n t = 2 ∧ t.harts = s.harts) ∧
    (BootFields v → inPart s (bitsOf v 28 4) (bitsOf v 0 8) = true → ¬ BootRoom s v →
      ∃ t, Goes (.bootGroupAdmit v) s t ∧ n t = 1 ∧ t.harts = s.harts) ∧
    (BootFields v → inPart s (bitsOf v 28 4) (bitsOf v 0 8) = true → BootRoom s v → ∃ t, Goes (.bootGroupAdmit v) s t ∧ n t = 0 ∧
      IsBootGroup (hartAt t (bootKey v)) (bitsOf v 0 8) (bitsOf v 8 7) (bitsOf v 16 12) (bitsOf v 28 4)
        (s.hub.bootPc &&& ~~~(3 : DWord)) s.hub.bootArg ∧ ∀ k, k ≠ bootKey v → hartAt t k = hartAt s k))

/-- Energy reports and windows, thermal limits, end-of-life estimates, timers and interrupt messages (12 R277, R278; 13 R306, R307; 18
R399, R400). That USED stops at its largest value, and that each tile reports for itself, are the model's choices (notes/assumptions/39,
81). -/
def Obligations.MetersTimersAndMessages : Prop :=
  (∀ (tile p uj : Nat) (s : State), s.clk % 1024 = 0 → partOf s tile = some p →
    let k := counterKey 5 tile 0 0
    ∃ t, Goes (.energyMeterReport tile uj) s t ∧ (partAt t p).used = min 0xFFFFFFFF ((partAt s p).used + uj) ∧
      (∀ q, q ≠ p → partAt t q = partAt s q) ∧ tget 0 t.counters k = tget 0 s.counters k + BitVec.ofNat 64 uj ∧
      tget 0 t.latched k = tget 0 s.latched k + BitVec.ofNat 64 uj ∧
      t = { s with parts := t.parts, counters := t.counters, latched := t.latched }) ∧
  (∀ s : State, s.clk % 1200000 = 0 → ∃ t, Goes .energyWindowStart s t ∧
    (∀ p, (partAt t p).used = (partAt s p).used - min (partAt s p).used (partAt s p).allow.toNat) ∧
    t.hub.energyWindows = s.hub.energyWindows + 1 ∧ t = { s with parts := t.parts, hub := t.hub }) ∧
  (∀ (die : Nat) (s : State), ∃ t, Goes (.thermalLimit die) s t ∧ t.hub.therm = true ∧ die ∈ t.hub.hotDies ∧
    (∀ p, energyHeld t p = true) ∧ t = { s with hub := t.hub }) ∧
  (∀ s : State, Goes .thermalClear s { s with hub := { s.hub with therm := false, hotDies := [] } }) ∧
  (∀ (die : Nat) (predict hours : Word) (s : State), die < 4 → ∃ t, Goes (.eolUpdate die predict hours) s t ∧
    eolRead t die = BitVec.ofNat 64 (predict.toNat * 2 ^ 32 + hours.toNat) ∧ (∀ d, d ≠ die → eolRead t d = eolRead s d) ∧
    t = { s with hub := t.hub }) ∧
  (∀ (h : Nat) (s : State), Idle (.timerExpire h) s ∧ (bitAt ((hartAt s h).getC 0x30A) 63 = true →
    (bitAt (mipOf s (hartAt s h)) 5 = true ↔ ((hartAt s h).getC 0x14D).toNat ≤ s.clk / 12))) ∧
  (∀ (tile slot file : Nat) (ident : Word) (s : State), tile < 256 → slot < 96 → file < 2 →
    (hartAt s (hartKey tile slot)).run ≠ .empty → (hartAt s (hartKey tile slot)).run ≠ .exited → 1 ≤ ident.toNat → ident.toNat ≤ 63 →
    ∃ t, Goes (.imsicMessage tile slot file ident) s t ∧
      (∀ i, i < 64 → (fileOf t tile slot file).eip.getLsbD i = (decide (i = ident.toNat) || (fileOf s tile slot file).eip.getLsbD i)) ∧
      (∀ f, f < 2 → f ≠ file → fileOf t tile slot f = fileOf s tile slot f) ∧ ∀ k, k ≠ hartKey tile slot → hartAt t k = hartAt s k)

/-- Pre-emption and termination requests: what each marks, and when a request is refused or ends by its grace (12 R282–R285). Which slot
names a parked workgroup, and the answers for fields out of range, are the model's readings (notes/assumptions/20, 61). -/
def Obligations.PreemptionRequestsMark : Prop :=
  (∀ (p : Nat) (v : DWord) (s : State), (partAt s p).preempt.busy = true →
    Idle (.park p v) s ∧ Idle (.parkAndHold p v) s ∧ Idle (.releaseHold p v) s ∧ Idle (.terminate p v) s) ∧
  (∀ (p : Nat) (v : DWord) (s : State), (partAt s p).preempt.busy = false → ((partAt s p).valid = false ∨ bitsOf v 59 2 = 3) →
    ∀ i ∈ [Instr.park p v, .parkAndHold p v, .releaseHold p v, .terminate p v],
      ∃ t, Goes i s t ∧ Answered t p false 3 ∧ (partAt t p).preempt.word = (partAt s p).preempt.word ∧ t.wgs = s.wgs ∧ t.harts = s.harts) ∧
  (∀ e ∈ [(Instr.park, 1, false), (.parkAndHold, 2, true)], ∀ (p : Nat) (v : DWord) (s : State), Accepts s p v →
    (Named s (parkable s p (asOp e.2.1 v)) → ∃ t, Goes (e.1 p v) s t ∧ Answered t p true 0 ∧
      ∀ k w, tfind s.wgs k = some w → parkable s p (asOp e.2.1 v) k w = true →
        (wgAt t k).marked = true ∧ (wgAt t k).held = e.2.2 ∧
        ∀ m ∈ w.members, (hartAt s m.2).ended = 0 → (hartAt t m.2).preempt = true) ∧
    (¬ Named s (parkable s p (asOp e.2.1 v)) → ∃ t, Goes (e.1 p v) s t ∧ Answered t p false 1 ∧ t.wgs = s.wgs ∧ t.harts = s.harts)) ∧
  (∀ (p : Nat) (v : DWord) (s : State), Accepts s p v →
    (Named s (inHoldScope s p (asOp 3 v)) → ∃ t, Goes (.releaseHold p v) s t ∧ Answered t p false 0 ∧
      (∀ k w, tfind s.wgs k = some w → inHoldScope s p (asOp 3 v) k w = true → (wgAt t k).held = false) ∧ t.harts = s.harts) ∧
    (¬ Named s (inHoldScope s p (asOp 3 v)) → ∃ t, Goes (.releaseHold p v) s t ∧ Answered t p false 1 ∧ t.wgs = s.wgs)) ∧
  (∀ (p : Nat) (v : DWord) (s : State), Accepts s p v →
    (Named s (inScope s p (asOp 4 v)) → ∃ t, Goes (.terminate p v) s t ∧ Answered t p true 0 ∧
      ∀ k w, tfind s.wgs k = some w → inScope s p (asOp 4 v) k w = true →
        (wgAt t k).terminated = true ∧ (wgAt t k).marked = true ∧ (wgAt t k).parked = false) ∧
    (¬ Named s (inScope s p (asOp 4 v)) → ∃ t, Goes (.terminate p v) s t ∧ Answered t p false 1 ∧ t.wgs = s.wgs ∧ t.harts = s.harts)) ∧
  (∀ (p : Nat) (s : State), let q := (partAt s p).preempt
    q.busy = true → (bitsOf q.word 61 3 = 1 ∨ bitsOf q.word 61 3 = 2) → bitsOf q.word 48 8 ≠ 0 →
    (q.since + bitsOf q.word 48 8 * 4096 ≤ s.clk → ∃ t, Goes (.preemptGraceExpire p) s t ∧ Answered t p false 2 ∧ t.harts = s.harts ∧
      ∀ k w, tfind s.wgs k = some w → w.pid = p → w.terminated = false → (wgAt t k).marked = false) ∧
    (s.clk < q.since + bitsOf q.word 48 8 * 4096 → Idle (.preemptGraceExpire p) s))

namespace Sys2Proof.Claims
open Sys2Proof.Machine

section Partitions
/-- The partition that MPARTSEL names (15 R331). -/
def sel (s : State) : Nat := s.hub.partSel.toNat
/-- A rectangle within the mesh that meets no other partition's. -/
def RectFree (s : State) (p : Nat) (r : BitVec 32) : Prop :=
  rectOk r = true ∧ ∀ e ∈ s.parts, e.1 ≠ p → e.2.valid = true → ∀ t, t < 256 → rectHas r t = true → rectHas e.2.rect t = false
/-- The translation cache c serves tile u: its compute core's, its home core's, or its cluster's streamers' (14 R315). -/
def ServesTile (c u : Nat) : Prop := c = u ∨ c = u + 512 ∨ c = clusterOf u + 256
/-- What the start of a partition reset leaves of the partition's work and traffic (15 R350). -/
def Discarded (s t : State) (p : Nat) (freeing : Bool) : Prop :=
  (partAt t p).resetting = true ∧ (partAt t p).freeing = freeing ∧ (partAt t p).resetClk = s.clk ∧ (partAt t p).seqQ = [] ∧
  (∀ k h, tfind t.harts k = some h → ownerOf s h ≠ p) ∧ (∀ e ∈ t.wgs, e.2.pid ≠ p) ∧ (∀ e ∈ t.launches, e.2.pid ≠ p) ∧
    (∀ e ∈ t.copies, e.2.pid ≠ p) ∧
  (∀ r ∈ t.mem.net, r.pid ≠ p)
/-- The chunks of a FREE operand: the first in bits 38:16, and one more than bits 15:0 (15 R345). -/
def FreeChunk (v : DWord) (c : Nat) : Prop := bitsOf v 16 23 ≤ c ∧ c ≤ bitsOf v 16 23 + bitsOf v 0 16
/-- Every chunk of the operand lies in the partition. -/
def FreeNamed (s : State) (p : Nat) (v : DWord) : Prop :=
  bitsOf v 16 23 + bitsOf v 0 16 < 2 ^ 23 ∧ ∀ c, FreeChunk v c → inPart s p (c / 32768) = true
/-- The state in which an EXTEND command reads its operand: its fields are stored (15 R345). -/
def extending (s : State) (v : DWord) : State :=
  modPart s (sel s) (fun q => { q with keyCmd := 3, keyOperand := BitVec.ofNat 39 (bitsOf v 0 39) })
/-- The operand names 32 aligned bytes that Iawick can read. -/
def ExtendNamed (s : State) (v : DWord) : Prop := bitsOf v 0 39 % 32 = 0 ∧ operatorSpan (extending s v) (bitsOf v 0 39) 32 = true
/-- The keys of a version. -/
def keysOf (q : Part) (kv : Bool) : Option KeyPair := if kv then q.keySlot1 else q.keySlot0
/-- A glaze pass has started: the version flips, and the other key slot takes new keys (15 R347). -/
def PassStarted (s t : State) (p : Nat) : Prop :=
  (partAt t p).pass = true ∧ (partAt t p).kv = !(partAt s p).kv ∧ (partAt t p).passStart = s.clk ∧
    keysOf (partAt t p) (!(partAt s p).kv) = some (newKeys s) ∧ keysOf (partAt t p) (partAt s p).kv = keysOf (partAt s p) (partAt s p).kv
/-- No command of MKEYCTL is running for the selected partition. -/
def KeyIdle (s : State) : Prop := (partAt s (sel s)).keyBusy = false
def VarnIdle (s : State) : Prop := (partAt s (sel s)).varnBusy = false
/-- A FLUSHL2 takes this line of an L2 slice away: it is the partition's, and in a way outside its mask unless every way is named. -/
def Flushes (s : State) (p : Nat) (all : Bool) (k : Nat) (e : L2Line) : Prop :=
  e.part = p ∧ (all = true ∨ (wayMask s p (k / 16 / 16384)).testBit (k % 16) = false)
/-- The grants stay as they were and are to stay so. -/
def SameGrants (q u : Part) : Prop := u.grants = q.grants ∧ u.grantsNext = q.grantsNext
def CanPass (s : State) (p : Nat) : Prop :=
  (partAt s p).valid = true ∧ (partAt s p).resetting = false ∧ (partAt s p).pass = false
/-- The bytes of the varnish table that MVARNBASE names. -/
def tableOf (s : State) (p : Nat) : List Byte := varnBytes s (partAt s p).varnBase.toNat
/-- The table can be read and is well formed (16 R363, R364). -/
def TableGood (s : State) (p : Nat) : Prop :=
  (partAt s p).valid = true ∧ operatorSpan s (partAt s p).varnBase.toNat 3860 = true ∧ varnFormOk (tableOf s p) p = true
/-- Its signature by its own key verifies. -/
def TableSigned (s : State) (p : Nat) : Prop :=
  Config.mldsaVerify (varnPart (tableOf s p) 0x80 1312) (varnPart (tableOf s p) 0 0x5A0) (varnPart (tableOf s p) 0x5A0 2420) = true
end Partitions

end Sys2Proof.Claims

/-- Creating, freeing and resetting a partition, up to the end of its reset (15 R332, R333, R338, R350, R351). That a reset which frees
the partition installs new keys too is the model's reading (notes/assumptions/82). -/
def Obligations.PartitionsComeAndGo : Prop :=
  (∀ (v : DWord) (s : State), bitAt v 63 = true → (partAt s (sel s)).valid = false → (partAt s (sel s)).resetting = false →
    let r : BitVec 32 := v.setWidth 32
    (RectFree s (sel s) r → ∃ t, Goes (.partitionCreate v) s t ∧
      let q := partAt t (sel s)
      q.valid = true ∧ q.rect = r ∧ q.refused = false ∧ q.kv = false ∧ q.keySlot0 = some (newKeys s) ∧ q.keySlot1 = none ∧
        q.varnInForce = false ∧
        (∀ p, p ≠ sel s → partAt t p = partAt s p) ∧ (∀ d, rectHas r d = true → tfind t.routers d = none) ∧ SameBytes s t) ∧
    (¬ RectFree s (sel s) r → ∃ t, Goes (.partitionCreate v) s t ∧ (partAt t (sel s)).refused = true ∧
      (partAt t (sel s)).valid = false ∧ t = { s with parts := t.parts })) ∧
  (∀ (v : DWord) (s : State), (partAt s (sel s)).valid = true → (partAt s (sel s)).resetting = false →
    (bitAt v 63 = false → ∃ t, Goes (.partitionFree v) s t ∧ Discarded s t (sel s) true) ∧
    (bitAt v 63 = true → bitAt v 62 = true → v.setWidth 32 = (partAt s (sel s)).rect →
      ∃ t, Goes (.partitionReset v) s t ∧ Discarded s t (sel s) false) ∧
    (bitAt v 63 = true → bitAt v 62 = true → v.setWidth 32 ≠ (partAt s (sel s)).rect →
      ∃ t, Goes (.partitionReset v) s t ∧ (partAt t (sel s)).refused = true ∧ t = { s with parts := t.parts })) ∧
  (∀ (p : Nat) (s : State), let q := partAt s p
    q.resetting = true → q.flushed = false →
    (s.clk < q.resetClk + 2400 → Idle (.partitionResetFlush p) s) ∧
    (q.resetClk + 2400 ≤ s.clk → ∃ t, Goes (.partitionResetFlush p) s t ∧ (partAt t p).flushed = true ∧
      (∀ c ∈ t.mem.copies, rectHas q.rect (homeOf (c.line * 64)) = false) ∧ (∀ e ∈ t.mem.l2, e.2.part ≠ p) ∧
      (∀ e ∈ t.mem.tlbs ++ t.mem.walkCache ++ t.mem.walks.map (fun w => w.entry), ∀ u < 256, ServesTile e.tile u →
        rectHas q.rect u = false) ∧
      SameBytes s t)) ∧
  (∀ (p : Nat) (s : State), let q := partAt s p
    q.resetting = true → q.resetClk + 24000 ≤ s.clk →
    ∃ t, Goes (.partitionResetComplete p) s t ∧
      let u := partAt t p
      u.resetting = false ∧ u.valid = !q.freeing ∧ u.keySlot0.isSome = true ∧ u.keySlot1 = none ∧ u.kv = false ∧ u.varnInForce = false ∧
        u.lease = 64 ∧
        (∀ a, rectHas q.rect (a / 2 ^ 31) = true → gesso t.mem a = true ∧ readBytes t.mem (.mem a) 1 = [0]) ∧
        (∀ a, rectHas q.rect (a / 2 ^ 31) = false → gesso t.mem a = gesso s.mem a ∧
          readBytes t.mem (.mem a) 1 = readBytes s.mem (.mem a) 1) ∧
        (∀ d, rectHas q.rect d = true → tfind t.routers d = none) ∧ (p < 12 → measOf t (4 + p) = List.replicate 32 0))

/-- The key commands of a partition, the end of a chunk's initialisation, and glaze passes (15 R344–R349). -/
def Sys2Proof.Claims.KeyCommandsAndGlazePasses : Prop :=
  (∀ (v : DWord) (s : State), bitsOf v 60 4 = 1 → (partAt s (sel s)).valid = true → KeyIdle s →
    (FreeNamed s (sel s) v → ∃ t, Goes (.free v) s t ∧ (partAt t (sel s)).keyResult = 0 ∧
      (∀ c, FreeChunk v c → gesso t.mem (c * 65536) = true ∧ ∀ i < 65536, readBytes t.mem (.mem (c * 65536 + i)) 1 = [0]) ∧
      ∀ a, ¬ FreeChunk v (a / 65536) → gesso t.mem a = gesso s.mem a ∧ readBytes t.mem (.mem a) 1 = readBytes s.mem (.mem a) 1) ∧
    (¬ FreeNamed s (sel s) v → ∃ t, Goes (.free v) s t ∧ (partAt t (sel s)).keyResult = 2 ∧ t.mem = s.mem)) ∧
  (∀ (v : DWord) (s : State), bitsOf v 60 4 = 2 → (partAt s (sel s)).valid = true → KeyIdle s →
    (bitsOf v 1 38 = 0 → ∃ t, Goes (.flushl2 v) s t ∧ (partAt t (sel s)).keyResult = 0 ∧
      (∀ k e, (k, e) ∈ t.mem.l2 → ¬ Flushes s (sel s) (bitAt v 0) k e) ∧
      (∀ k e, (k, e) ∈ s.mem.l2 → ¬ Flushes s (sel s) (bitAt v 0) k e → (∀ f, (k, f) ∈ s.mem.l2 → f = e) → (k, e) ∈ t.mem.l2) ∧
      t = { s with parts := t.parts, mem := { s.mem with l2 := t.mem.l2, recalls := t.mem.recalls } }) ∧
    (bitsOf v 1 38 ≠ 0 → ∃ t, Goes (.flushl2 v) s t ∧ (partAt t (sel s)).keyResult = 2 ∧ t = { s with parts := t.parts })) ∧
  (∀ (v : DWord) (s : State), bitsOf v 60 4 = 3 → (partAt s (sel s)).valid = true → KeyIdle s →
    (sel s = 15 → ∃ t, Goes (.extend v) s t ∧ (partAt t (sel s)).keyResult = 3) ∧
    (sel s ≠ 15 → ExtendNamed s v → ∃ t, Goes (.extend v) s t ∧
      (partAt t (sel s)).keyResult = 0 ∧ Extended s t (4 + sel s) (readBytes s.mem (.mem (bitsOf v 0 39)) 32) ∧
      ∀ i, i ≠ 4 + sel s → measOf t i = measOf s i) ∧
    (sel s ≠ 15 → ¬ ExtendNamed s v → ∃ t, Goes (.extend v) s t ∧
      (partAt t (sel s)).keyResult = 2 ∧ t.hub = s.hub)) ∧
  (∀ (v : DWord) (s : State), (partAt s (sel s)).valid = false → KeyIdle s → ∀ e ∈ [(Instr.free v, 1), (.flushl2 v, 2), (.extend v, 3)],
    bitsOf v 60 4 = e.2 → ∃ t, Goes e.1 s t ∧ (partAt t (sel s)).keyResult = 1 ∧ t = { s with parts := t.parts }) ∧
  (∀ (c : Nat) (s : State), tget false s.mem.inits c = true → ∃ t, Goes (.gessoInitComplete c) s t ∧
    (∀ a, a / 65536 = c → gesso t.mem a = false) ∧ (∀ a, a / 65536 ≠ c → gesso t.mem a = gesso s.mem a) ∧
    initBusy t.mem (.mem (c * 65536)) = false ∧ SameBytes s t) ∧
  (∀ (v : DWord) (s : State) (p : Nat), bitAt v 62 = true → partOf s (bitsOf v 48 8) = some p → CanPass s p →
    ∃ t, Goes (.glazeStart v) s t ∧ t.hub.glazeEn = bitAt v 63 ∧ (bitAt v 63 = true → PassStarted s t p) ∧
      (bitAt v 63 = false → (partAt t p).pass = false)) ∧
  (∀ (p : Nat) (s : State), CanPass s p → s.hub.glazeEn = true →
    ((partAt s p).passStart + glazePeriod ≤ s.clk → ∃ t, Goes (.glazePassStart p) s t ∧ PassStarted s t p) ∧
    (s.clk < (partAt s p).passStart + glazePeriod → Idle (.glazePassStart p) s)) ∧
  (∀ (chan p : Nat) (s : State), chan < 256 → partOf s chan = some p → inPart s p chan = true → (partAt s p).pass = true →
    let f := tget 0 s.mem.frontier chan; let g := chan * 2 ^ 25 + f
    f + 1 < 2 ^ 25 → gesso s.mem (g * 64) = false → tget false s.mem.poison g = false →
    (tagFails s.mem g = true → ∃ t, Goes (.glazeVisit chan) s t ∧ tget 0 t.mem.frontier chan = f + 1 ∧
      tget false t.mem.poison g = true ∧ t.mem.ver1 = s.mem.ver1 ∧ SameBytes s t ∧ t.parts = s.parts) ∧
    (tagFails s.mem g = false → ∃ t, Goes (.glazeVisit chan) s t ∧ tget 0 t.mem.frontier chan = f + 1 ∧
      tget false t.mem.ver1 g = (partAt s p).kv ∧
      (∀ k, k ≠ g → tget false t.mem.ver1 k = tget false s.mem.ver1 k) ∧ SameBytes s t ∧ t.parts = s.parts))

/-- A varnish table whose signature verifies comes into force: its key and sequence number, and its grants from the next clk; a load that
is not accepted leaves the table in force; revocation keeps the key (16 R363, R364). -/
def Sys2Proof.Claims.VarnishTablesLoad : Prop :=
  (∀ (v : DWord) (s : State), bitsOf v 56 4 = 1 → VarnIdle s → TableGood s (sel s) →
    let q := partAt s (sel s); let bs := tableOf s (sel s)
    (¬ TableSigned s (sel s) → ∃ t, Goes (.varnishLoad v) s t ∧ (partAt t (sel s)).varnResult = 3 ∧ SameGrants q (partAt t (sel s))) ∧
    (TableSigned s (sel s) → q.varnKey = none → ∃ t, Goes (.varnishLoad v) s t ∧
      let u := partAt t (sel s)
      u.varnResult = 0 ∧ u.varnInForce = true ∧ u.varnKey = some (varnPart bs 0x80 1312) ∧
        u.varnSeq = BitVec.ofNat 64 (varnField bs 8 8) ∧ u.grants = q.grants ∧
        (∀ c < 15, grantOf { u with grants := u.grantsNext } c = bs.getD (16 + c) 0) ∧
        Extended s t (4 + sel s) (Config.sha3_256 bs)) ∧
    (∀ key, TableSigned s (sel s) → q.varnKey = some key → key ≠ varnPart bs 0x80 1312 →
      ∃ t, Goes (.varnishLoad v) s t ∧ (partAt t (sel s)).varnResult = 4 ∧ SameGrants q (partAt t (sel s))) ∧
    (TableSigned s (sel s) → q.varnKey = some (varnPart bs 0x80 1312) → varnField bs 8 8 ≤ q.varnSeq.toNat →
      ∃ t, Goes (.varnishLoad v) s t ∧ (partAt t (sel s)).varnResult = 5 ∧ SameGrants q (partAt t (sel s)))) ∧
  (∀ (v : DWord) (s : State), bitsOf v 56 4 = 2 → VarnIdle s → (partAt s (sel s)).valid = true →
    ∃ t, Goes (.varnishRevoke v) s t ∧
      let q := partAt t (sel s)
      q.varnResult = 0 ∧ q.varnInForce = false ∧ q.grants = (partAt s (sel s)).grants ∧ q.grantsNext = [] ∧
        q.varnKey = (partAt s (sel s)).varnKey ∧
        q.varnSeq = (partAt s (sel s)).varnSeq) ∧
  (∀ (v : DWord) (s : State), (partAt s (sel s)).valid = false → VarnIdle s → ∀ e ∈ [(Instr.varnishLoad v, 1), (.varnishRevoke v, 2)],
    bitsOf v 56 4 = e.2 → ∃ t, Goes e.1 s t ∧ (partAt t (sel s)).varnResult = 1 ∧ SameGrants (partAt s (sel s)) (partAt t (sel s)))

/-- Key commands, glaze passes and varnish tables (15 R344–R349; 16 R363, R364). That a command has its effect at once, the order of its
results, and when the first pass is due are the model's choices (notes/assumptions/40, 41, 42, 64). -/
def Obligations.KeysGlazeAndVarnish : Prop :=
  KeyCommandsAndGlazePasses ∧ VarnishTablesLoad

namespace Sys2Proof.Claims
open Sys2Proof.Machine

section Functions
/-- A binding register may take this value: the function is unlocked, the partition is a tenant's, the region lies in its memory, and
fewer than sixteen other functions are bound to it (15 R353). -/
def Bindable (s : State) (f : Nat) (v : DWord) : Prop :=
  1 ≤ f ∧ f ≤ 192 ∧ (vfAt s f).tstate = .unlocked ∧ bitsOf v 56 4 < 12 ∧
    bitsOf v 0 24 + bitsOf v 24 24 ≤ (partTiles s (bitsOf v 56 4)).length * 32768 ∧
    (bitAt v 63 = true → ((boundTo s (bitsOf v 56 4)).filter (fun g => g != f)).length < 16)
/-- A function's mailbox slots are empty and read 0, and the chunks of its region read 0 behind set gesso bits (15 R355). -/
def FunctionCleared (s t : State) (f : Nat) : Prop :=
  (∀ k < 64, isFull t.mem (slotLoc f k) = false ∧ readBytes t.mem (slotLoc f k) 4 = [0, 0, 0, 0]) ∧
  ∀ a, inRegion s (vfAt s f) (a / 65536) = true → gesso t.mem a = true ∧ readBytes t.mem (.mem a) 1 = [0]
/-- Requests reach a function over a session, while no partition resets. -/
def Secured (s : State) (f : Nat) : Prop := s.hub.spdm.session = true ∧ iawickBusy s = false ∧ 1 ≤ f ∧ f ≤ 192
/-- The answer that the package holds for the outside. -/
def Replied (t : State) (r : Reply) : Prop := t.hub.reply = r
/-- A request is well formed, of version 1.3, and finds Iawick free (15 R356, R358). -/
def SpdmReady (s : State) (r : SpdmMsg) : Prop := r.wellFormed = true ∧ r.version = 0x13 ∧ iawickBusy s = false
/-- The connection after the request: its state with its transcript, and an answer of this code with this payload. -/
def Connected (i : Instr) (s : State) (p : Spdm) (code : BitVec 8) (pl : List Byte) : Prop :=
  ∃ t, Goes i s t ∧ t.hub.spdm = p ∧ Replied t (.spdm code pl) ∧ t = { s with hub := t.hub }
/-- A request and its answer as messages, and a transcript that they have joined (15 R358). -/
def requestBytes (r : SpdmMsg) : List Byte := [r.version, r.code, r.param1, r.param2] ++ r.body
def answerBytes (code : BitVec 8) (pl : List Byte) : List Byte := [0x13, code, 0, 0] ++ pl
def kept (s : State) (r : SpdmMsg) (code : BitVec 8) (pl : List Byte) : List (List Byte) :=
  s.hub.spdm.transcript ++ [requestBytes r, answerBytes code pl]
/-- A signed answer: the signature covers the exchanges of the transcript, with `meas` the measurement requests since the last signed one,
the request and what the answer says before it. A signed measurement starts those requests afresh; a challenge leaves both as they are
(15 R358). -/
def Signed (i : Instr) (s : State) (r : SpdmMsg) (meas : Bool) (code : BitVec 8) (pl : List Byte) : Prop :=
  let p := s.hub.spdm
  let said := p.transcript ++ (if meas then p.measured else []) ++ [requestBytes r, answerBytes code pl]
  Connected i s (if meas then { p with measured := [] } else p) code (pl ++ Config.mldsaSign (said.flatMap id))
/-- The capabilities of R356 with DataTransferSize 4,096, and the algorithms of R356 in the answer. -/
def capabilityBytes : List Byte := [0, 0, 0, 0, 0xD6, 0x02, 0, 0, 0x00, 0x10, 0, 0]
noncomputable def algorithmBytes : List Byte := [0x10, 0, 0, 0, 0x08, 0, 0, 0] ++ Config.mldsaId ++ [0x10, 0, 0x02, 0]
/-- What is negotiated. -/
def negotiated : List SpdmAlg := [.measHashSha3, .baseHashSha3, .extAsymMldsa44, .dheSecp384r1, .aeadAes256Gcm]
end Functions

section Outside
/-- The host reaches a function's mailbox page: the physical function's, or a function's in RUN. -/
def MailboxLive (s : State) (f : Nat) : Prop := f = 0 ∨ (s.hub.ready = true ∧ (vfAt s f).tstate = .run ∧ f ≤ 192)
/-- The host reaches a function's memory. -/
def RegionLive (s : State) (f : Nat) : Prop :=
  s.hub.ready = true ∧ (vfAt s f).en = true ∧ (vfAt s f).tstate = .run ∧ (partAt s (vfAt s f).pid).resetting = false
/-- No hart has the number under which a function's or another package's accesses travel. -/
def Outsider (s : State) (k : Nat) : Prop := tfind s.harts k = none
/-- What a refusal of a copy's row r leaves of a far write: the rows from r on are no longer the copy's (07 R185). -/
def withoutRows (k r : Nat) (f : FarWrite) : FarWrite :=
  { f with copy := f.copy.filter (fun c => !(decide (c.1 = k) && decide (r ≤ c.2))) }
/-- An offset of a function's region lies at a local address: chunk MBASE + offset / 64 KiB of the partition's memory, whose chunks count
through its tiles in order (15 R353). -/
def RegionAt (s : State) (f off a : Nat) : Prop :=
  let c := (vfAt s f).mbase + off / 65536
  off / 65536 < (vfAt s f).mlen ∧ (∃ t, (partTiles s (vfAt s f).pid)[c / 32768]? = some t ∧
    a = (t * 32768 + c % 32768) * 65536 + off % 65536)
end Outside

end Sys2Proof.Claims

/-- Virtual functions: their binding, the TDISP states and reports, and what clears them (15 R353–R355). -/
def Obligations.FunctionsLockAndRun : Prop :=
  (∀ (f : Nat) (v : DWord) (s : State),
    (Bindable s f v → ∃ t, Goes (.vfBindingWrite f v) s t ∧
      vfAt t f = { en := bitAt v 63, tstate := .unlocked, pid := bitsOf v 56 4, mlen := bitsOf v 24 24, mbase := bitsOf v 0 24 } ∧
      (∀ g, g ≠ f → vfAt t g = vfAt s g) ∧ t = { s with vfs := t.vfs }) ∧
    (¬ Bindable s f v → Idle (.vfBindingWrite f v) s)) ∧
  (∀ (f : Nat) (s : State), Secured s f → let v := vfAt s f
    (v.tstate = .unlocked → v.en = true → ∃ t, Goes (.lockInterfaceRequest f) s t ∧ vfAt t f = { v with tstate := .locked }) ∧
    (v.tstate ≠ .unlocked ∨ v.en = false → ∃ t, Goes (.lockInterfaceRequest f) s t ∧ Replied t .tdispError ∧ t.vfs = s.vfs) ∧
    (v.tstate = .locked → ∃ t, Goes (.startInterfaceRequest f) s t ∧ vfAt t f = { v with tstate := .run }) ∧
    (v.tstate ≠ .locked → ∃ t, Goes (.startInterfaceRequest f) s t ∧ Replied t .tdispError ∧ t.vfs = s.vfs) ∧
    (v.tstate ≠ .unlocked → ∃ t, Goes (.stopInterfaceRequest f) s t ∧ vfAt t f = { v with tstate := .unlocked } ∧ FunctionCleared s t f) ∧
    (v.tstate = .unlocked → ∃ t, Goes (.stopInterfaceRequest f) s t ∧ t.vfs = s.vfs ∧ SameBytes s t) ∧
    (∃ t, Goes (.getDeviceInterfaceReport f) s t ∧
      Replied t (.tdisp (bindRead v) (partAt s v.pid).rect (measOf s (4 + v.pid))) ∧ t.vfs = s.vfs) ∧
    (∃ t, Goes (.getDeviceInterfaceState f) s t ∧ Replied t (.value (BitVec.ofNat 64 (tstateCode v.tstate))) ∧ t.vfs = s.vfs)) ∧
  (∀ (f : Nat) (s : State), ∀ i ∈ [Instr.functionLevelReset f, .ideStreamFailure f], let v := vfAt s f
    (v.tstate = .locked ∨ v.tstate = .run → ∃ t, Goes i s t ∧ vfAt t f = { v with tstate := .error } ∧ FunctionCleared s t f) ∧
    (v.tstate = .unlocked ∨ v.tstate = .error → Idle i s))

/-- Iawick's SPDM connection: each request in its order, what a signed answer covers, and the errors (15 R356–R358). Codes, places of
flags and signatures are presumed or opaque (notes/assumptions/9). -/
def Obligations.AttestationFollowsItsOrder : Prop :=
  (∀ (r : SpdmMsg) (s : State), r.wellFormed = true →
    Connected (.getVersion r) s { versionDone := true, transcript := [requestBytes r, answerBytes 0x04 [0x13]] } 0x04 [0x13]) ∧
  (∀ (r : SpdmMsg) (s : State), SpdmReady s r → let p := s.hub.spdm
    (p.versionDone = true → p.capsDone = false →
      Connected (.getCapabilities r) s { p with capsDone := true, transcript := kept s r 0x61 capabilityBytes } 0x61 capabilityBytes) ∧
    (p.capsDone = true → p.algsDone = false →
      Connected (.negotiateAlgorithms r) s { p with algsDone := true, algs := negotiated, transcript := kept s r 0x63 algorithmBytes } 0x63
        algorithmBytes) ∧
    (p.algsDone = true →
      let d := Config.sha3_256 Config.certChain
      Connected (.getDigests r) s { p with transcript := kept s r 0x01 d } 0x01 d ∧
      Connected (.getCertificate r) s { p with certDone := true, transcript := kept s r 0x02 Config.certChain } 0x02 Config.certChain ∧
      Signed (.challenge r) s r false 0x03 [] ∧
      Connected (.keyExchange r) s { p with keyExchanged := true, session := false } 0x64 []) ∧
    (∀ m, p.algsDone = true →
      ((1 ≤ r.param2.toNat ∧ r.param2.toNat ≤ 16 ∧ m = measOf s (r.param2.toNat - 1)) ∨ (r.param2 = 0 ∧ m = [16]) ∨
        (r.param2 = 255 ∧ m = (List.range 16).flatMap (measOf s))) →
      (r.param1.getLsbD 0 = false → Connected (.getMeasurements r) s
        { p with measured := p.measured ++ [requestBytes r, answerBytes 0x60 m] } 0x60 m) ∧
      (r.param1.getLsbD 0 = true → Signed (.getMeasurements r) s r true 0x60 m)) ∧
    (p.keyExchanged = true → p.session = false → Connected (.finish r) s { p with session := true } 0x65 []) ∧
    (p.session = true → Connected (.endSession r) s { p with session := false, keyExchanged := false } 0x6C [] ∧
      Connected (.vendorDefinedRequest r) s p 0x7E [])) ∧
  (∀ (r : SpdmMsg) (s : State), spdmCodes.contains r.code = false → r.wellFormed = true →
    (s.hub.spdm.algsDone = true → SpdmReady s r → Goes (.unsupportedRequest r) s (answer s (.spdmError 0x07))) ∧
    (s.hub.spdm.algsDone = false → Goes (.unsupportedRequest r) s (answer s (.spdmError 0x04)))) ∧
  (∀ (r : SpdmMsg) (s : State), r.wellFormed = false → ∀ i ∈ [Instr.getVersion r, .getDigests r, .getCertificate r, .challenge r],
    Goes i s (answer s (.spdmError 0x01))) ∧
  (∀ (r : SpdmMsg) (s : State), r.wellFormed = true → s.hub.spdm.algsDone = false →
    ∀ i ∈ [Instr.getDigests r, .getCertificate r, .challenge r, .keyExchange r], Goes i s (answer s (.spdmError 0x04)))

/-- The host's mailbox and memory accesses, writes from and to other packages, and register writes from outside (00 R10; 15 R353, R354; 18
R392–R396). The size of one host access, and what a refused far write leaves, are the model's readings (notes/assumptions/50, 51). -/
def Obligations.OutsideAccessesReachTheirPlace : Prop :=
  (∀ (f k : Nat) (v : Word) (s : State), k < 64 →
    (MailboxLive s f → Quiet s → heldWrite s (fnAgent f) (slotLoc f k) 4 = false → NoneParked s (slotLoc f k) →
      ∃ t, Goes (.mailboxHostWrite f k v) s t ∧
      WroteBytes s t (slotLoc f k) 4 v.toNat ∧ SetsFull s t (slotLoc f k) true ∧ t = { s with mem := t.mem }) ∧
    (¬ MailboxLive s f → Idle (.mailboxHostWrite f k v) s)) ∧
  (∀ (f k : Nat) (s : State), k < 64 →
    (MailboxLive s f → isFull s.mem (slotLoc f k) = true → NoneParked s (slotLoc f k) → ∃ t, Goes (.mailboxHostTake f k) s t ∧
      Replied t (.value (BitVec.ofNat 64 (homeValue s (slotLoc f k) 4 + 2 ^ 32))) ∧ SetsFull s t (slotLoc f k) false ∧ SameBytes s t) ∧
    (MailboxLive s f → isFull s.mem (slotLoc f k) = false → ∃ t, Goes (.mailboxHostTake f k) s t ∧ Replied t (.value 0) ∧ t.mem = s.mem) ∧
    (¬ MailboxLive s f → ∃ t, Goes (.mailboxHostTake f k) s t ∧ Replied t (.value (BitVec.allOnes 64)) ∧ t.mem = s.mem)) ∧
  (∀ (f off n a : Nat) (v : DWord) (s : State), 1 ≤ n → off % 8 + n ≤ 8 → RegionLive s f → RegionAt s f off a → Quiet s →
    (Outsider s (fnAgent f) → Writable s (fnAgent f) (.mem a) n → ∃ t, Goes (.hostMemAccess f off n (some v)) s t ∧
      WroteBytes s t (.mem a) n v.toNat ∧
      t = { s with mem := t.mem, counters := t.counters } ∧ SliceCounts s t) ∧
    (heldRead s (.mem a) n = false → ∃ t, Goes (.hostMemAccess f off n none) s t ∧ SameBytes s t ∧ t.mem.net = [] ∧
      Replied t (if poisoned s (.mem a) n then .poison else .value (BitVec.ofNat 64 (homeValue s (.mem a) n)))) ∧
    (heldRead s (.mem a) n = true → ∃ t q, Goes (.hostMemAccess f off n none) s t ∧ SameBytes s t ∧ Replied t .none ∧ t.mem.net = [q] ∧
      q.read = true ∧ q.loc = .mem a ∧ q.size = n)) ∧
  (∀ (f off n : Nat) (v : DWord) (s : State), (¬ RegionLive s f ∨ (vfAt s f).mlen ≤ off / 65536) →
    Idle (.hostMemAccess f off n (some v)) s ∧ Goes (.hostMemAccess f off n none) s (answer s .poison)) ∧
  (∀ (s : State) (f off : Nat), 1 ≤ f → f ≤ 192 → s.hub.ready = false → funcRead s f off = BitVec.allOnes 64) ∧
  (∀ (s : State), s.hub.stage < 256 → bitAt (funcRead s 0 0) 63 = s.hub.ready ∧ bitAt (funcRead s 0 0) 62 = s.hub.recov ∧
    bitAt (funcRead s 0 0) 61 = s.hub.therm ∧ funcRead s 0 8 = s.hub.pkg.setWidth 64 ∧ funcRead s 0 0x10 = 0 ∧
      funcRead s 0 0x18 = s.hub.recBase) ∧
  (∀ (s : State) (f k : Nat), k < 64 → MailboxLive s f → (f = 0 ∨ s.hub.ready = true) → f ≤ 192 →
    funcRead s f (0x1000 + 4 * k) = BitVec.ofNat 64 (homeValue s (slotLoc f k) 4) ∧
    funcRead s f (0x1100 + 4 * k) = if isFull s.mem (slotLoc f k) = true then 1 else 0) ∧
  (∀ (p a n : Nat) (v : DWord) (s : State), 1 ≤ n → n ≤ 8 → a + n ≤ 2 ^ 39 →
    (inPart s p (homeOf a) = true → Quiet s → Outsider s 0xFFFFF9 → Writable s 0xFFFFF9 (.mem a) n →
      ∃ t, Goes (.farWriteReceive p a n v) s t ∧
      Replied t (.farWrite true) ∧ WroteBytes s t (.mem a) n v.toNat) ∧
    (inPart s p (homeOf a) = false → Goes (.farWriteReceive p a n v) s (answer s (.farWrite false)))) ∧
  (∀ (i : Nat) (w : FarWrite) (s : State), s.mem.farOut[i]? = some w →
    (∃ t, Goes (.farWriteAcknowledgement i true) s t ∧ t.mem.farOut = eraseAt s.mem.farOut i ∧ t.copies = s.copies ∧ SameBytes s t) ∧
    (∀ k r c, w.copy = some (k, r) → tfind s.copies k = some c → ∃ t, Goes (.farWriteAcknowledgement i false) s t ∧
      t.mem.farOut = (eraseAt s.mem.farOut i).map (withoutRows k r) ∧ (copyAt t k).parked = true ∧ (copyAt t k).row = min r c.row ∧
      (c.parked = false → (copyAt t k).cause = 2 ∧ (copyAt t k).msgSent = false) ∧
      (c.parked = true → (copyAt t k).cause = c.cause ∧ (copyAt t k).msgSent = c.msgSent))) ∧
  (∀ (v : DWord) (s : State),
    Goes (.registerWrite (.func 0 0x18) v) s (modHub s (fun u => { u with recBase := v &&& ~~~(0xFFF : DWord) })) ∧
    (bitAt v 63 = false → ∃ t, Goes (.registerWrite (.func 0 8) v) s t ∧ t.hub.pkg.toNat = bitsOf v 0 8 ∧ t = { s with hub := t.hub }) ∧
    (∀ k < 256, ∃ t, Goes (.registerWrite (.func 0 (0x40000 + 8 * k)) v) s t ∧
      tget {} t.hub.far k = { valid := bitAt v 63, part := bitsOf v 16 4, port := bitsOf v 0 4 } ∧
      ∀ j, j ≠ k → tget {} t.hub.far j = tget {} s.hub.far j) ∧
    (∀ p, ∃ t, Goes (.registerWrite (.ctl p 0) v) s t ∧ (partAt t p).lease = max 1 (bitsOf v 0 14)))

namespace Sys2Proof.Claims
open Sys2Proof.Machine

section Debug
/-- A block's selection: class, index, tile and slot (16 R360). -/
def selClass (s : State) (b : Nat) : Nat := bitsOf (kiwiowAt s b).sel 59 5
def selIndex (s : State) (b : Nat) : Nat := bitsOf (kiwiowAt s b).sel 0 32
def selTile (s : State) (b : Nat) : Nat := bitsOf (kiwiowAt s b).sel 48 8
/-- A usable block of a partition's own reader. -/
def OwnBlock (s : State) (b : Nat) : Prop := blockOk s b = true ∧ ownReader b = true
/-- The reply to a read, and the status it leaves (16 R360). -/
def ReadGives (i : Instr) (s : State) (b : Nat) (v stat : DWord) : Prop :=
  ∃ t, Goes i s t ∧ Replied t (.value v) ∧ (kiwiowAt t b).stat = stat ∧ SameBytes s t ∧ t.harts = s.harts
/-- A ring register after a write: EN stays only where the ring lies in memory of the reader's partition (16 R360). -/
def Ring (s : State) (b : Nat) (v r : DWord) : Prop :=
  (ringNamed s b v = true → r = v) ∧ (ringNamed s b v = false → bitAt r 0 = false ∧ r >>> 1 = v >>> 1)
/-- The stop register of a block after a command (16 R360, R368). -/
def StopAnswer (t : State) (b result : Nat) (busy : Bool) : Prop :=
  (kiwiowAt t b).stopResult.toNat = result ∧ (kiwiowAt t b).stopBusy = busy
/-- A stop command of an operation names a tile and a slot, and the block takes commands. -/
def StopWord (s : State) (b op : Nat) (v : DWord) : Prop :=
  blockOk s b = true ∧ (kiwiowAt s b).stopBusy = false ∧ bitsOf v 62 2 = op ∧ ownReader b = true
/-- The maker port's blocks 16 to 31 are the physical function's blocks 0 to 15 (16 R359; the numbers are those of notes/assumptions/78). -/
def SameAsPhysical (s : State) (b : Nat) (v : DWord) : Prop :=
  exec (.kdataRead (16 + b)) s = exec (.kdataRead b) s ∧ exec (.kdataWrite (16 + b) v) s = exec (.kdataWrite b v) s ∧
  exec (.ktrcWrite (16 + b) v) s = exec (.ktrcWrite b v) s ∧ exec (.ksktWrite (16 + b) v) s = exec (.ksktWrite b v) s ∧
  exec (.kstopStop (16 + b) v) s = exec (.kstopStop b v) s ∧ exec (.kstopRelease (16 + b) v) s = exec (.kstopRelease b v) s
/-- Exactly one tile lies in the partition that a function's block addresses. -/
def OneTile (s : State) (b T : Nat) : Prop := T < 256 ∧ ∀ t, t < 256 → (blockTile s b t = true ↔ t = T)
end Debug

section Issue
/-- The turn that an offer is granted. -/
def turnOf (o : Offer) : Turn := if o.lane then .lane o.hart else .scalar o.hart
/-- No offer of the list ranks above o. -/
def Highest (s : State) (tile sc : Nat) (o : Offer) (l : List Offer) : Prop :=
  o ∈ l ∧ ∀ p ∈ l, lexLt (rankKey s tile sc p) (rankKey s tile sc o) = false
/-- The offers that may join a first pick: another pipe, or a lane instruction that uses none (13 R299). -/
def others (o : Offer) (l : List Offer) : List Offer := l.filter (fun p => p != o && (p.pipe != o.pipe || p.pipe == 5))
end Issue

end Sys2Proof.Claims

/-- Debug registers: rings, filtered reads, register access of stopped agents, precise stops, the sketch pulse and firmware's maker port
(16 R359–R369). The order of KSTOP's results, the moment of a record, what KDATA stores and the maker port's numbers are the model's
readings (notes/assumptions/47, 56, 78, 80). -/
def Obligations.DebugBlocksAnswer : Prop :=
  (∀ (b : Nat) (v : DWord) (s : State), blockOk s b = true →
    (∃ t, Goes (.ktrcWrite b v) s t ∧ Ring s b v (kiwiowAt t b).trc ∧
      ((kiwiowAt s b).trc >>> 1 ≠ v >>> 1 → (kiwiowAt t b).trcWr = 0 ∧ (kiwiowAt t b).trcRd = 0) ∧
      ((kiwiowAt s b).trc >>> 1 = v >>> 1 → (kiwiowAt t b).trcWr = (kiwiowAt s b).trcWr) ∧ t = { s with kiwiow := t.kiwiow }) ∧
    (∃ t, Goes (.ksktWrite b v) s t ∧ Ring s b v (kiwiowAt t b).skt ∧
      ((kiwiowAt s b).skt >>> 1 ≠ v >>> 1 → (kiwiowAt t b).sktWr = 0 ∧ (kiwiowAt t b).sktRd = 0) ∧
      ((kiwiowAt s b).skt >>> 1 = v >>> 1 → (kiwiowAt t b).sktWr = (kiwiowAt s b).sktWr) ∧ t = { s with kiwiow := t.kiwiow })) ∧
  (∀ (b : Nat) (v : DWord) (s : State), (b < 16 ∨ 32 ≤ b) → blockOk s b = false → Idle (.ktrcWrite b v) s ∧
    Idle (.ksktWrite b v) s ∧ Idle (.kdataWrite b v) s ∧
    Idle (.kstopStop b v) s ∧ Idle (.kstopRelease b v) s) ∧
  (∀ (b : Nat) (s : State), OwnBlock s b → selClass s b ≤ 4 →
    let c := selClass s b; let i := selIndex s b; let ev := i % 256; let u := i / 256 % 256
    ev < evCount c → i < 65536 → unitOk c u = true → blockTile s b (selTile s b) = true →
    ReadGives (.kdataRead b) s b (tget 0 s.counters (selKey c (selTile s b) u ev)) 0) ∧
  (∀ (b : Nat) (s : State), blockOk s b = true → ownReader b = false → selClass s b ≤ 4 → selIndex s b % 256 < evCount (selClass s b) →
    selIndex s b < 65536 → unitOk (selClass s b) (selIndex s b / 256 % 256) = true → blockTile s b (selTile s b) = true →
    grantCode (partAt s (blockPart s b)) (selClass s b) = 0 → ReadGives (.kdataRead b) s b 0 3) ∧
  (∀ (b k i : Nat) (v : DWord) (s : State), OwnBlock s b → selClass s b = 14 → selAgent s b = some k → selIndex s b = i →
    (hartAt s k).tasklet = false → i < 32 →
    ReadGives (.kdataRead b) s b ((hartAt s k).getX (BitVec.ofNat 5 i)) 0 ∧
    ∃ t, Goes (.kdataWrite b v) s t ∧ (kiwiowAt t b).stat = 0 ∧
      (∀ q : Reg, (hartAt t k).getX q = if q.toNat = i ∧ i ≠ 0 then v else (hartAt s k).getX q) ∧
      (hartAt t k).pc = (hartAt s k).pc ∧ (∀ j, j ≠ k → hartAt t j = hartAt s j) ∧ SameBytes s t) ∧
  (∀ (b : Nat) (v : DWord) (s : State), StopWord s b 1 v → let tile := bitsOf v 48 8; let slot := bitsOf v 40 8
    (blockTile s b tile = false → ∃ t, Goes (.kstopStop b v) s t ∧ StopAnswer t b 4 false ∧ t.harts = s.harts) ∧
    (blockTile s b tile = true → slotAgent s tile slot = none → ∃ t, Goes (.kstopStop b v) s t ∧ StopAnswer t b 1 false ∧
      t.harts = s.harts) ∧
    (∀ k, blockTile s b tile = true → slotAgent s tile slot = some k → (hartAt s k).run ≠ .exited →
      ((hartAt s k).run = .stopped → ∃ t, Goes (.kstopStop b v) s t ∧ StopAnswer t b 0 false ∧ t.harts = s.harts) ∧
      ((hartAt s k).run ≠ .stopped → ∃ t, Goes (.kstopStop b v) s t ∧ (kiwiowAt t b).stopBusy = true ∧
        hartAt t k = { hartAt s k with stopReq := true }))) ∧
  (∀ (h : Nat) (s : State), (tfind s.harts h).isSome → (hartAt s h).tasklet = false → (hartAt s h).stopReq = true →
    (hartAt s h).run ≠ .stopped → atBoundary (hartAt s h) = true → (hartAt s h).laneQ = [] → (hartAt s h).laneFe = none →
    (∀ c, (hartAt s h).wait ≠ .copyOwn c) →
    ∃ t, Goes (.debugStopTake h) s t ∧ (hartAt t h).run = .stopped ∧ (hartAt t h).prior = (hartAt s h).run ∧
      (hartAt t h).wait = .nothing ∧ (hartAt t h).stopReq = false ∧
      (hartAt t h).pc = (hartAt s h).pc ∧ (hartAt t h).pend = [] ∧ (∀ p ∈ t.mem.parks, p.agent ≠ h) ∧ SameBytes s t) ∧
  (∀ (b k : Nat) (v : DWord) (s : State), StopWord s b 2 v → blockTile s b (bitsOf v 48 8) = true →
    slotAgent s (bitsOf v 48 8) (bitsOf v 40 8) = some k → (hartAt s k).run = .stopped →
    ∃ t, Goes (.kstopRelease b v) s t ∧ StopAnswer t b 0 false ∧
      hartAt t k = { hartAt s k with run := (hartAt s k).prior, stopReq := false }) ∧
  (∀ s : State, pulseDue s = false → Idle .sketchPulse s) ∧
  (∀ (b T : Nat) (k : Kiwiow) (s : State), pulseDue s = true → s.kiwiow = [(b, k)] → OwnBlock s b → OneTile s b T →
    ringOn k.skt = true → ringNamed s b k.skt = true →
    let bs := sketchRecord s T ((partOf s T).getD 14) 0 k.stream.drop; let size := ringSize k.skt
    bs.length ≤ ringFree size k.sktRd.toNat k.sktWr.toNat →
      ringPoison s (bitsOf k.skt 16 48 * 65536) size k.sktWr.toNat bs.length = false →
    ∃ t, Goes .sketchPulse s t ∧ t.mem = (ringWrite s (bitsOf k.skt 16 48 * 65536) size k.sktWr.toNat bs).mem ∧
      (kiwiowAt t b).sktWr = BitVec.ofNat 32 ((k.sktWr.toNat + bs.length) % size) ∧ (kiwiowAt t b).stream.drop = false) ∧
  (∀ (b off : Nat) (v : DWord) (s : State), b < 16 →
    (firmware s = true → SameAsPhysical s b v ∧ (off < 256 → exec (.registerWrite (.maker b off) v) s =
      exec (.registerWrite (.func 0 (0x30000 + 256 * b + off)) v) s)) ∧
    (firmware s = false → Idle (.kdataWrite (16 + b) v) s ∧ Idle (.kstopStop (16 + b) v) s ∧ Idle (.registerWrite (.maker b off) v) s ∧
      Goes (.kdataRead (16 + b)) s (answer s (.value 0)))) ∧
  (∀ (die n : Nat) (s : State), n < 64 → (∃ t v, Goes (.kdataRead (1024 + 64 * die + n)) s t ∧ Replied t (.value v) ∧
    (firmware s = false → v = 0 ∧ t.free = s.free) ∧ (firmware s = true → t.free = s.free + 1) ∧
      t = { s with hub := t.hub, free := t.free }))

/-- Issue: at most two picks in rank order, after the turns of lane instructions that were issued and held, the starvation boost, the end
of a yield, lane results written when due, and what a boundary takes: the fault of a posted store, else an interrupt (05 R137; 06 R161; 12
R273, R274; 13 R299–R301). That turns follow the picks in order, and that two NOPs may be picked, and when a posted store's fault is
taken, are the model's choices (notes/assumptions/1, 76, 87). -/
def Obligations.IssuePicksByRank : Prop :=
  (∀ (tile sc : Nat) (s : State), ∃ t, Goes (.issuePick tile sc) s t ∧ ∃ (ps : List Offer) (held : List Nat),
    t.turns = s.turns ++ held.map Turn.lane ++ ps.map turnOf ∧ (∀ k ∈ held, (hartAt s k).laneWait ≠ .nothing ∧ (hartAt s k).laneQ ≠ []) ∧
    (offersOf s tile sc = [] → ps = []) ∧
    (offersOf s tile sc ≠ [] → ∃ a, Highest s tile sc a (offersOf s tile sc) ∧
      ((others a (offersOf s tile sc) = [] ∧ ps = [a]) ∨ ∃ b, Highest s tile sc b (others a (offersOf s tile sc)) ∧ ps = [a, b])) ∧
    SameBytes s t ∧ ∀ k, (hartAt t k).pc = (hartAt s k).pc ∧ (hartAt t k).laneQ = (hartAt s k).laneQ ∧
      ∀ q, (hartAt t k).getX q = (hartAt s k).getX q) ∧
  (∀ (h : Nat) (s : State), (tfind s.harts h).isSome → (hartAt s h).tasklet = false →
    ((hartAt s h).starve < 240 → Idle (.starvationBoost h) s) ∧
    (240 ≤ (hartAt s h).starve → (hartAt s h).boost = none → ∃ t, Goes (.starvationBoost h) s t ∧
      hartAt t h = { hartAt s h with boost := some s.seqNo } ∧ t.seqNo = s.seqNo + 1 ∧ ∀ k, k ≠ h → hartAt t k = hartAt s k)) ∧
  (∀ (h e : Nat) (s : State), (hartAt s h).yieldTo = some e →
    (s.clk < e → (hartAt s h).yieldFor ≠ [] → Idle (.yieldExpire h) s) ∧
    (e ≤ s.clk ∨ (hartAt s h).yieldFor = [] → ∃ t, Goes (.yieldExpire h) s t ∧
      hartAt t h = { hartAt s h with yieldTo := none, yieldFor := [] } ∧ ∀ k, k ≠ h → hartAt t k = hartAt s k)) ∧
  (∀ (h : Nat) (k : Hart) (s : State), tfind s.harts h = some k →
    ((∀ p ∈ k.pend, p.landed = true ∨ (p.board = false ∧ s.clk < p.due)) → ∃ t, Goes (.laneResultWrite h) s t ∧ hartAt t h = k) ∧
    (∀ p rest, k.pend = p :: rest → p.landed = false → (p.board = true ∨ p.due ≤ s.clk) →
      ∃ t l, Goes (.laneResultWrite h) s t ∧ hartAt t h = { landOne k p with pend := l } ∧ ∀ j, j ≠ h → hartAt t j = hartAt s j)) ∧
  (∀ (h : Nat) (s : State), (hartAt s h).lateFaults = [] → (atBoundary (hartAt s h) = false ∨ pendingIrq s (hartAt s h) = none) →
    Idle (.trapEntry h) s) ∧
  (∀ (h c : Nat) (s : State), mayInterrupt s (hartAt s h) = true → (hartAt s h).laneQ = [] → (hartAt s h).laneFe = none →
    (hartAt s h).lateFaults = [] → (hartAt s h).wait ≠ .wfi → (∀ k, (hartAt s h).wait ≠ .copyOwn k) →
    (pendingIrq s (hartAt s h) = some ({ cause := c, intr := true }, .m) → ∃ t, Goes (.trapEntry h) s t ∧
      let g := hartAt t h
      g.priv = .m ∧ g.virt = false ∧ g.getC 0x341 = (hartAt s h).pc ∧ g.getC 0x342 = BitVec.ofNat 64 (2 ^ 63 + c % 2 ^ 63) ∧
        bitsOf (g.getC 0x300) 3 1 = 0 ∧ g.wait = .nothing ∧ ∀ p ∈ t.mem.parks, p.agent ≠ h) ∧
    (pendingIrq s (hartAt s h) = some ({ cause := c, intr := true }, .hs) → ∃ t, Goes (.trapEntry h) s t ∧
      let g := hartAt t h
      g.priv = .s ∧ g.virt = false ∧ g.getC 0x141 = (hartAt s h).pc ∧ g.getC 0x142 = BitVec.ofNat 64 (2 ^ 63 + c % 2 ^ 63) ∧
        bitsOf (g.getC 0x300) 1 1 = 0 ∧ g.wait = .nothing ∧ ∀ p ∈ t.mem.parks, p.agent ≠ h)) ∧
  (∀ (h : Nat) (va : DWord) (rest : List DWord) (s : State), mayInterrupt s (hartAt s h) = true → (hartAt s h).laneQ = [] →
    (hartAt s h).laneFe = none → (∀ k, (hartAt s h).wait ≠ .copyOwn k) → (hartAt s h).lateFaults = va :: rest →
    ((hartAt s h).priv = .m ∨ bitAt ((hartAt s h).getC 0x302) 7 = false) → ∃ t, Goes (.trapEntry h) s t ∧
      let g := hartAt t h
      g.priv = .m ∧ g.virt = false ∧ g.getC 0x341 = (hartAt s h).pc ∧ g.getC 0x342 = 7 ∧ g.getC 0x343 = va ∧ g.lateFaults = rest ∧
        g.wait = .nothing)

namespace Sys2Proof.Claims
open Sys2Proof.Machine

section Scheduling
/-- A member of a fresh workgroup (02 R63; 12 R268). -/
def IsMember (h : Hart) (k : Kernel) (arg : DWord) (w rank : Nat) : Prop :=
  h.tasklet = false ∧ h.priv = .u ∧ h.pc = k.sentry ∧ h.getX 10 = arg ∧ (∀ q, q ≠ 10 → h.getX q = 0) ∧ h.vcnt = k.vcnt ∧
    h.accQuota = k.acc ∧
    h.wg = w ∧ h.rank = rank ∧ h.em = BitVec.allOnes 128 ∧ h.run = .fetch ∧ h.msp = 0 ∧ h.v = []
/-- Nothing of a core's own list resumes first, and its easel's bottom entry fits at a sub-core base and a first bank (13 R297). -/
def MayAdmit (s : State) (tile : Nat) (e : EaselEntry) (rest : List EaselEntry) (b f : Nat) : Prop :=
  resumeChoice s tile = none ∧ (easelAt s tile).resident = e :: rest ∧ canTake s tile e = some (b, f)
/-- The word at a place now holds a word of data and is full; nothing else of memory has changed. -/
def FilledWord (s t : State) (l : Loc) (w : Word) : Prop := WroteBytes s t l 4 w.toNat ∧ SetsFull s t l true
/-- Every agent but one is as before. -/
def OnlyHart (s t : State) (h : Nat) : Prop := ∀ k, k ≠ h → hartAt t k = hartAt s k
/-- The sequencer of partition p is about to check its oldest LAUNCH (13 R294). -/
def NextLaunch (s : State) (p : Nat) (e : SeqEntry) (rest : List SeqEntry) : Prop :=
  (∀ l ∈ s.launches, l.2.pid = p → l.2.placed = true) ∧ (partAt s p).seqQ = e :: rest
def popped (s : State) (p : Nat) (rest : List SeqEntry) : State := modPart s p (fun q => { q with seqQ := rest })
/-- Checks 5 to 9 pass, and nothing that they read is held: the words named, and the state whose routers are loaded (06 R154). -/
def ChecksPass (s : State) (h : Hart) (p : Nat) (d : Desc) (c m w : Loc) (s' : State) : Prop :=
  splitsAgree s d = true ∧ issuerWord s h d.compl = some c ∧ issuerPair s h d.mbox = some (m, w) ∧ runningCount s p < 64 ∧
    issuerHeld s h d.compl = false ∧ issuerHeld s h d.mbox = false ∧ issuerHeld s h (d.mbox + 4) = false ∧
    loadRouters s p (rectTiles d.rect) = (s', some true) ∧
    ∀ t ∈ rectTiles d.rect, reservedOn s' t + d.p ≤ freeEntries s' p t
/-- The launch with every initial workgroup of its rectangle pushed, or nothing where one of them waits for a held place of its spill ring
(13 R295; 04 R106). -/
def placedAll (s : State) (l : Nat) (r : Launch) : Option State :=
  (rectTiles r.rect).foldl (fun (a : Option State) t => a.bind (fun s => placeTile s l r t)) (some s)
end Scheduling

end Sys2Proof.Claims

/-- The launch sequencer: a failing check answers its status, a LAUNCH that passes them waits for its placement, the placement retires it
with its LAUNCHID, and completion writes the status word (01 R25, R26; 06 R154; 13 R294, R295). The first LAUNCHID, and which reading of a
descriptor counts, are the model's choices (notes/assumptions/5, 74). -/
def Obligations.LaunchesRunTheirCourse : Prop :=
  (∀ (p : Nat) (e : SeqEntry) (rest : List SeqEntry) (s : State), NextLaunch s p e rest →
    (∀ n, launchChecks s e.hart p e.desc = .error (.status n) → ∃ t, Goes (.launchCheck p) s t ∧ (partAt t p).seqQ = rest ∧
      WroteX (hartAt s e.hart) (hartAt t e.hart) e.rd (BitVec.ofNat 64 n) ((hartAt s e.hart).pc + 4) ∧ OnlyHart s t e.hart ∧
        SameBytes s t) ∧
    (launchChecks s e.hart p e.desc = .error .held → ∃ t, Goes (.launchCheck p) s t ∧ t = { s with harts := t.harts } ∧
      hartAt t e.hart = { hartAt s e.hart with indiv := true } ∧ OnlyHart s t e.hart) ∧
    (∀ s' d ks, launchChecks s e.hart p e.desc = .ok (s', d, ks) → let b := popped s' p rest
      (splitsAgree b d = false → ∃ t, Goes (.launchCheck p) s t ∧
        WroteX (hartAt b e.hart) (hartAt t e.hart) e.rd 5 ((hartAt b e.hart).pc + 4)) ∧
      (∀ c m w s2, ChecksPass b (hartAt b e.hart) p d c m w s2 → ∃ t, Goes (.launchCheck p) s t ∧
        t.nextLaunch = s2.nextLaunch + 1 ∧ hartAt t e.hart = { hartAt s2 e.hart with wait := .placing s2.nextLaunch e.rd } ∧
        let l := launchAt t s2.nextLaunch
        (∀ j ∈ s.launches, j.2.pid = p → running j.2 = true → j.2.lid ≠ l.lid) ∧ (partAt t p).lidCtr = (l.lid + 1) % 2 ^ 32 ∧
        ((∀ j ∈ s.launches, j.2.pid = p → running j.2 = true → j.2.lid ≠ (partAt s2 p).lidCtr) → (partAt s2 p).lidCtr < 2 ^ 32 →
          l.lid = (partAt s2 p).lidCtr) ∧
        l.pid = p ∧ l.hpid = (hartAt s2 e.hart).pid ∧ l.kernels = ks ∧ l.compl = c ∧ l.mbox = m ∧ l.cmdw = w ∧ l.arg = d.arg ∧
          l.placed = false))) ∧
  (∀ (l h : Nat) (k : Hart) (rd : Reg) (r : Launch) (s : State), tfind s.launches l = some r → r.placed = false → Quiet s →
    tfind s.harts h = some k → k.wait = .placing l rd → (∀ e ∈ s.harts, (∃ q, e.2.wait = .placing l q) → e.1 = h) →
    (placedAll s l r = none → Idle (.launchInitialPlacement l) s) ∧
    ((placedAll s l r).isSome = true → ∃ t, Goes (.launchInitialPlacement l) s t ∧ (launchAt t l).placed = true ∧
      WroteX k (hartAt t h) rd (BitVec.ofNat 64 (r.lid * 2 ^ 32)) (k.pc + 4) ∧ OnlyHart s t h ∧
      ∀ T, rectTiles r.rect = [T] → r.p = 1 → (easelAt s T).resident.length < 32 → (easelAt t T).resident =
        { lkey := l, kidx := r.kidx, arg := r.arg, joinWord := 0, wgid := ((tileRow T - r.rowo) * r.width + (tileCol T - r.colo)) * 1 } ::
          (easelAt s T).resident)) ∧
  (∀ (l : Nat) (s : State), launchFinished s l = true →
    (issuerOwns s (launchAt s l) (launchAt s l).compl = true → NoneParked s (launchAt s l).compl →
      heldWrite s 0xFFFFFE (launchAt s l).compl 4 = false → ∃ t, Goes (.launchComplete l) s t ∧
        FilledWord s t (launchAt s l).compl (statusWord (launchAt s l)) ∧ t.harts = s.harts ∧
        ((launchAt s l).headers = [] → tfind t.launches l = none)) ∧
    (issuerOwns s (launchAt s l) (launchAt s l).compl = true → heldWrite s 0xFFFFFE (launchAt s l).compl 4 = true →
      Idle (.launchComplete l) s) ∧
    (issuerOwns s (launchAt s l) (launchAt s l).compl = false → ∃ t, Goes (.launchComplete l) s t ∧ t.mem = s.mem)) ∧
  (∀ (l n : Nat) (w : Word) (rest : List (Nat × Word)) (s : State), (tfind s.launches l).isSome →
    (launchAt s l).headers = (n, w) :: rest → (launchAt s l).records = [] → (launchAt s l).done = false → let m := (launchAt s l).mbox
    (issuerOwns s (launchAt s l) m = true → isFull s.mem m = false → heldWrite s 0xFFFFFE m 4 = false → NoneParked s m →
      messageBefore s m n = false → ∃ t, Goes (.mboxHeaderWrite l) s t ∧ FilledWord s t m w ∧ (launchAt t l).headers = rest) ∧
    (issuerOwns s (launchAt s l) m = true → isFull s.mem m = true ∨ messageBefore s m n = true → Idle (.mboxHeaderWrite l) s) ∧
    (issuerOwns s (launchAt s l) m = false → ∃ t, Goes (.mboxHeaderWrite l) s t ∧ (launchAt t l).headers = rest ∧ t.mem = s.mem))

/-- Admission, the refill of an easel, the end of a group, its workgroup's release, and a JOIN that is satisfied (01 R20–R23, R29, R32; 06
R158–R160; 13 R297). The slots and banks that an admission takes are the model's choice (notes/assumptions/16). -/
def Obligations.WorkgroupsComeAndGo : Prop :=
  (∀ (tile b f : Nat) (e : EaselEntry) (rest : List EaselEntry) (s : State), MayAdmit s tile e rest b f →
    let l := launchAt s e.lkey; let k := l.kernels.getD e.kidx {}
    ∃ t, Goes (.admissionDecision tile) s t ∧ (easelAt t tile).resident = rest ∧ t.nextWg = s.nextWg + 1 ∧
      let w := wgAt t s.nextWg
      w.lkey = e.lkey ∧ w.pid = l.pid ∧ w.wgid = e.wgid ∧ w.tile = tile ∧ w.size = k.groups ∧ w.arg = e.arg ∧ w.joinWord = e.joinWord ∧
        w.nbars = k.barriers ∧ w.bankCount = k.scratch ∧
        (∀ m ∈ w.members, IsMember (hartAt t m.2) k e.arg s.nextWg m.1) ∧
        ∀ i < k.scratch, tfind t.bankOwner (tile * 16 + f + i) = some s.nextWg ∧ ∀ o < 2 ^ 17,
          readBytes t.mem (.win ((tile * 16 + f + i) * 2 ^ 17 + o)) 1 = [0] ∧
            isFull t.mem (.win ((tile * 16 + f + i) * 2 ^ 17 + o)) = true) ∧
  (∀ (tile : Nat) (s : State), s.wgs = [] → s.launches = [] → (easelAt s tile).resident = [] → Idle (.admissionDecision tile) s) ∧
  (∀ (tile : Nat) (e : EaselEntry) (rest : List EaselEntry) (s : State), (easelAt s tile).spilled = e :: rest →
    (easelAt s tile).resident.length < 32 →
    (readHeld s tile e = true → Idle (.easelRefill tile) s) ∧ (readHeld s tile e = false →
    (readBack s tile e = true → ∃ t, Goes (.easelRefill tile) s t ∧ (easelAt t tile).resident = (easelAt s tile).resident ++ [e] ∧
      (easelAt t tile).spilled = rest ∧ t.mem = s.mem) ∧
    (readBack s tile e = false → e.joinWord = 0 → ∃ t, Goes (.easelRefill tile) s t ∧ (easelAt t tile).spilled = rest ∧
      (easelAt t tile).resident = (easelAt s tile).resident ∧ (launchAt t e.lkey).splost = true ∧
      (launchAt t e.lkey).liveWgs = (launchAt s e.lkey).liveWgs - 1))) ∧
  (∀ (h : Nat) (s : State), Quiet s → (hartAt s h).accFails = [] → (hartAt s h).lateFaults = [] → NoTrace s →
    ((hartAt s h).wait = .exit false → (wgAt s (hartAt s h).wg).endedPark = 0 → ∃ t, Goes (.exitDrainDone h) s t ∧
      (hartAt t h).run = .exited ∧ (hartAt t h).ended = 1 ∧ (hartAt t h).v = [] ∧ (hartAt t h).accState = [] ∧ OnlyHart s t h ∧
      (wgAt t (hartAt s h).wg).endedPlain = (wgAt s (hartAt s h).wg).endedPlain + 1 ∧ SameBytes s t) ∧
    (∀ r, (hartAt s h).wait = .exit true → (wgAt s (hartAt s h).wg).members = [(r, h)] → (wgAt s (hartAt s h).wg).terminated = false →
      ∃ t, Goes (.exitDrainDone h) s t ∧ tfind t.harts h = none ∧ OnlyHart s t h ∧
        (wgAt t (hartAt s h).wg).parked = true ∧ (wgAt t (hartAt s h).wg).members = [] ∧
          (wgAt t (hartAt s h).wg).saved.map Prod.fst = [r])) ∧
  (∀ (w : Nat) (s : State), releaseDue s w = true → (wgAt s w).marked = false → (wgAt s w).joinWord = 0 ∨ (wgAt s w).lkey = 0 →
    ∃ t, Goes (.workgroupRelease w) s t ∧ tfind t.wgs w = none ∧ (∀ m ∈ (wgAt s w).members, tfind t.harts m.2 = none) ∧
      (∀ e ∈ t.bankOwner, e.2 ≠ w) ∧ t.mem = s.mem ∧ ((wgAt s w).lkey ≠ 0 → (wgAt s w).terminated = false →
        (launchAt t (wgAt s w).lkey).liveWgs = (launchAt s (wgAt s w).lkey).liveWgs - 1)) ∧
  (∀ (w : Nat) (x : Located) (s : State), releaseDue s w = true → (wgAt s w).joinWord ≠ 0 → (wgAt s w).lkey ≠ 0 →
    locate s (launchCtx (launchAt s (wgAt s w).lkey) (wgAt s w).tile) 0 false .store .join (wgAt s w).joinWord 8 = .ok x →
    walkWaits s (launchCtx (launchAt s (wgAt s w).lkey) (wgAt s w).tile) 0 .store (wgAt s w).joinWord = false →
    HoldsBytes x.loc → Writable s 0xFFFFFD x.loc 8 → ∃ t, Goes (.workgroupRelease w) s t ∧
      WroteBytes s t x.loc 8 ((homeValue s x.loc 8 + (2 ^ 64 - 1)) % 2 ^ 64) ∧ tfind t.wgs w = none) ∧
  (∀ (h : Nat) (va : DWord) (l : Located) (s : State), (hartAt s h).wait = .join va →
    locate s (dataCtx (hartAt s h)) (hartAt s h).lkey false .load .join va 8 = .ok l → Quiet s → heldRead s l.loc 8 = false →
    walkWaits s (dataCtx (hartAt s h)) (hartAt s h).lkey .load va = false →
    dropped s (hartAt s h).actsFor (hartAt s h).tile l.loc = false → (hartAt s h).run ≠ .stopped →
    (homeValue s l.loc 8 = 0 → ∃ t, Goes (.joinSatisfied h) s t ∧ RetiredAs (hartAt t h) (acquired true s (hartAt s h)) ∧
      OnlyHart s t h ∧ SameBytes s t) ∧
    (homeValue s l.loc 8 ≠ 0 → ∃ t, Goes (.joinSatisfied h) s t ∧ t.harts = s.harts ∧ SameBytes s t))

/-- A home core's run queue, its rotation slots, migration with its forwarding entries, and the trap of a tasklet (01 R34–R38; 12 R288; 13
R302). Which loads of a tasklet are outstanding is the model's reading (notes/assumptions/17, 38). -/
def Obligations.HomeCoresRunTasklets : Prop :=
  (∀ (t d : Nat) (s : State), (hartAt s t).tasklet = true → (hartAt s t).place = .flight d → (homeAt s d).memQ = [] →
    (homeAt s d).hwQ.length < 64 → ∃ u, Goes (.taskletArrive t) s u ∧ (homeAt u d).hwQ = (homeAt s d).hwQ ++ [t] ∧
      hartAt u t = { hartAt s t with place := .hwQueue d } ∧ OnlyHart s u t ∧ u.mem = s.mem) ∧
  (∀ (tile slot k : Nat) (rest : List Nat) (s : State), slot < 16 → tfind (homeAt s tile).slots slot = none →
    (homeAt s tile).hwQ = k :: rest → ∃ t, Goes (.rotationSlotRefill tile slot) s t ∧ (homeAt t tile).hwQ = rest ∧
      tfind (homeAt t tile).slots slot = some k ∧ hartAt t k = { hartAt s k with place := .slot tile slot, run := .ready } ∧
      t.turns = s.turns ++ [.scalar k] ∧ OnlyHart s t k ∧ t.mem = s.mem) ∧
  (∀ (tile k : Nat) (rest : List Nat) (s : State), (homeAt s tile).hwQ.length < 64 → (homeAt s tile).memQ = k :: rest →
    runHeld s k tile (ringAt s tile (hartAt s k).pid 0) false = false →
    runFault s k tile (ringAt s tile (hartAt s k).pid 0) false = none → ∃ t, Goes (.runQueueRefill tile) s t ∧
      (homeAt t tile).memQ = rest ∧ (homeAt t tile).memHead = ringAt s tile (hartAt s k).pid 0 + 1 ∧
      (homeAt t tile).hwQ = (homeAt s tile).hwQ ++ [k] ∧ hartAt t k = { hartAt s k with place := .hwQueue tile } ∧ OnlyHart s t k ∧
      SameBytes s t) ∧
  (∀ (t d : Nat) (s : State), (hartAt s t).tasklet = true → (hartAt s t).migrateTo = some d → Quiet s →
    (hartAt s t).run ≠ .stopped → (homeAt s (hartAt s t).tile).fwd.length < 32 →
    dropped s (hartAt s t).actsFor (hartAt s t).tile (.mem (d * 2 ^ 31)) = false → ∃ u, Goes (.taskletMigrate t) s u ∧
      hartAt u t = { hartAt s t with migrateTo := none, place := .flight d, tile := d, run := .ready } ∧ OnlyHart s u t ∧
      (homeAt u (hartAt s t).tile).fwd = (homeAt s (hartAt s t).tile).fwd ++ [(t, d, (hartAt s t).loads.length)] ∧
      (∀ e ∈ (homeAt u (hartAt s t).tile).slots, e.2 ≠ t) ∧ SameBytes s u) ∧
  (∀ (tile n k dest due : Nat) (s : State), (homeAt s tile).fwd[n]? = some (k, dest, due) →
    (due = 0 ∨ (hartAt s k).loads = [] → ∃ t, Goes (.lateReplyForward tile n) s t ∧ (homeAt t tile).fwd = eraseAt (homeAt s tile).fwd n ∧
      t.harts = s.harts) ∧
    (∀ p rest v, due ≠ 0 → (hartAt s k).loads = p :: rest → p.tile = tile → loadReply s p = some v →
      ∃ t, Goes (.lateReplyForward tile n) s t ∧ (hartAt t k).loads = { p with tile := dest, value := some v } :: rest ∧
        (due = 1 → (homeAt t tile).fwd = eraseAt (homeAt s tile).fwd n) ∧
        (due ≠ 1 → (homeAt t tile).fwd[n]? = some (k, dest, due - 1)) ∧ OnlyHart s t k ∧ SameBytes s t) ∧
    (due ≠ 0 → (hartAt s k).loads ≠ [] → (∀ p ∈ (hartAt s k).loads, p.tile = tile → loadReply s p = none) →
      Idle (.lateReplyForward tile n) s)) ∧
  (∀ (t cause : Nat) (tval : DWord) (s : State), (tfind s.harts t).isSome → (hartAt s t).tasklet = true → NoTrace s →
    bitAt (partAt s (hartAt s t).pid).hmbox 0 = false → (launchAt s (hartAt s t).lkey).records = [] →
    ∃ u, Goes (.taskletTrap t cause tval) s u ∧ tfind u.harts t = none ∧
      OnlyHart s u t ∧ (launchAt u (hartAt s t).lkey).ttrap = true ∧
      (launchAt u (hartAt s t).lkey).headers = (launchAt s (hartAt s t).lkey).headers ++ [(s.seqNo, 0x1000003F#32)] ∧
      (launchAt u (hartAt s t).lkey).liveTasks = (launchAt s (hartAt s t).lkey).liveTasks - 1 ∧ SameBytes s u)

namespace Sys2Proof.Claims
open Sys2Proof.Machine

section Homes
/-- What a remote update makes of an n-byte number (01 R37; 09 R228). -/
def redValue (o : Rmw) (n old v : Nat) : Nat :=
  match o with
  | .add => (old + v) % 2 ^ (8 * n)
  | .min => if signedOf n v < signedOf n old then v else old
  | .max => if signedOf n old < signedOf n v then v else old
  | .minu => min old v
  | .maxu => max old v
  | .and => Nat.land old v
  | .or => Nat.lor old v
  | .xor => Nat.xor old v
  | .swap => v
  | .cas => if old = 0 then v else old
  | .fadd => (fAdd fmtF32 0 false (old % 2 ^ 32) (v % 2 ^ 32)).1 % 2 ^ (8 * n)
/-- The retry limit of an access's agent (02 R61). -/
def limitOf (s : State) (k : Nat) : Nat := (hartAt s k).feLimit
/-- A group whose trap the next clause describes: no lane instruction is in progress, and no copy's ownership is awaited. -/
def PlainGroup (s : State) (k : Nat) : Prop :=
  (hartAt s k).tasklet = false ∧ (hartAt s k).laneFe = none ∧ ∀ c, (hartAt s k).wait ≠ .copyOwn c
/-- An agent that no debugger has stopped. -/
def Runs (s : State) (k : Nat) : Prop := (hartAt s k).run ≠ .stopped
/-- A plain write on its way whose route no router's record ends, which no load of its agent must precede, and which no other write to its
words accompanies. -/
def PlainWrite (s : State) (i : Nat) (r : Req) : Prop :=
  s.mem.net[i]? = some r ∧ r.red = none ∧ r.full = false ∧ r.read = false ∧ 1 ≤ r.size ∧ (packetRoute s r).isSome = true ∧
    loadsOpen s r.agent = false ∧
    ∀ q ∈ eraseAt s.mem.net i, overlaps q.loc q.size (wordSpan r.loc r.size).1 (wordSpan r.loc r.size).2 = false
/-- The group has taken FE_TIMEOUT for an address, in whichever mode receives it (07 R167). -/
def TimedOut (s t : State) (k : Nat) (va : DWord) : Prop :=
  (∀ p ∈ t.mem.parks, p.agent ≠ k) ∧ (hartAt t k).wait = .nothing ∧
    (((hartAt s k).priv = .m ∨ bitAt ((hartAt s k).getC 0x302) 30 = false) →
      (hartAt t k).getC 0x342 = 30 ∧ (hartAt t k).getC 0x343 = va ∧ (hartAt t k).getC 0x341 = (hartAt s k).pc ∧ (hartAt t k).priv = .m)
end Homes

end Sys2Proof.Claims

/-- Writes and remote updates at their homes (04 R103; 01 R37; 13 R303). -/
def Sys2Proof.Claims.HomesPerformWrites : Prop :=
  (∀ (s : State) (i : Nat) (r : Req), PlainWrite s i r → behindEarlier s.mem.net i r = false →
    HoldsBytes r.loc → Writable s r.agent r.loc r.size →
    ∃ t, exec (.homeAccess i) s = .next t ∧ WroteBytes s t r.loc r.size r.data.toNat ∧ t.mem.net = eraseAt s.mem.net i ∧
      t.harts = s.harts ∧ t = { s with mem := t.mem, counters := t.counters } ∧ SliceCounts s t) ∧
  (∀ (s : State) (i : Nat) (r : Req), s.mem.net[i]? = some r → r.red.isSome → r.full = false → r.read = false → r.arr = 0 →
    behindEarlier s.mem.net i r = false →
    ∃ t, exec (.homeAccess i) s = .next t ∧ t.mem.net[i]? = some { r with arr := s.seqNo + 1 } ∧ SameBytes s t ∧ t.harts = s.harts) ∧
  (∀ (s : State) (tile : Nat) (r : Req) (o : Rmw), s.mem.net = [r] → r.red = some o → r.arr ≠ 0 → homeTile r.loc = tile →
    (packetRoute s r).isSome = true → loadsOpen s r.agent = false → HoldsBytes r.loc → (r.size = 4 ∨ r.size = 8) →
      Writable s r.agent r.loc r.size →
    ∃ t, exec (.redUpdateExecute tile) s = .next t ∧ t.mem.net = [] ∧ t.harts = s.harts ∧
      WroteBytes s t r.loc r.size (redValue o r.size (homeValue s r.loc r.size) (r.data.toNat % 2 ^ (8 * r.size)))) ∧
  (∀ (s : State) (tile : Nat), s.mem.net = [] → Idle (.redUpdateExecute tile) s)

/-- Bounced, resent and withdrawn full-empty accesses, and their limit (04 R91; 07 R167, R168). -/
def Sys2Proof.Claims.ParkedAccessesBounceAndTimeOut : Prop :=
  (∀ (i : Nat) (p : Park) (s : State), s.mem.parks[i]? = some p → p.bounced = false →
    (s.clk < p.since + 4096 → ∃ t, Goes (.feBounce i) s t ∧ t.mem.parks = s.mem.parks ∧ t.harts = s.harts) ∧
    (p.since + 4096 ≤ s.clk → p.retries + 1 < limitOf s p.agent → ∃ t, Goes (.feBounce i) s t ∧
      t.mem.parks[i]? = some { p with bounced := true, since := s.clk, retries := p.retries + 1 } ∧ t.harts = s.harts ∧ SameBytes s t) ∧
    (p.since + 4096 ≤ s.clk → limitOf s p.agent ≤ p.retries + 1 → p.lane = none → PlainGroup s p.agent → NoTrace s →
      ∃ t, Goes (.feBounce i) s t ∧ TimedOut s t p.agent p.va ∧ SameBytes s t)) ∧
  (∀ (p : Park) (s : State), s.mem.parks = [p] → p.bounced = true → p.retries < limitOf s p.agent →
    (s.clk < p.since + 256 → Idle (.feResend 0) s) ∧
    (p.since + 256 ≤ s.clk → Quiet s → p.op = .ldfe → p.lane = none → isFull s.mem p.loc = true → heldWrite s p.agent p.loc 4 = false →
      Runs s p.agent → ∃ t, Goes (.feResend 0) s t ∧ t.mem.parks = [] ∧ SetsFull s t p.loc false ∧ SameBytes s t ∧
        WroteX (acquired true s (hartAt s p.agent)) (hartAt t p.agent) p.rd (signed 4 (homeValue s p.loc 4))
          ((hartAt s p.agent).pc + 4)) ∧
    (p.since + 256 ≤ s.clk → p.op = .ldfe → p.lane = none → isFull s.mem p.loc = false → heldWrite s p.agent p.loc 4 = false →
      ∃ t, Goes (.feResend 0) s t ∧ t.mem.parks.map (fun q => (q.agent, q.loc, q.op, q.rd)) = [(p.agent, p.loc, p.op, p.rd)] ∧
        SameBytes s t)) ∧
  (∀ (i c : Nat) (tgt : Target) (p : Park) (s : State), s.mem.parks[i]? = some p → dueEnd s (hartAt s p.agent) = false →
    (mayInterrupt s (hartAt s p.agent) = true →
        (pendingIrq s (hartAt s p.agent) = some ({ cause := c, intr := true }, tgt) ∨ (hartAt s p.agent).lateFaults ≠ []) →
      ∃ t, Goes (.feWithdrawal i) s t ∧ (∀ q ∈ t.mem.parks, q.agent ≠ p.agent) ∧ (hartAt t p.agent).wait = .nothing) ∧
    (pendingIrq s (hartAt s p.agent) = none → (hartAt s p.agent).lateFaults = [] → Idle (.feWithdrawal i) s))

/-- Writes at their homes, and what becomes of parked accesses (04 R91, R103; 01 R37; 07 R167, R168; 13 R303). -/
def Obligations.HomesPerformAndParkedAccessesWait : Prop :=
  HomesPerformWrites ∧ ParkedAccessesBounceAndTimeOut

/-- Reservation queues: granting, waiting, revoking, and what an LR holds back (07 R170–R172; 14 R320, R321). That refusals and waits
count together is the model's reading (notes/assumptions/32). -/
def Obligations.ReservationQueuesAdvance : Prop :=
  (∀ (d : Nat) (r : Resv) (rest : List Resv) (s : State), s.mem.resvs = [{ dword := d, holder := none, waiters := r :: rest }] → Quiet s →
    (r.width = 4 ∨ r.width = 8) → heldRead s (.mem r.addr) r.width = false → Runs s r.agent →
    dropped s (hartAt s r.agent).actsFor (hartAt s r.agent).tile (.mem r.addr) = false → ∃ t, Goes (.lrwGrant 0) s t ∧
      t.mem.resvs = [{ dword := d, holder := some { r with since := s.clk, broken := false }, waiters := rest }] ∧ SameBytes s t ∧
      WroteX (acquired true s (hartAt s r.agent)) (hartAt t r.agent) r.rd (signed r.width (homeValue s (.mem r.addr) r.width))
        ((hartAt s r.agent).pc + 4)) ∧
  (∀ (q k : Nat) (u : ResvQ) (r : Resv) (s : State), s.mem.resvs[q]? = some u → u.waiters[k]? = some r →
    let h := hartAt s r.agent
    (s.clk < r.since + 4096 * (r.retries + 1) → Idle (.lrwWaitRetry q k) s) ∧
    (r.since + 4096 * (r.retries + 1) ≤ s.clk → h.bounces + r.retries + 1 < h.feLimit → ∃ t, Goes (.lrwWaitRetry q k) s t ∧
      (t.mem.resvs[q]?.bind (fun v => v.waiters[k]?)) = some { r with retries := r.retries + 1 } ∧ t.harts = s.harts) ∧
    (r.since + 4096 * (r.retries + 1) ≤ s.clk → h.feLimit ≤ h.bounces + r.retries + 1 → PlainGroup s r.agent → NoTrace s →
      ∃ t, Goes (.lrwWaitRetry q k) s t ∧ TimedOut s t r.agent r.va ∧ ∀ v ∈ t.mem.resvs, ∀ w ∈ v.waiters, w.agent ≠ r.agent)) ∧
  (∀ (u : ResvQ) (r : Resv) (s : State), s.mem.resvs = [u] → u.holder = some r → u.waiters = [] →
    (r.since + 65536 ≤ s.clk → ∃ t, Goes (.reservationRevoke 0) s t ∧ t.mem.resvs = [] ∧ t.harts = s.harts ∧ SameBytes s t) ∧
    (s.clk < r.since + 65536 → Idle (.reservationRevoke 0) s)) ∧
  (∀ (i : Nat) (r : LrRes) (q : Req) (s : State), s.mem.lrs[i]? = some r →
    (s.clk < r.clk + 128 → Idle (.lrHoldExpire i) s) ∧
    (r.clk + 128 ≤ s.clk → s.mem.net = [q] → PlainWrite s 0 q → q.agent ≠ r.hart → overlaps q.loc q.size (.mem r.addr) r.size = true →
      Writable s q.agent q.loc q.size → ∃ t, Goes (.lrHoldExpire i) s t ∧ t.mem.net = [] ∧ WroteBytes s t q.loc q.size q.data.toNat ∧
        r ∉ t.mem.lrs)) ∧
  (∀ (line : Nat) (s : State),
    ((∃ r ∈ s.mem.lrs, r.table = false ∧ r.addr / 64 = line ∧ s.clk < r.clk + 128) → ∃ t, Goes (.recall line) s t ∧
      line ∈ t.mem.recalls ∧ t = { s with mem := { s.mem with recalls := t.mem.recalls } }) ∧
    ((∀ r ∈ s.mem.lrs, r.table = false → r.addr / 64 = line → r.clk + 128 ≤ s.clk) → ∃ t, Goes (.recall line) s t ∧
      line ∉ t.mem.recalls ∧ (∀ k, tget 0 t.mem.dir k = if k / 4096 = line then 0 else tget 0 s.mem.dir k) ∧
      (∀ r, r ∈ t.mem.lrs ↔ r ∈ s.mem.lrs ∧ (r.table = true ∨ r.addr / 64 ≠ line)) ∧ SameBytes s t))

/-- Lease renewals and sweeps, and page walks (14 R316, R317, R324–R326). When a walk is installed is the model's choice
(notes/assumptions/26). -/
def Obligations.LeasesAndWalksSettle : Prop :=
  (∀ (h : Nat) (c : SCopy) (rest : List SCopy) (p : Spec) (later : List Spec) (s : State), (hartAt s h).spec = p :: later →
    p.lines = c :: rest → let bad := p.mismatch || !renewalMatches s.mem c
    (heldRead s (.mem (c.line * 64)) 64 = true → Idle (.leaseRenewalReply h) s) ∧
    (heldRead s (.mem (c.line * 64)) 64 = false → ∃ t, Goes (.leaseRenewalReply h) s t ∧ SameBytes s t ∧ OnlyHart s t h ∧
      (rest ≠ [] → hartAt t h = { hartAt s h with spec := { p with lines := rest, mismatch := bad } :: later }) ∧
      (rest = [] → bad = false → hartAt t h = { hartAt s h with spec := later }) ∧
      (rest = [] → bad = true → let g := hartAt t h; let again := p.issued ++ later.flatMap (fun q => q.issued)
        g.v = p.v ∧ g.m = p.m ∧ g.pend = p.pend ∧ g.getC 0x803 = p.lfflags ∧ g.spec = [] ∧
        g.laneQ = again.map (fun e => { e with cnt := none }) ++ (hartAt s h).laneQ ∧
        g = { hartAt s h with
          v := g.v, m := g.m, pend := g.pend, csr := g.csr, spec := g.spec, laneQ := g.laneQ, instret := g.instret }))) ∧
  (∀ (tile : Nat) (s : State), s.clk % 524288 = 0 → ∃ t, Goes (.leaseSweep tile) s t ∧ SameBytes s t ∧
    (∀ c, c ∈ t.mem.copies ↔ c ∈ s.mem.copies ∧ (c.holder / 16 ≠ tile ∨ (leaseTick s - c.grant).toNat < 2 ^ 15)) ∧
    ∀ k h, tfind s.harts k = some h → h.tasklet = false → h.tile = tile →
      (hartAt t k).av = (h.av && decide ((leaseTick s - h.acqTick).toNat < 2 ^ 15))) ∧
  (∀ (tile : Nat) (s : State), s.clk % 524288 ≠ 0 → Idle (.leaseSweep tile) s) ∧
  (∀ (i : Nat) (w : Walk) (s : State), s.mem.walks[i]? = some w → ∃ t, Goes (.pageWalkComplete i) s t ∧
    t.mem.walks = eraseAt s.mem.walks i ∧ (w.killed = false → w.entry ∈ t.mem.tlbs ∧ ∀ e ∈ w.path, e ∈ t.mem.walkCache) ∧
    (w.killed = true → t.mem.tlbs = s.mem.tlbs ∧ t.mem.walkCache = s.mem.walkCache) ∧
    (∀ e ∈ s.mem.tlbs, e ∈ t.mem.tlbs) ∧ (∀ e ∈ s.mem.walkCache, e ∈ t.mem.walkCache) ∧
    t = { s with mem := { s.mem with walks := t.mem.walks, tlbs := t.mem.tlbs, walkCache := t.mem.walkCache } })

namespace Sys2Proof.Claims
open Sys2Proof.Machine

section Copies
/-- A copy of one row without conversion, of at most 4,096 bytes. -/
def OneRow (c : Copy) (n : Nat) : Prop :=
  shRows c.shape = 1 ∧ shCv c.shape = 0 ∧ shLen c.shape = n ∧ n ≤ 4096 ∧ c.form ≠ 2 ∧ c.started = true ∧ c.parked = false ∧ c.row = 0 ∧
    c.pos = 0
/-- The CPY that waits for a copy's ownership retires; any other agent is as before. -/
def CpyRetires (s t : State) (k h : Nat) : Prop :=
  ((hartAt s h).wait = .copyOwn k → RetiredAs (hartAt t h) (hartAt s h)) ∧ ((hartAt s h).wait ≠ .copyOwn k → hartAt t h = hartAt s h) ∧
    OnlyHart s t h
/-- A launch's copy command word is its issuer's and holds this number (07 R185). -/
def Commands (s : State) (l v : Nat) : Prop :=
  (tfind s.launches l).isSome ∧ issuerOwns s (launchAt s l) (launchAt s l).cmdw = true ∧ isFull s.mem (launchAt s l).cmdw = true ∧
    homeValue s (launchAt s l).cmdw 4 = v ∧ NoneParked s (launchAt s l).cmdw ∧ heldWrite s 0xFFFFFB (launchAt s l).cmdw 4 = false
/-- Row 0 of a copy meets no walk that must wait (14 R316). -/
def RowWalks (s : State) (c : Copy) (acc : Acc) : Prop :=
  (acc = .store → copyWaits s c .store (rowDst c 0) (rowLen s c 0) = false) ∧
  (acc = .load → copyWaits s c .load (rowSrc c 0) (shLen c.shape) = false)
/-- The copy that a command names: cluster in bits 27:22 and entry in bits 21:16. -/
def namedCopy (v : Nat) : Nat := v / 2 ^ 22 % 64 * 64 + v / 2 ^ 16 % 64
end Copies

end Sys2Proof.Claims

/-- A copy's ownership, its rows, its end, its fault message and its commands, and the outcome of accumulator stores (02 R50; 07
R182–R186; 09 R240; 13 R304). That a command acts on any parked copy, bursts, the order of a row's faults and what an interrupt leaves of
a CPY are the model's readings (notes/assumptions/36, 37, 66, 71). -/
def Obligations.CopiesMoveAndEnd : Prop :=
  (∀ (k : Nat) (c : Copy) (s : State), tfind s.copies k = some c → c.parked = false → c.form = 2 → ∃ t, Goes (.copyOwnership k) s t ∧
    (copyAt t k).ownRow = shRows c.shape ∧ CpyRetires s t k c.hart ∧ SameBytes s t) ∧
  (∀ (k n : Nat) (c : Copy) (q : List (Nat × Loc × Nat)) (s : State), s.copies = [(k, c)] → OneRow c n → c.ownRow = 0 → c.segs = [] →
    RowWalks s c .store → rowDest s c 0 = .ok q → ∃ t, Goes (.copyOwnership k) s t ∧ (copyAt t k).ownRow = 1 ∧
      (copyAt t k).segs = rowSegs 0 q ∧
      CpyRetires s t k c.hart ∧ SameBytes s t) ∧
  (∀ (k n a b : Nat) (c : Copy) (s : State), s.copies = [(k, c)] → OneRow c n → c.ownRow = 1 → c.weight = 1 →
    rowSource (withoutOwn s k) c 0 = .ok [(0, .mem a, n)] → rowDest (withoutOwn s k) c 0 = .ok [(0, .mem b, n)] →
    RowWalks s c .store → RowWalks s c .load → updating s (.mem b) n = false → initBusy s.mem (.mem a) = false →
      initBusy s.mem (.mem b) = false → lrHolds s 0xFFFFFB (.mem b) n = false → gesso s.mem b = false →
    b % 4096 + n ≤ 4096 → partPoison s b n = false → dropped s c.pid c.tile (.mem a) = false → dropped s c.pid c.tile (.mem b) = false →
    ∃ t, Goes (.streamerRound (k / 64)) s t ∧ (copyAt t k).row = 1 ∧ t.harts = s.harts ∧
      readBytes t.mem (.mem b) n = readBytes s.mem (.mem a) n ∧
      ∀ l' j, overlaps l' j (.mem b) n = false → readBytes t.mem l' j = readBytes s.mem l' j) ∧
  (∀ (cl : Nat) (s : State), (∀ e ∈ s.copies, e.1 / 64 ≠ cl) → Idle (.streamerRound cl) s) ∧
  (∀ (k : Nat) (c : Copy) (s : State), tfind s.copies k = some c →
    (copyFinished s k c = true → (tfind s.wgs c.wg).isSome → ∃ t, Goes (.copyComplete k) s t ∧ tfind t.copies k = none ∧
      (let o := tget {} (wgAt s c.wg).bars c.bar; let b := tget {} (wgAt t c.wg).bars c.bar
       (o.arrived = o.expected ∧ o.copies = 1 → b.phase = !o.phase ∧ b.arrived = 0 ∧ b.copies = 0) ∧
       (o.arrived ≠ o.expected ∨ 1 < o.copies → b.phase = o.phase ∧ b.arrived = o.arrived ∧ b.copies = o.copies - 1) ∧
       (o.arrived = o.expected → o.copies = 1 → Quiet s → ((wgAt s c.wg).members.map Prod.snd).Nodup →
        ∀ j ∈ (wgAt s c.wg).members.map Prod.snd, (hartAt s j).wait = .bar c.bar o.phase → (hartAt s j).run ≠ .stopped →
          RetiredAs (hartAt t j) (acquired true s (hartAt s j)))) ∧ SameBytes s t) ∧
    (copyFinished s k c = false → Idle (.copyComplete k) s)) ∧
  (∀ (k : Nat) (c : Copy) (s : State), tfind s.copies k = some c → c.parked = true → c.msgSent = false →
    let m := (launchAt s c.lkey).mbox
    (issuerOwns s (launchAt s c.lkey) m = true → isFull s.mem m = false → heldWrite s 0xFFFFFB m 4 = false → NoneParked s m →
      messageBefore s m c.parkSeq = false →
      ∃ t, Goes (.copyFaultMessage k) s t ∧ FilledWord s t m (faultMessage k c) ∧ copyAt t k = { c with msgSent := true }) ∧
    (issuerOwns s (launchAt s c.lkey) m = true → isFull s.mem m = true ∨ heldWrite s 0xFFFFFB m 4 = true ∨
      messageBefore s m c.parkSeq = true →
      Idle (.copyFaultMessage k) s) ∧
    (issuerOwns s (launchAt s c.lkey) m = false → ∃ t, Goes (.copyFaultMessage k) s t ∧ tfind t.copies k = none ∧
      (launchAt t c.lkey).cdisc = true)) ∧
  (∀ (k : Nat) (c : Copy), k < 4096 → 1 ≤ c.cause → c.cause ≤ 3 → let w := (faultMessage k c).toNat
    w / 2 ^ 31 = 1 ∧ w / 2 ^ 28 % 4 = c.cause ∧ w / 2 ^ 22 % 64 = k / 64 ∧ w / 2 ^ 16 % 64 = k % 64 ∧ w % 2 ^ 16 = c.row % 2 ^ 16) ∧
  (∀ (l v : Nat) (c : Copy) (s : State), Commands s l v → tfind s.copies (namedCopy v) = some c → c.parked = true →
    (v / 2 ^ 30 % 4 = 1 → ∃ t, Goes (.copyResume l) s t ∧ SetsFull s t (launchAt s l).cmdw false ∧ SameBytes s t ∧
      copyAt t (namedCopy v) = { c with parked := false, msgSent := false, cause := 0, pos := 0 }) ∧
    (v / 2 ^ 30 % 4 = 2 → ∃ t, Goes (.copyDiscard l) s t ∧ SetsFull s t (launchAt s l).cmdw false ∧ SameBytes s t ∧
      tfind t.copies (namedCopy v) = none ∧ (launchAt t c.lkey).cdisc = true)) ∧
  (∀ (h n : Nat) (s : State), (tfind s.harts h).isSome → accSt (hartAt s h) n = 2 →
    ((∀ r ∈ s.mem.net, r.agent = h → r.accName ≠ some n) → ∃ t, Goes (.accstStoresAcked h n) s t ∧ accSt (hartAt t h) n = 0 ∧
      (∀ q, q ≠ n → accSt (hartAt t h) q = accSt (hartAt s h) q) ∧ OnlyHart s t h) ∧
    ((∃ r ∈ s.mem.net, r.agent = h ∧ r.accName = some n) → Idle (.accstStoresAcked h n) s)) ∧
  (∀ (h : Nat) (f : AccFail) (rest : List AccFail) (s : State), (tfind s.harts h).isSome → mayInterrupt s (hartAt s h) = true →
    (hartAt s h).accFails = f :: rest → (hartAt s h).laneQ = [] → (hartAt s h).laneFe = none →
    ((hartAt s h).priv = .m ∨ bitAt ((hartAt s h).getC 0x302) 48 = false) → ∃ t, Goes (.accstStoreFault h) s t ∧
      (hartAt t h).accFails = rest ∧ (hartAt t h).getC 0x342 = 48 ∧ (hartAt t h).getC 0x343 = f.addr ∧ (hartAt t h).priv = .m ∧
      bitsOf ((hartAt t h).getC 0x5C0) 7 1 = 1 ∧ bitsOf ((hartAt t h).getC 0x5C0) 0 7 = f.lane % 128)

namespace Sys2Proof.Claims
open Sys2Proof.Machine

section Streams
/-- The words of 05 R123 that a tasklet may not execute, whatever they name: custom-0 but nothing else of it, barriers, work creation but
REPLY and TEXIT, and copies, weights, tiles and limbs but MARK. -/
def GroupOnly (w : Word) : Prop :=
  w.extractLsb' 0 7 = 0x0B#7 ∨ (w.extractLsb' 0 7 = 0x2B#7 ∧ w.extractLsb' 12 3 = 7#3) ∨
    (w.extractLsb' 0 7 = 0x5B#7 ∧ w.extractLsb' 12 3 ≠ 5#3) ∨ (w.extractLsb' 0 7 = 0x7B#7 ∧ w.extractLsb' 12 3 ≠ 4#3)
/-- A turn has been taken off the list, and nothing comes before the agent's instruction: no end of its workgroup and no interrupt. -/
def OwnTurn (s : State) (k : Nat) (h : Hart) : Prop := tfind s.harts k = some h ∧ dueEnd s h = false ∧ takeIrq s k = none
/-- A scalar turn of agent k is granted, and its instruction may be tried: no wait, no held fetch and no outstanding load. -/
def ScalarTurn (s : State) (k : Nat) (rest : List Turn) (h : Hart) : Prop :=
  let b := { s with turns := rest }
  s.inputs = [] ∧ s.turns = .scalar k :: rest ∧ OwnTurn b k h ∧ h.loads = [] ∧ mayTry b k h = true ∧ irqFirst b h = false ∧
    fetchHeld b k h h.pc = false
/-- A lane turn of group k is granted, with this entry at the head of its lane queue. -/
def LaneTurn (s : State) (k : Nat) (rest : List Turn) (h : Hart) (e : LaneEntry) (q : List LaneEntry) : Prop :=
  s.inputs = [] ∧ s.turns = .lane k :: rest ∧ OwnTurn { s with turns := rest } k h ∧ h.tasklet = false ∧ h.run ≠ .empty ∧
    h.run ≠ .exited ∧ h.run ≠ .stopped ∧ h.laneFe = none ∧
    h.laneQ = e :: q
/-- The state in which the head of a lane queue executes: it is the instruction at issue and no longer queued. -/
def issuing (s : State) (k : Nat) (rest : List Turn) (h : Hart) (e : LaneEntry) (q : List LaneEntry) : State :=
  setHart { s with turns := rest, cur := k } k { h with laneQ := q, iss := e, laneWait := .nothing }
/-- LRUN and LRUNR, which may append behind queued lane instructions (06 R144). -/
def AppendsBatch (i : Instr) : Prop := (∃ n, i = .lrun n ∧ 1 ≤ n.toNat ∧ n.toNat ≤ 64) ∨ ∃ r, i = .lrunr r
/-- Illegal-instruction for a word, whose stval is the word or a 16-bit encoding's 16 bits (05 R120). -/
def noInstr (w : Word) : Trap := illegal (if w.extractLsb' 0 2 = 3#2 then w.setWidth 64 else w.setWidth 64 &&& 0xFFFF)
/-- The two lane instructions of 05 R136's example: `ffma.f32 v8, v4, v5, v8 if m3 wait 6` and `iadd.s32 v9, v8, 1000 wait 4`. -/
def ffmaExample : LaneL :=
  { base := { mod4 := 0, yl := 0, st := 6, mn := 0, ms := 3, kb := 0, ka := 0, sb := 5, sa := 4, vd := 8, ty := 2, fn := 0 },
    mod20 := 7, kc := 0, sc := 8 }
def iaddExample : LaneJ :=
  { base := { mod4 := 0, yl := 0, st := 4, mn := 0, ms := 15, kb := 2, ka := 0, sb := 0, sa := 8, vd := 9, ty := 0, fn := 0 }, imm := 1000 }
/-- Words written out from the maps of 05 R121–R135, and the standard ones, with what they stand for. -/
noncomputable def scalarWords : List (Word × Instr) :=
  [(0x0080000B, .lrun 8), (0x0037B78B, .mand 15 15 3), (0x0001DC0B, .bmnone 3 12), (0x0E00378B, .mpop 15), (0x008502AB, .ldfe 5 10 8),
   (0x0065A02B, .stef 11 6 0), (0x0475532B, .schW 6 10 7), (0x01D0602B, .fenceS 3 5), (0x0422F02B, .barWait 2 5),
   (0x000502DB, .launch 5 10), (0x06B512DB, .fork 5 10 11 3), (0x60B5017B, .cpy 2 10 11 12), (0x000510FB, .mld 1 0 10),
   (0x0030207B, .accGet 3), (0x2A50407B, .mark 677), (0xFFF50513, .addi 10 10 (-1)), (0x40B50533, .sub 10 10 11),
   (0x00B53423, .sd 10 11 8), (0xFE000EE3, .beq 0 0 (-2)), (0x100522AF, .lrW 5 10 false false), (0x80202573, .csrrs 10 0 0x802),
   (0x30200073, .mret)]
noncomputable def laneWords : List (LaneWords × Instr) :=
  [(0x00007008030C005010082023, .ffma ffmaExample), (0x000003E8023E000020090080, .iaddJ iaddExample)]
end Streams

end Sys2Proof.Claims

/-- Every well-formed scalar instruction is what its encoding decodes to, and a word that decodes is its instruction's encoding (05
R120–R129). -/
def Obligations.DecodeEncodeScalar : Prop :=
  (∀ (i : Instr) (w : Word), encode i = [w] → i.wellFormed = true → decodeScalar w = .ok i) ∧
  (∀ (i : Instr) (w : Word), decodeScalar w = .ok i → encode i = [w])

/-- The same of lane instructions in both forms, with every field at every value (05 R131–R135). -/
def Obligations.DecodeEncodeLane : Prop :=
  (∀ (i : Instr) (a b c : Word), encode i = [a, b, c] → decodeLane (c ++ b ++ a) = .ok i) ∧
  (∀ (i : Instr) (w : LaneWords), decodeLane w = .ok i → encode i = [w.extractLsb' 0 32, w.extractLsb' 32 32, w.extractLsb' 64 32])

/-- Words written out from the spec's encodings decode to what they stand for (05 R121–R135). -/
def Obligations.DecodeWords : Prop :=
  (∀ e ∈ scalarWords, decodeScalar e.1 = .ok e.2) ∧ (∀ e ∈ laneWords, decodeLane e.1 = .ok e.2)

/-- Every step keeps the canonical form of main memory, the scratchpads, host memory and the mailbox words. The form is the model's own
(notes/assumptions/7). -/
def Obligations.StepKeepsMemoryForm : Prop :=
  ∀ s t : State, Memory.wf s.mem = true → step s = .next t → Memory.wf t.mem = true

/-- Before power-on nothing runs, nothing is listed in memory and no partition is defined (18 R397); the machine's own reset record is in
canonical form. What memory that nothing has written reads is the model's choice where the spec gives none (notes/assumptions/6, 7, 8). -/
def Obligations.ResetLeavesPackageOff : Prop :=
  Memory.wf State.reset.mem = true ∧ State.reset.hub.powered = false ∧ State.reset.hub.ready = false ∧ State.reset.clk = 0 ∧
    State.reset.harts = [] ∧ State.reset.parts = [] ∧ State.reset.wgs = [] ∧ State.reset.launches = [] ∧
    (∀ a, gesso State.reset.mem a = true) ∧ ∀ l, HoldsBytes l → readBytes State.reset.mem l 1 = [0]

/-- The package always answers a next state: no instruction and no operation stops it (05 R120, R136; 18 R397). -/
def Obligations.StepAlwaysAnswers : Prop :=
  (∀ (i : Instr) (s : State), ∃ t, exec i s = .next t) ∧ (∀ s : State, ∃ t, StepsTo s t) ∧ SafeFrom State.reset

/-- A turn executes exactly the instruction that its stream holds: the scalar word at the pc, or the head of the lane queue; an operation
of the tape comes first, an interrupt is taken where nothing can be executed, and a clk passes when nothing is left of this one, with its
trace packets written. A word that is no instruction traps (05 R120, R122, R136; 06 R143, R144). The tape of operations and the order of
turns are the model's own (notes/assumptions/1). -/
def Obligations.StepRunsDecoded : Prop :=
  (∀ (s : State) (i : Instr) (rest : List Instr), s.inputs = i :: rest → step s = exec i { s with inputs := rest }) ∧
  (∀ (s : State) (k : Nat) (rest : List Turn) (h : Hart), ScalarTurn s k rest h →
    let b := { s with turns := rest }; let n := fetchNote b h false h.pc
    (∀ (l : Located) (w : Word), fetchWord b h h.pc = .ok (l, w) →
      (∀ i, decodeScalar w = .ok i → i.wellFormed = true → (h.laneQ = [] ∨ AppendsBatch i) →
        step s = mapNext (countIssue k h) (exec i (settled n k w))) ∧
      (∀ i, decodeScalar w = .ok i → h.laneQ ≠ [] → ¬ AppendsBatch i → step s = .next b) ∧
      (h.laneQ = [] → (∀ i, decodeScalar w = .ok i → i.wellFormed = false) →
        step s = .next (countIssue k h (trapCur { n with cur := k } (noInstr w))))) ∧
    (∀ t, fetchWord b h h.pc = .error t → h.laneQ = [] → step s = .next (countIssue k h (trapCur { n with cur := k } t)))) ∧
  (∀ (s : State) (k : Nat) (rest : List Turn) (h : Hart) (e : LaneEntry) (q : List LaneEntry), LaneTurn s k rest h e q →
    let b := issuing s k rest h e q
    (∀ i, e.bad = none → decodeLane e.word = .ok i → step s = mapNext (countLane k h.laneQ.length) (exec i b)) ∧
    (∀ t, e.bad = some t → step s = .next (countLane k h.laneQ.length (laneTrap b t))) ∧
    (∀ d, e.bad = none → decodeLane e.word = .error d →
      step s = .next (countLane k h.laneQ.length (laneTrap b (undecodable e d))))) ∧
  (∀ (s : State) (k : Nat) (rest : List Turn) (h : Hart) (t : State), s.inputs = [] → s.turns = .scalar k :: rest →
    let b := { s with turns := rest }
    tfind s.harts k = some h → h.loads = [] → dueEnd b h = false → takeIrq b k = some t → mayTry b k h = false → step s = .next t) ∧
  (∀ s : State, s.inputs = [] → s.turns = [] → ∃ t, step s = .next t ∧ t.clk = s.clk + 1 ∧
    t.inputs = dueOps { t with inputs := [], turns := [] } ∧ t.turns = rotationTurns { t with inputs := [], turns := [] } ∧
    t.mem = (writeTraced s).mem ∧ t.harts = s.harts ∧ (s.traced = [] → t.mem = s.mem))

/-- In a tasklet, an instruction that R123 marks "no" and one that names x11 to x31 are LANE_ILLEGAL, and end the tasklet (01 R33, R38; 05
R123). -/
def Sys2Proof.Claims.TaskletsKeepToTheirInstructions : Prop :=
  (∀ (i : Instr) (w : Word) (s : State), encode i = [w] → GroupOnly w → (curHart s).tasklet = true →
    exec i s = .next (taskletTrapOp s s.cur 24 (w.setWidth 64))) ∧
  (∀ (s : State) (rd rs1 rs2 : Reg), (curHart s).tasklet = true → ¬ (rd.toNat < 11 ∧ rs1.toNat < 11 ∧ rs2.toNat < 11) →
    (∀ e ∈ regTable, exec (e.1 rd rs1 rs2) s = .next (taskletTrapOp s s.cur 24 (insnBits (e.1 rd rs1 rs2)))) ∧
    (∀ e ∈ divTable, exec (e.1 rd rs1 rs2) s = .next (taskletTrapOp s s.cur 24 (insnBits (e.1 rd rs1 rs2)))) ∧
    (∀ e ∈ amoTable, ∀ aq rl, exec (e.1 rd rs1 rs2 aq rl) s = .next (taskletTrapOp s s.cur 24 (insnBits (e.1 rd rs1 rs2 aq rl))))) ∧
  (∀ (s : State) (rd rs1 : Reg) (imm : BitVec 12), (curHart s).tasklet = true → ¬ (rd.toNat < 11 ∧ rs1.toNat < 11) →
    (∀ e ∈ immTable, exec (e.1 rd rs1 imm) s = .next (taskletTrapOp s s.cur 24 (insnBits (e.1 rd rs1 imm)))) ∧
    (∀ e ∈ loadTable, exec (e.1 rd rs1 imm) s = .next (taskletTrapOp s s.cur 24 (insnBits (e.1 rd rs1 imm)))) ∧
    (∀ e ∈ storeTable, exec (e.1 rd rs1 imm) s = .next (taskletTrapOp s s.cur 24 (insnBits (e.1 rd rs1 imm)))) ∧
    (∀ e ∈ branchTable, exec (e.1 rd rs1 imm) s = .next (taskletTrapOp s s.cur 24 (insnBits (e.1 rd rs1 imm)))))

/-- CALLAT and SPAWNAT send tasklets; REPLY and TEXIT end them, and so does an instruction they may not execute (01 R33, R38; 05 R123; 06
R162–R164). -/
def Obligations.TaskletsAreSentAndEnd : Prop :=
  TaskletsAreSent ∧ TaskletsEnd ∧ TaskletsKeepToTheirInstructions
end

