-- ==== Sys2Proof/Laws/Bits.lean ====
section
/-! SUPPORT. Laws of the bit fields of a dword: what a field reads after it, or another field, was written. -/
namespace Sys2Proof.Laws
open Sys2Proof Sys2Proof.Machine

theorem field_lt (n lo w : Nat) : field n lo w < 2 ^ w := Nat.mod_lt _ (by positivity)
theorem bitsOf_lt (v : DWord) (lo w : Nat) : bitsOf v lo w < 2 ^ w := field_lt _ _ _
theorem bitsOf_testBit (v : DWord) (lo w i : Nat) : (bitsOf v lo w).testBit i = (decide (i < w) && v.getLsbD (lo + i)) := by
  unfold bitsOf field
  rw [Nat.testBit_mod_two_pow, Nat.testBit_div_two_pow, BitVec.testBit_toNat, Nat.add_comm i lo]
/-- One bit of a dword with a field replaced: the new field's bit inside it, the old bit outside. -/
theorem getLsbD_setBits (v : DWord) (lo w n i : Nat) (hi : i < 64) :
    (setBits v lo w n).getLsbD i = if lo ≤ i ∧ i < lo + w then n.testBit (i - lo) else v.getLsbD i := by
  unfold setBits
  simp only [BitVec.getLsbD_or, BitVec.getLsbD_and, BitVec.getLsbD_not, BitVec.getLsbD_ofNat, hi, decide_true, Bool.true_and,
    Nat.testBit_mul_two_pow, Nat.testBit_two_pow_sub_one, Nat.testBit_mod_two_pow]
  by_cases h1 : lo ≤ i <;> by_cases h2 : i < lo + w
  · have : i - lo < w := by omega
    simp [h1, h2, this]
  · have : ¬ i - lo < w := by omega
    simp [h1, h2, this]
  · simp [h1]
  · simp [h1]
/-- A field reads what was written there. -/
theorem bitsOf_setBits (v : DWord) (lo w n : Nat) (h : lo + w ≤ 64) : bitsOf (setBits v lo w n) lo w = n % 2 ^ w := by
  apply Nat.eq_of_testBit_eq; intro i
  rw [bitsOf_testBit, Nat.testBit_mod_two_pow]
  by_cases hi : i < w
  · rw [getLsbD_setBits _ _ _ _ _ (by omega), if_pos (by omega), Nat.add_sub_cancel_left]
  · simp [hi]
/-- A field is not changed by a write of a field beside it. -/
theorem bitsOf_setBits_ne (v : DWord) {lo w n a b : Nat} (h : a + b ≤ lo ∨ lo + w ≤ a) (hb : a + b ≤ 64) :
    bitsOf (setBits v lo w n) a b = bitsOf v a b := by
  apply Nat.eq_of_testBit_eq; intro i
  rw [bitsOf_testBit, bitsOf_testBit]
  by_cases hi : i < b
  · rw [getLsbD_setBits _ _ _ _ _ (by omega), if_neg (by omega)]
  · simp [hi]
theorem bitAt_setBits_ne (v : DWord) {lo w n i : Nat} (h : i < lo ∨ lo + w ≤ i) (hi : i < 64) :
    bitAt (setBits v lo w n) i = bitAt v i := by
  unfold bitAt; rw [getLsbD_setBits _ _ _ _ _ hi, if_neg (by omega)]
theorem bitAt_setBits_one (v : DWord) (i n : Nat) (hi : i < 64) : bitAt (setBits v i 1 n) i = n.testBit 0 := by
  unfold bitAt; rw [getLsbD_setBits _ _ _ _ _ hi, if_pos (by omega), Nat.sub_self]
theorem bitAt_setBitAt (v : DWord) (i : Nat) (b : Bool) (hi : i < 64) : bitAt (setBitAt v i b) i = b := by
  unfold setBitAt; rw [bitAt_setBits_one _ _ _ hi]; cases b <;> rfl
theorem bitAt_setBitAt_ne (v : DWord) {i j : Nat} (b : Bool) (h : i ≠ j) (hj : j < 64) :
    bitAt (setBitAt v i b) j = bitAt v j := bitAt_setBits_ne v (by omega) hj
theorem bitsOf_setBitAt_ne (v : DWord) {i a n : Nat} (b : Bool) (h : a + n ≤ i ∨ i < a) (hn : a + n ≤ 64) :
    bitsOf (setBitAt v i b) a n = bitsOf v a n := bitsOf_setBits_ne v (by omega) hn
/-- The low bytes of a dword as a number, and back. -/
theorem dw_toNat (v : DWord) : dw v.toNat = v := by simp [dw]
theorem toNat_dw (n : Nat) : (dw n).toNat = n % 2 ^ 64 := BitVec.toNat_ofNat n 64

end Sys2Proof.Laws
end

