-- ==== Sys2Proof/Laws/Decode.lean ====
section
/-! SUPPORT. The fields of an encoded scalar word, for every format of 05 R121: each is what was put there. -/
namespace Sys2Proof.Laws
open Sys2Proof

/-- A field is the bits it is cut from. -/
theorem field_eq {n w : Nat} {x : BitVec w} {y : BitVec n} {s : Nat} (h : ∀ i, i < n → x.getLsbD (s + i) = y.getLsbD i) :
    x.extractLsb' s n = y := by
  ext i hi
  rw [BitVec.getElem_extractLsb', h i hi, BitVec.getLsbD_eq_getElem]

@[simp] theorem opF_encR (fn7 : BitVec 7) (rs2 rs1 : Reg) (fn3 : BitVec 3) (rd : Reg) (op : BitVec 7) : opF (encR fn7 rs2 rs1 fn3 rd op) = op.toNat :=
  congrArg BitVec.toNat (field_eq (fun i hi => by
    simp only [encR, BitVec.getLsbD_append]
    repeat' split
    all_goals first | omega | (congr 1; omega)))
@[simp] theorem f3_encR (fn7 : BitVec 7) (rs2 rs1 : Reg) (fn3 : BitVec 3) (rd : Reg) (op : BitVec 7) : f3 (encR fn7 rs2 rs1 fn3 rd op) = fn3.toNat :=
  congrArg BitVec.toNat (field_eq (fun i hi => by
    simp only [encR, BitVec.getLsbD_append]
    repeat' split
    all_goals first | omega | (congr 1; omega)))
@[simp] theorem f7_encR (fn7 : BitVec 7) (rs2 rs1 : Reg) (fn3 : BitVec 3) (rd : Reg) (op : BitVec 7) : f7 (encR fn7 rs2 rs1 fn3 rd op) = fn7.toNat :=
  congrArg BitVec.toNat (field_eq (fun i hi => by
    simp only [encR, BitVec.getLsbD_append]
    repeat' split
    all_goals first | omega | (congr 1; omega)))
@[simp] theorem rdF_encR (fn7 : BitVec 7) (rs2 rs1 : Reg) (fn3 : BitVec 3) (rd : Reg) (op : BitVec 7) : rdF (encR fn7 rs2 rs1 fn3 rd op) = rd :=
  field_eq (fun i hi => by
    simp only [encR, BitVec.getLsbD_append]
    repeat' split
    all_goals first | omega | (congr 1; omega))
@[simp] theorem rs1F_encR (fn7 : BitVec 7) (rs2 rs1 : Reg) (fn3 : BitVec 3) (rd : Reg) (op : BitVec 7) : rs1F (encR fn7 rs2 rs1 fn3 rd op) = rs1 :=
  field_eq (fun i hi => by
    simp only [encR, BitVec.getLsbD_append]
    repeat' split
    all_goals first | omega | (congr 1; omega))
@[simp] theorem rs2F_encR (fn7 : BitVec 7) (rs2 rs1 : Reg) (fn3 : BitVec 3) (rd : Reg) (op : BitVec 7) : rs2F (encR fn7 rs2 rs1 fn3 rd op) = rs2 :=
  field_eq (fun i hi => by
    simp only [encR, BitVec.getLsbD_append]
    repeat' split
    all_goals first | omega | (congr 1; omega))
@[simp] theorem low_encR (fn7 : BitVec 7) (rs2 rs1 : Reg) (fn3 : BitVec 3) (rd : Reg) (op : BitVec 7) : (encR fn7 rs2 rs1 fn3 rd op).extractLsb' 0 2 = op.extractLsb' 0 2 := by
  ext i hi
  simp only [encR, BitVec.getElem_extractLsb', BitVec.getLsbD_append]
  repeat' split
  all_goals first | omega | (congr 1)
@[simp] theorem mid_encR (fn7 : BitVec 7) (rs2 rs1 : Reg) (fn3 : BitVec 3) (rd : Reg) (op : BitVec 7) : (encR fn7 rs2 rs1 fn3 rd op).extractLsb' 2 3 = op.extractLsb' 2 3 := by
  ext i hi
  simp only [encR, BitVec.getElem_extractLsb', BitVec.getLsbD_append]
  repeat' split
  all_goals first | omega | (congr 1)
@[simp] theorem opF_encI (imm : BitVec 12) (rs1 : Reg) (fn3 : BitVec 3) (rd : Reg) (op : BitVec 7) : opF (encI imm rs1 fn3 rd op) = op.toNat :=
  congrArg BitVec.toNat (field_eq (fun i hi => by
    simp only [encI, BitVec.getLsbD_append]
    repeat' split
    all_goals first | omega | (congr 1; omega)))
@[simp] theorem f3_encI (imm : BitVec 12) (rs1 : Reg) (fn3 : BitVec 3) (rd : Reg) (op : BitVec 7) : f3 (encI imm rs1 fn3 rd op) = fn3.toNat :=
  congrArg BitVec.toNat (field_eq (fun i hi => by
    simp only [encI, BitVec.getLsbD_append]
    repeat' split
    all_goals first | omega | (congr 1; omega)))
@[simp] theorem rdF_encI (imm : BitVec 12) (rs1 : Reg) (fn3 : BitVec 3) (rd : Reg) (op : BitVec 7) : rdF (encI imm rs1 fn3 rd op) = rd :=
  field_eq (fun i hi => by
    simp only [encI, BitVec.getLsbD_append]
    repeat' split
    all_goals first | omega | (congr 1; omega))
@[simp] theorem rs1F_encI (imm : BitVec 12) (rs1 : Reg) (fn3 : BitVec 3) (rd : Reg) (op : BitVec 7) : rs1F (encI imm rs1 fn3 rd op) = rs1 :=
  field_eq (fun i hi => by
    simp only [encI, BitVec.getLsbD_append]
    repeat' split
    all_goals first | omega | (congr 1; omega))
@[simp] theorem immI_encI (imm : BitVec 12) (rs1 : Reg) (fn3 : BitVec 3) (rd : Reg) (op : BitVec 7) : immI (encI imm rs1 fn3 rd op) = imm :=
  field_eq (fun i hi => by
    simp only [encI, BitVec.getLsbD_append]
    repeat' split
    all_goals first | omega | (congr 1; omega))
@[simp] theorem low_encI (imm : BitVec 12) (rs1 : Reg) (fn3 : BitVec 3) (rd : Reg) (op : BitVec 7) : (encI imm rs1 fn3 rd op).extractLsb' 0 2 = op.extractLsb' 0 2 := by
  ext i hi
  simp only [encI, BitVec.getElem_extractLsb', BitVec.getLsbD_append]
  repeat' split
  all_goals first | omega | (congr 1)
@[simp] theorem mid_encI (imm : BitVec 12) (rs1 : Reg) (fn3 : BitVec 3) (rd : Reg) (op : BitVec 7) : (encI imm rs1 fn3 rd op).extractLsb' 2 3 = op.extractLsb' 2 3 := by
  ext i hi
  simp only [encI, BitVec.getElem_extractLsb', BitVec.getLsbD_append]
  repeat' split
  all_goals first | omega | (congr 1)
@[simp] theorem opF_encS (imm : BitVec 12) (rs2 rs1 : Reg) (fn3 : BitVec 3) (op : BitVec 7) : opF (encS imm rs2 rs1 fn3 op) = op.toNat :=
  congrArg BitVec.toNat (field_eq (fun i hi => by
    simp only [encS, BitVec.getLsbD_append]
    repeat' split
    all_goals first | omega | (congr 1; omega)))
@[simp] theorem f3_encS (imm : BitVec 12) (rs2 rs1 : Reg) (fn3 : BitVec 3) (op : BitVec 7) : f3 (encS imm rs2 rs1 fn3 op) = fn3.toNat :=
  congrArg BitVec.toNat (field_eq (fun i hi => by
    simp only [encS, BitVec.getLsbD_append]
    repeat' split
    all_goals first | omega | (congr 1; omega)))
@[simp] theorem rs1F_encS (imm : BitVec 12) (rs2 rs1 : Reg) (fn3 : BitVec 3) (op : BitVec 7) : rs1F (encS imm rs2 rs1 fn3 op) = rs1 :=
  field_eq (fun i hi => by
    simp only [encS, BitVec.getLsbD_append]
    repeat' split
    all_goals first | omega | (congr 1; omega))
@[simp] theorem rs2F_encS (imm : BitVec 12) (rs2 rs1 : Reg) (fn3 : BitVec 3) (op : BitVec 7) : rs2F (encS imm rs2 rs1 fn3 op) = rs2 :=
  field_eq (fun i hi => by
    simp only [encS, BitVec.getLsbD_append]
    repeat' split
    all_goals first | omega | (congr 1; omega))
@[simp] theorem low_encS (imm : BitVec 12) (rs2 rs1 : Reg) (fn3 : BitVec 3) (op : BitVec 7) : (encS imm rs2 rs1 fn3 op).extractLsb' 0 2 = op.extractLsb' 0 2 := by
  ext i hi
  simp only [encS, BitVec.getElem_extractLsb', BitVec.getLsbD_append]
  repeat' split
  all_goals first | omega | (congr 1)
@[simp] theorem mid_encS (imm : BitVec 12) (rs2 rs1 : Reg) (fn3 : BitVec 3) (op : BitVec 7) : (encS imm rs2 rs1 fn3 op).extractLsb' 2 3 = op.extractLsb' 2 3 := by
  ext i hi
  simp only [encS, BitVec.getElem_extractLsb', BitVec.getLsbD_append]
  repeat' split
  all_goals first | omega | (congr 1)
@[simp] theorem opF_encB (off : BitVec 12) (rs2 rs1 : Reg) (fn3 : BitVec 3) (op : BitVec 7) : opF (encB off rs2 rs1 fn3 op) = op.toNat :=
  congrArg BitVec.toNat (field_eq (fun i hi => by
    simp only [encB, BitVec.getLsbD_append]
    repeat' split
    all_goals first | omega | (congr 1; omega)))
@[simp] theorem f3_encB (off : BitVec 12) (rs2 rs1 : Reg) (fn3 : BitVec 3) (op : BitVec 7) : f3 (encB off rs2 rs1 fn3 op) = fn3.toNat :=
  congrArg BitVec.toNat (field_eq (fun i hi => by
    simp only [encB, BitVec.getLsbD_append]
    repeat' split
    all_goals first | omega | (congr 1; omega)))
@[simp] theorem rs1F_encB (off : BitVec 12) (rs2 rs1 : Reg) (fn3 : BitVec 3) (op : BitVec 7) : rs1F (encB off rs2 rs1 fn3 op) = rs1 :=
  field_eq (fun i hi => by
    simp only [encB, BitVec.getLsbD_append]
    repeat' split
    all_goals first | omega | (congr 1; omega))
@[simp] theorem rs2F_encB (off : BitVec 12) (rs2 rs1 : Reg) (fn3 : BitVec 3) (op : BitVec 7) : rs2F (encB off rs2 rs1 fn3 op) = rs2 :=
  field_eq (fun i hi => by
    simp only [encB, BitVec.getLsbD_append]
    repeat' split
    all_goals first | omega | (congr 1; omega))
@[simp] theorem low_encB (off : BitVec 12) (rs2 rs1 : Reg) (fn3 : BitVec 3) (op : BitVec 7) : (encB off rs2 rs1 fn3 op).extractLsb' 0 2 = op.extractLsb' 0 2 := by
  ext i hi
  simp only [encB, BitVec.getElem_extractLsb', BitVec.getLsbD_append]
  repeat' split
  all_goals first | omega | (congr 1)
@[simp] theorem mid_encB (off : BitVec 12) (rs2 rs1 : Reg) (fn3 : BitVec 3) (op : BitVec 7) : (encB off rs2 rs1 fn3 op).extractLsb' 2 3 = op.extractLsb' 2 3 := by
  ext i hi
  simp only [encB, BitVec.getElem_extractLsb', BitVec.getLsbD_append]
  repeat' split
  all_goals first | omega | (congr 1)
@[simp] theorem opF_encU (imm : BitVec 20) (rd : Reg) (op : BitVec 7) : opF (encU imm rd op) = op.toNat :=
  congrArg BitVec.toNat (field_eq (fun i hi => by
    simp only [encU, BitVec.getLsbD_append]
    repeat' split
    all_goals first | omega | (congr 1; omega)))
@[simp] theorem rdF_encU (imm : BitVec 20) (rd : Reg) (op : BitVec 7) : rdF (encU imm rd op) = rd :=
  field_eq (fun i hi => by
    simp only [encU, BitVec.getLsbD_append]
    repeat' split
    all_goals first | omega | (congr 1; omega))
@[simp] theorem low_encU (imm : BitVec 20) (rd : Reg) (op : BitVec 7) : (encU imm rd op).extractLsb' 0 2 = op.extractLsb' 0 2 := by
  ext i hi
  simp only [encU, BitVec.getElem_extractLsb', BitVec.getLsbD_append]
  repeat' split
  all_goals first | omega | (congr 1)
@[simp] theorem mid_encU (imm : BitVec 20) (rd : Reg) (op : BitVec 7) : (encU imm rd op).extractLsb' 2 3 = op.extractLsb' 2 3 := by
  ext i hi
  simp only [encU, BitVec.getElem_extractLsb', BitVec.getLsbD_append]
  repeat' split
  all_goals first | omega | (congr 1)
@[simp] theorem opF_encJ (off : BitVec 20) (rd : Reg) (op : BitVec 7) : opF (encJ off rd op) = op.toNat :=
  congrArg BitVec.toNat (field_eq (fun i hi => by
    simp only [encJ, BitVec.getLsbD_append]
    repeat' split
    all_goals first | omega | (congr 1; omega)))
@[simp] theorem rdF_encJ (off : BitVec 20) (rd : Reg) (op : BitVec 7) : rdF (encJ off rd op) = rd :=
  field_eq (fun i hi => by
    simp only [encJ, BitVec.getLsbD_append]
    repeat' split
    all_goals first | omega | (congr 1; omega))
@[simp] theorem low_encJ (off : BitVec 20) (rd : Reg) (op : BitVec 7) : (encJ off rd op).extractLsb' 0 2 = op.extractLsb' 0 2 := by
  ext i hi
  simp only [encJ, BitVec.getElem_extractLsb', BitVec.getLsbD_append]
  repeat' split
  all_goals first | omega | (congr 1)
@[simp] theorem mid_encJ (off : BitVec 20) (rd : Reg) (op : BitVec 7) : (encJ off rd op).extractLsb' 2 3 = op.extractLsb' 2 3 := by
  ext i hi
  simp only [encJ, BitVec.getElem_extractLsb', BitVec.getLsbD_append]
  repeat' split
  all_goals first | omega | (congr 1)
@[simp] theorem opF_encQ (rs3 : Reg) (fn2 : BitVec 2) (rs2 rs1 : Reg) (fn3 : BitVec 3) (rd : Reg) (op : BitVec 7) : opF (encQ rs3 fn2 rs2 rs1 fn3 rd op) = op.toNat :=
  congrArg BitVec.toNat (field_eq (fun i hi => by
    simp only [encQ, BitVec.getLsbD_append]
    repeat' split
    all_goals first | omega | (congr 1; omega)))
@[simp] theorem f3_encQ (rs3 : Reg) (fn2 : BitVec 2) (rs2 rs1 : Reg) (fn3 : BitVec 3) (rd : Reg) (op : BitVec 7) : f3 (encQ rs3 fn2 rs2 rs1 fn3 rd op) = fn3.toNat :=
  congrArg BitVec.toNat (field_eq (fun i hi => by
    simp only [encQ, BitVec.getLsbD_append]
    repeat' split
    all_goals first | omega | (congr 1; omega)))
@[simp] theorem rdF_encQ (rs3 : Reg) (fn2 : BitVec 2) (rs2 rs1 : Reg) (fn3 : BitVec 3) (rd : Reg) (op : BitVec 7) : rdF (encQ rs3 fn2 rs2 rs1 fn3 rd op) = rd :=
  field_eq (fun i hi => by
    simp only [encQ, BitVec.getLsbD_append]
    repeat' split
    all_goals first | omega | (congr 1; omega))
@[simp] theorem rs1F_encQ (rs3 : Reg) (fn2 : BitVec 2) (rs2 rs1 : Reg) (fn3 : BitVec 3) (rd : Reg) (op : BitVec 7) : rs1F (encQ rs3 fn2 rs2 rs1 fn3 rd op) = rs1 :=
  field_eq (fun i hi => by
    simp only [encQ, BitVec.getLsbD_append]
    repeat' split
    all_goals first | omega | (congr 1; omega))
@[simp] theorem rs2F_encQ (rs3 : Reg) (fn2 : BitVec 2) (rs2 rs1 : Reg) (fn3 : BitVec 3) (rd : Reg) (op : BitVec 7) : rs2F (encQ rs3 fn2 rs2 rs1 fn3 rd op) = rs2 :=
  field_eq (fun i hi => by
    simp only [encQ, BitVec.getLsbD_append]
    repeat' split
    all_goals first | omega | (congr 1; omega))
@[simp] theorem rs3F_encQ (rs3 : Reg) (fn2 : BitVec 2) (rs2 rs1 : Reg) (fn3 : BitVec 3) (rd : Reg) (op : BitVec 7) : rs3F (encQ rs3 fn2 rs2 rs1 fn3 rd op) = rs3 :=
  field_eq (fun i hi => by
    simp only [encQ, BitVec.getLsbD_append]
    repeat' split
    all_goals first | omega | (congr 1; omega))
@[simp] theorem low_encQ (rs3 : Reg) (fn2 : BitVec 2) (rs2 rs1 : Reg) (fn3 : BitVec 3) (rd : Reg) (op : BitVec 7) : (encQ rs3 fn2 rs2 rs1 fn3 rd op).extractLsb' 0 2 = op.extractLsb' 0 2 := by
  ext i hi
  simp only [encQ, BitVec.getElem_extractLsb', BitVec.getLsbD_append]
  repeat' split
  all_goals first | omega | (congr 1)
@[simp] theorem mid_encQ (rs3 : Reg) (fn2 : BitVec 2) (rs2 rs1 : Reg) (fn3 : BitVec 3) (rd : Reg) (op : BitVec 7) : (encQ rs3 fn2 rs2 rs1 fn3 rd op).extractLsb' 2 3 = op.extractLsb' 2 3 := by
  ext i hi
  simp only [encQ, BitVec.getElem_extractLsb', BitVec.getLsbD_append]
  repeat' split
  all_goals first | omega | (congr 1)
@[simp] theorem immS_encS (imm : BitVec 12) (rs2 rs1 : Reg) (fn3 : BitVec 3) (op : BitVec 7) : immS (encS imm rs2 rs1 fn3 op) = imm := by
  apply BitVec.eq_of_getLsbD_eq
  intro i hi
  simp only [immS, encS, BitVec.getLsbD_extractLsb', BitVec.getLsbD_append]
  interval_cases i <;> simp
@[simp] theorem immB_encB (off : BitVec 12) (rs2 rs1 : Reg) (fn3 : BitVec 3) (op : BitVec 7) : immB (encB off rs2 rs1 fn3 op) = off := by
  apply BitVec.eq_of_getLsbD_eq
  intro i hi
  simp only [immB, encB, BitVec.getLsbD_extractLsb', BitVec.getLsbD_append]
  interval_cases i <;> simp
@[simp] theorem immJ_encJ (off : BitVec 20) (rd : Reg) (op : BitVec 7) : immJ (encJ off rd op) = off := by
  apply BitVec.eq_of_getLsbD_eq
  intro i hi
  simp only [immJ, encJ, BitVec.getLsbD_extractLsb', BitVec.getLsbD_append]
  interval_cases i <;> simp

/-- Fields that single instructions cut further. -/
@[simp] theorem fn7_encR (fn7 : BitVec 7) (rs2 rs1 : Reg) (fn3 : BitVec 3) (rd : Reg) (op : BitVec 7) :
    (encR fn7 rs2 rs1 fn3 rd op).extractLsb' 25 7 = fn7 :=
  field_eq (fun i hi => by
    simp only [encR, BitVec.getLsbD_append]
    repeat' split
    all_goals first | omega | (congr 1; omega))
@[simp] theorem fn2_encQ (rs3 : Reg) (fn2 : BitVec 2) (rs2 rs1 : Reg) (fn3 : BitVec 3) (rd : Reg) (op : BitVec 7) :
    (encQ rs3 fn2 rs2 rs1 fn3 rd op).extractLsb' 25 2 = fn2 :=
  field_eq (fun i hi => by
    simp only [encQ, BitVec.getLsbD_append]
    repeat' split
    all_goals first | omega | (congr 1; omega))
@[simp] theorem imm_encU (imm : BitVec 20) (rd : Reg) (op : BitVec 7) : (encU imm rd op).extractLsb' 12 20 = imm :=
  field_eq (fun i hi => by
    simp only [encU, BitVec.getLsbD_append]
    repeat' split
    all_goals first | omega | (congr 1; omega))
/-- Bits of an I immediate, by their place in it. -/
theorem imm_encI (imm : BitVec 12) (rs1 : Reg) (fn3 : BitVec 3) (rd : Reg) (op : BitVec 7) (s n : Nat) (h : s + n ≤ 12) :
    (encI imm rs1 fn3 rd op).extractLsb' (20 + s) n = imm.extractLsb' s n := by
  apply BitVec.eq_of_getLsbD_eq
  intro i hi
  rw [BitVec.getLsbD_extractLsb', BitVec.getLsbD_extractLsb']
  simp only [encI, BitVec.getLsbD_append]
  rw [decide_eq_true hi, Bool.true_and, Bool.true_and]
  repeat' split
  all_goals first | omega | (congr 1; omega)
/-- The acquire and release bits and the funct5 of an atomic. -/
@[simp] theorem f5_encR (fn5 : BitVec 5) (aq rl : Bool) (rs2 rs1 : Reg) (fn3 : BitVec 3) (rd : Reg) (op : BitVec 7) :
    f5 (encR (fn5 ++ bit aq ++ bit rl) rs2 rs1 fn3 rd op) = fn5.toNat :=
  congrArg BitVec.toNat (field_eq (fun i hi => by
    simp only [encR, bit, BitVec.getLsbD_append]
    repeat' split
    all_goals first | omega | (congr 1; omega)))
@[simp] theorem aq_encR (fn5 : BitVec 5) (aq rl : Bool) (rs2 rs1 : Reg) (fn3 : BitVec 3) (rd : Reg) (op : BitVec 7) :
    (encR (fn5 ++ bit aq ++ bit rl) rs2 rs1 fn3 rd op)[26] = aq := by
  rw [← BitVec.getLsbD_eq_getElem]
  simp only [encR, bit, BitVec.getLsbD_append]
  simp
@[simp] theorem rl_encR (fn5 : BitVec 5) (aq rl : Bool) (rs2 rs1 : Reg) (fn3 : BitVec 3) (rd : Reg) (op : BitVec 7) :
    (encR (fn5 ++ bit aq ++ bit rl) rs2 rs1 fn3 rd op)[25] = rl := by
  rw [← BitVec.getLsbD_eq_getElem]
  simp only [encR, bit, BitVec.getLsbD_append]
  simp

theorem encLaneL_fields (f : LaneL) (opc : BitVec 8) : laneL (encLaneL f opc) = f := by
  obtain ⟨⟨m4, yl, st, mn, ms, kb, ka, sb, sa, vd, ty, fn⟩, m20, kc, sc⟩ := f
  simp only [laneL, laneBase, LaneL.mk.injEq, LaneBase.mk.injEq]
  refine ⟨⟨?_, ?_, ?_, ?_, ?_, ?_, ?_, ?_, ?_, ?_, ?_, ?_⟩, ?_, ?_, ?_⟩ <;> exact field_eq (fun i hi => by
    simp only [encLaneL, encBase, BitVec.getLsbD_append]
    simp (disch := omega) only [if_pos, if_neg]
    congr 1; omega)
theorem encLaneJ_fields (f : LaneJ) (opc : BitVec 8) : laneJ (encLaneJ f opc) = f := by
  obtain ⟨⟨m4, yl, st, mn, ms, kb, ka, sb, sa, vd, ty, fn⟩, imm⟩ := f
  simp only [laneJ, laneBase, LaneJ.mk.injEq, LaneBase.mk.injEq]
  refine ⟨⟨?_, ?_, ?_, ?_, ?_, ?_, ?_, ?_, ?_, ?_, ?_, ?_⟩, ?_⟩ <;> exact field_eq (fun i hi => by
    simp only [encLaneJ, encBase, BitVec.getLsbD_append]
    simp (disch := omega) only [if_pos, if_neg]
    congr 1; omega)
theorem encLaneL_low (f : LaneL) (opc : BitVec 8) (i : Nat) (h : i < 8) : (encLaneL f opc).getLsbD i = opc.getLsbD i := by
  rw [encLaneL, encBase]; simp only [BitVec.getLsbD_append]
  rw [if_pos (by omega), if_pos (by omega)]
theorem encLaneJ_low (f : LaneJ) (opc : BitVec 8) (i : Nat) (h : i < 8) : (encLaneJ f opc).getLsbD i = opc.getLsbD i := by
  rw [encLaneJ, encBase]; simp only [BitVec.getLsbD_append]
  rw [if_pos (by omega), if_pos (by omega)]
/-- The opcode of an encoded lane instruction, in either form. -/
theorem encLaneL_opc (f : LaneL) (opc : BitVec 8) : (encLaneL f opc).extractLsb' 0 7 = opc.extractLsb' 0 7 :=
  field_eq (fun i hi => by rw [encLaneL_low f opc (0 + i) (by omega), BitVec.getLsbD_extractLsb', decide_eq_true hi, Bool.true_and])
theorem encLaneJ_opc (f : LaneJ) (opc : BitVec 8) : (encLaneJ f opc).extractLsb' 0 7 = opc.extractLsb' 0 7 :=
  field_eq (fun i hi => by rw [encLaneJ_low f opc (0 + i) (by omega), BitVec.getLsbD_extractLsb', decide_eq_true hi, Bool.true_and])
/-- The three words of a lane instruction make it up again. -/
theorem laneWordList_join (w : LaneWords) : w.extractLsb' 64 32 ++ w.extractLsb' 32 32 ++ w.extractLsb' 0 32 = w := by
  apply BitVec.eq_of_getLsbD_eq
  intro i hi
  simp only [BitVec.getLsbD_append, BitVec.getLsbD_extractLsb']
  by_cases h : i < 32
  · rw [if_pos h, decide_eq_true h, Bool.true_and]; congr 1; omega
  · rw [if_neg h]
    by_cases g : i - 32 < 32
    · rw [if_pos g, decide_eq_true g, Bool.true_and]; congr 1; omega
    · rw [if_neg g, decide_eq_true (by omega), Bool.true_and]; congr 1; omega

end Sys2Proof.Laws
end

