-- ==== Sys2Proof/Laws/Exec.lean ====
section
/-! SUPPORT. Dispatch one instruction at a time: what `exec` calls for each constructor. -/
namespace Sys2Proof.Laws
open Sys2Proof.Machine

theorem exec_powerOn (s : State) : exec (.powerOn) s = execPowerOn s := rfl
theorem exec_bringupStage {a} (s : State) : exec (.bringupStage a) s = execBringupStage a s := rfl
theorem exec_recover (s : State) : exec (.recover) s = execRecover s := rfl
theorem exec_bootGroupAdmit {a} (s : State) : exec (.bootGroupAdmit a) s = execBootGroupAdmit a s := rfl
theorem exec_registerWrite {a} {b} (s : State) : exec (.registerWrite a b) s = execRegisterWrite a b s := rfl
theorem exec_mspWrite {a} (s : State) : exec (.mspWrite a) s = execMspWrite a s := rfl
theorem exec_timerExpire {a} (s : State) : exec (.timerExpire a) s = execTimerExpire a s := rfl
theorem exec_imsicMessage {a} {b} {c} {d} (s : State) : exec (.imsicMessage a b c d) s = execImsicMessage a b c d s := rfl
theorem exec_trapEntry {a} (s : State) : exec (.trapEntry a) s = execTrapEntry a s := rfl
theorem exec_issuePick {a} {b} (s : State) : exec (.issuePick a b) s = execIssuePick a b s := rfl
theorem exec_starvationBoost {a} (s : State) : exec (.starvationBoost a) s = execStarvationBoost a s := rfl
theorem exec_yieldExpire {a} (s : State) : exec (.yieldExpire a) s = execYieldExpire a s := rfl
theorem exec_laneResultWrite {a} (s : State) : exec (.laneResultWrite a) s = execLaneResultWrite a s := rfl
theorem exec_admissionDecision {a} (s : State) : exec (.admissionDecision a) s = execAdmissionDecision a s := rfl
theorem exec_easelRefill {a} (s : State) : exec (.easelRefill a) s = execEaselRefill a s := rfl
theorem exec_exitDrainDone {a} (s : State) : exec (.exitDrainDone a) s = execExitDrainDone a s := rfl
theorem exec_workgroupRelease {a} (s : State) : exec (.workgroupRelease a) s = execWorkgroupRelease a s := rfl
theorem exec_joinSatisfied {a} (s : State) : exec (.joinSatisfied a) s = execJoinSatisfied a s := rfl
theorem exec_launchCheck {a} (s : State) : exec (.launchCheck a) s = execLaunchCheck a s := rfl
theorem exec_launchInitialPlacement {a} (s : State) : exec (.launchInitialPlacement a) s = execLaunchInitialPlacement a s := rfl
theorem exec_launchComplete {a} (s : State) : exec (.launchComplete a) s = execLaunchComplete a s := rfl
theorem exec_taskletArrive {a} (s : State) : exec (.taskletArrive a) s = execTaskletArrive a s := rfl
theorem exec_rotationSlotRefill {a} {b} (s : State) : exec (.rotationSlotRefill a b) s = execRotationSlotRefill a b s := rfl
theorem exec_runQueueRefill {a} (s : State) : exec (.runQueueRefill a) s = execRunQueueRefill a s := rfl
theorem exec_taskletMigrate {a} (s : State) : exec (.taskletMigrate a) s = execTaskletMigrate a s := rfl
theorem exec_lateReplyForward {a} {b} (s : State) : exec (.lateReplyForward a b) s = execLateReplyForward a b s := rfl
theorem exec_taskletTrap {a} {b} {c} (s : State) : exec (.taskletTrap a b c) s = execTaskletTrap a b c s := rfl
theorem exec_mboxHeaderWrite {a} (s : State) : exec (.mboxHeaderWrite a) s = execMboxHeaderWrite a s := rfl
theorem exec_redUpdateExecute {a} (s : State) : exec (.redUpdateExecute a) s = execRedUpdateExecute a s := rfl
theorem exec_homeAccess {a} (s : State) : exec (.homeAccess a) s = execHomeAccess a s := rfl
theorem exec_feBounce {a} (s : State) : exec (.feBounce a) s = execFeBounce a s := rfl
theorem exec_feResend {a} (s : State) : exec (.feResend a) s = execFeResend a s := rfl
theorem exec_feWithdrawal {a} (s : State) : exec (.feWithdrawal a) s = execFeWithdrawal a s := rfl
theorem exec_lrwGrant {a} (s : State) : exec (.lrwGrant a) s = execLrwGrant a s := rfl
theorem exec_lrwWaitRetry {a} {b} (s : State) : exec (.lrwWaitRetry a b) s = execLrwWaitRetry a b s := rfl
theorem exec_reservationRevoke {a} (s : State) : exec (.reservationRevoke a) s = execReservationRevoke a s := rfl
theorem exec_lrHoldExpire {a} (s : State) : exec (.lrHoldExpire a) s = execLrHoldExpire a s := rfl
theorem exec_recall {a} (s : State) : exec (.recall a) s = execRecall a s := rfl
theorem exec_leaseRenewalReply {a} (s : State) : exec (.leaseRenewalReply a) s = execLeaseRenewalReply a s := rfl
theorem exec_leaseSweep {a} (s : State) : exec (.leaseSweep a) s = execLeaseSweep a s := rfl
theorem exec_pageWalkComplete {a} (s : State) : exec (.pageWalkComplete a) s = execPageWalkComplete a s := rfl
theorem exec_streamerRound {a} (s : State) : exec (.streamerRound a) s = execStreamerRound a s := rfl
theorem exec_copyOwnership {a} (s : State) : exec (.copyOwnership a) s = execCopyOwnership a s := rfl
theorem exec_copyFaultMessage {a} (s : State) : exec (.copyFaultMessage a) s = execCopyFaultMessage a s := rfl
theorem exec_copyComplete {a} (s : State) : exec (.copyComplete a) s = execCopyComplete a s := rfl
theorem exec_copyResume {a} (s : State) : exec (.copyResume a) s = execCopyResume a s := rfl
theorem exec_copyDiscard {a} (s : State) : exec (.copyDiscard a) s = execCopyDiscard a s := rfl
theorem exec_accstStoreFault {a} (s : State) : exec (.accstStoreFault a) s = execAccstStoreFault a s := rfl
theorem exec_accstStoresAcked {a} {b} (s : State) : exec (.accstStoresAcked a b) s = execAccstStoresAcked a b s := rfl
theorem exec_park {a} {b} (s : State) : exec (.park a b) s = execPark a b s := rfl
theorem exec_parkAndHold {a} {b} (s : State) : exec (.parkAndHold a b) s = execParkAndHold a b s := rfl
theorem exec_releaseHold {a} {b} (s : State) : exec (.releaseHold a b) s = execReleaseHold a b s := rfl
theorem exec_terminate {a} {b} (s : State) : exec (.terminate a b) s = execTerminate a b s := rfl
theorem exec_preemptGraceExpire {a} (s : State) : exec (.preemptGraceExpire a) s = execPreemptGraceExpire a s := rfl
theorem exec_energyMeterReport {a} {b} (s : State) : exec (.energyMeterReport a b) s = execEnergyMeterReport a b s := rfl
theorem exec_energyWindowStart (s : State) : exec (.energyWindowStart) s = execEnergyWindowStart s := rfl
theorem exec_thermalLimit {a} (s : State) : exec (.thermalLimit a) s = execThermalLimit a s := rfl
theorem exec_thermalClear (s : State) : exec (.thermalClear) s = execThermalClear s := rfl
theorem exec_eolUpdate {a} {b} {c} (s : State) : exec (.eolUpdate a b c) s = execEolUpdate a b c s := rfl
theorem exec_partitionCreate {a} (s : State) : exec (.partitionCreate a) s = execPartitionCreate a s := rfl
theorem exec_partitionFree {a} (s : State) : exec (.partitionFree a) s = execPartitionFree a s := rfl
theorem exec_partitionReset {a} (s : State) : exec (.partitionReset a) s = execPartitionReset a s := rfl
theorem exec_partitionResetFlush {a} (s : State) : exec (.partitionResetFlush a) s = execPartitionResetFlush a s := rfl
theorem exec_partitionResetComplete {a} (s : State) : exec (.partitionResetComplete a) s = execPartitionResetComplete a s := rfl
theorem exec_free {a} (s : State) : exec (.free a) s = execFree a s := rfl
theorem exec_flushl2 {a} (s : State) : exec (.flushl2 a) s = execFlushl2 a s := rfl
theorem exec_extend {a} (s : State) : exec (.extend a) s = execExtend a s := rfl
theorem exec_gessoInitComplete {a} (s : State) : exec (.gessoInitComplete a) s = execGessoInitComplete a s := rfl
theorem exec_glazeStart {a} (s : State) : exec (.glazeStart a) s = execGlazeStart a s := rfl
theorem exec_glazePassStart {a} (s : State) : exec (.glazePassStart a) s = execGlazePassStart a s := rfl
theorem exec_glazeVisit {a} (s : State) : exec (.glazeVisit a) s = execGlazeVisit a s := rfl
theorem exec_varnishLoad {a} (s : State) : exec (.varnishLoad a) s = execVarnishLoad a s := rfl
theorem exec_varnishRevoke {a} (s : State) : exec (.varnishRevoke a) s = execVarnishRevoke a s := rfl
theorem exec_kdataRead {a} (s : State) : exec (.kdataRead a) s = execKdataRead a s := rfl
theorem exec_kdataWrite {a} {b} (s : State) : exec (.kdataWrite a b) s = execKdataWrite a b s := rfl
theorem exec_ktrcWrite {a} {b} (s : State) : exec (.ktrcWrite a b) s = execKtrcWrite a b s := rfl
theorem exec_ksktWrite {a} {b} (s : State) : exec (.ksktWrite a b) s = execKsktWrite a b s := rfl
theorem exec_kstopStop {a} {b} (s : State) : exec (.kstopStop a b) s = execKstopStop a b s := rfl
theorem exec_debugStopTake {a} (s : State) : exec (.debugStopTake a) s = execDebugStopTake a s := rfl
theorem exec_kstopRelease {a} {b} (s : State) : exec (.kstopRelease a b) s = execKstopRelease a b s := rfl
theorem exec_sketchPulse (s : State) : exec (.sketchPulse) s = execSketchPulse s := rfl
theorem exec_mailboxHostWrite {a} {b} {c} (s : State) : exec (.mailboxHostWrite a b c) s = execMailboxHostWrite a b c s := rfl
theorem exec_mailboxHostTake {a} {b} (s : State) : exec (.mailboxHostTake a b) s = execMailboxHostTake a b s := rfl
theorem exec_hostMemAccess {a} {b} {c} {d} (s : State) : exec (.hostMemAccess a b c d) s = execHostMemAccess a b c d s := rfl
theorem exec_farWriteReceive {a} {b} {c} {d} (s : State) : exec (.farWriteReceive a b c d) s = execFarWriteReceive a b c d s := rfl
theorem exec_vfBindingWrite {a} {b} (s : State) : exec (.vfBindingWrite a b) s = execVfBindingWrite a b s := rfl
theorem exec_lockInterfaceRequest {a} (s : State) : exec (.lockInterfaceRequest a) s = execLockInterfaceRequest a s := rfl
theorem exec_startInterfaceRequest {a} (s : State) : exec (.startInterfaceRequest a) s = execStartInterfaceRequest a s := rfl
theorem exec_stopInterfaceRequest {a} (s : State) : exec (.stopInterfaceRequest a) s = execStopInterfaceRequest a s := rfl
theorem exec_getDeviceInterfaceReport {a} (s : State) : exec (.getDeviceInterfaceReport a) s = execGetDeviceInterfaceReport a s := rfl
theorem exec_getDeviceInterfaceState {a} (s : State) : exec (.getDeviceInterfaceState a) s = execGetDeviceInterfaceState a s := rfl
theorem exec_functionLevelReset {a} (s : State) : exec (.functionLevelReset a) s = execFunctionLevelReset a s := rfl
theorem exec_ideStreamFailure {a} (s : State) : exec (.ideStreamFailure a) s = execIdeStreamFailure a s := rfl
theorem exec_getVersion {a} (s : State) : exec (.getVersion a) s = execGetVersion a s := rfl
theorem exec_getCapabilities {a} (s : State) : exec (.getCapabilities a) s = execGetCapabilities a s := rfl
theorem exec_negotiateAlgorithms {a} (s : State) : exec (.negotiateAlgorithms a) s = execNegotiateAlgorithms a s := rfl
theorem exec_getDigests {a} (s : State) : exec (.getDigests a) s = execGetDigests a s := rfl
theorem exec_getCertificate {a} (s : State) : exec (.getCertificate a) s = execGetCertificate a s := rfl
theorem exec_challenge {a} (s : State) : exec (.challenge a) s = execChallenge a s := rfl
theorem exec_getMeasurements {a} (s : State) : exec (.getMeasurements a) s = execGetMeasurements a s := rfl
theorem exec_keyExchange {a} (s : State) : exec (.keyExchange a) s = execKeyExchange a s := rfl
theorem exec_finish {a} (s : State) : exec (.finish a) s = execFinish a s := rfl
theorem exec_endSession {a} (s : State) : exec (.endSession a) s = execEndSession a s := rfl
theorem exec_vendorDefinedRequest {a} (s : State) : exec (.vendorDefinedRequest a) s = execVendorDefinedRequest a s := rfl
theorem exec_unsupportedRequest {a} (s : State) : exec (.unsupportedRequest a) s = execUnsupportedRequest a s := rfl
theorem exec_farWriteAcknowledgement {a} {b} (s : State) : exec (.farWriteAcknowledgement a b) s = execFarWriteAcknowledgement a b s := rfl
theorem exec_lrun {a} (s : State) : exec (.lrun a) s = execLrun a s := rfl
theorem exec_lrunr {a} (s : State) : exec (.lrunr a) s = execLrunr a s := rfl
theorem exec_lpc {a} {b} (s : State) : exec (.lpc a b) s = execLpc a b s := rfl
theorem exec_mand {a} {b} {c} (s : State) : exec (.mand a b c) s = execMand a b c s := rfl
theorem exec_mor {a} {b} {c} (s : State) : exec (.mor a b c) s = execMor a b c s := rfl
theorem exec_mxor {a} {b} {c} (s : State) : exec (.mxor a b c) s = execMxor a b c s := rfl
theorem exec_mandn {a} {b} {c} (s : State) : exec (.mandn a b c) s = execMandn a b c s := rfl
theorem exec_mnot {a} {b} (s : State) : exec (.mnot a b) s = execMnot a b s := rfl
theorem exec_mmov {a} {b} (s : State) : exec (.mmov a b) s = execMmov a b s := rfl
theorem exec_mpush {a} (s : State) : exec (.mpush a) s = execMpush a s := rfl
theorem exec_mpop {a} (s : State) : exec (.mpop a) s = execMpop a s := rfl
theorem exec_mpeek {a} {b} (s : State) : exec (.mpeek a b) s = execMpeek a b s := rfl
theorem exec_mpoke {a} {b} (s : State) : exec (.mpoke a b) s = execMpoke a b s := rfl
theorem exec_mcnt {a} {b} (s : State) : exec (.mcnt a b) s = execMcnt a b s := rfl
theorem exec_mfirst {a} {b} (s : State) : exec (.mfirst a b) s = execMfirst a b s := rfl
theorem exec_mgetx {a} {b} {c} (s : State) : exec (.mgetx a b c) s = execMgetx a b c s := rfl
theorem exec_msetx {a} {b} {c} (s : State) : exec (.msetx a b c) s = execMsetx a b c s := rfl
theorem exec_bmany {a} {b} (s : State) : exec (.bmany a b) s = execBmany a b s := rfl
theorem exec_bmnone {a} {b} (s : State) : exec (.bmnone a b) s = execBmnone a b s := rfl
theorem exec_bmall {a} {b} (s : State) : exec (.bmall a b) s = execBmall a b s := rfl
theorem exec_ldfe {a} {b} {c} (s : State) : exec (.ldfe a b c) s = execLdfe a b c s := rfl
theorem exec_ldff {a} {b} {c} (s : State) : exec (.ldff a b c) s = execLdff a b c s := rfl
theorem exec_stef {a} {b} {c} (s : State) : exec (.stef a b c) s = execStef a b c s := rfl
theorem exec_stff {a} {b} {c} (s : State) : exec (.stff a b c) s = execStff a b c s := rfl
theorem exec_feclr {a} {b} (s : State) : exec (.feclr a b) s = execFeclr a b s := rfl
theorem exec_lrwW {a} {b} (s : State) : exec (.lrwW a b) s = execLrwW a b s := rfl
theorem exec_lrwD {a} {b} (s : State) : exec (.lrwD a b) s = execLrwD a b s := rfl
theorem exec_schW {a} {b} {c} (s : State) : exec (.schW a b c) s = execSchW a b c s := rfl
theorem exec_schD {a} {b} {c} (s : State) : exec (.schD a b c) s = execSchD a b c s := rfl
theorem exec_fenceS {a} {b} (s : State) : exec (.fenceS a b) s = execFenceS a b s := rfl
theorem exec_barInit {a} {b} (s : State) : exec (.barInit a b) s = execBarInit a b s := rfl
theorem exec_barArrive {a} {b} (s : State) : exec (.barArrive a b) s = execBarArrive a b s := rfl
theorem exec_barWait {a} {b} (s : State) : exec (.barWait a b) s = execBarWait a b s := rfl
theorem exec_barQuery {a} {b} (s : State) : exec (.barQuery a b) s = execBarQuery a b s := rfl
theorem exec_gbarArrive {a} {b} (s : State) : exec (.gbarArrive a b) s = execGbarArrive a b s := rfl
theorem exec_gbarWait {a} {b} (s : State) : exec (.gbarWait a b) s = execGbarWait a b s := rfl
theorem exec_launch {a} {b} (s : State) : exec (.launch a b) s = execLaunch a b s := rfl
theorem exec_fork {a} {b} {c} {d} (s : State) : exec (.fork a b c d) s = execFork a b c d s := rfl
theorem exec_join {a} {b} (s : State) : exec (.join a b) s = execJoin a b s := rfl
theorem exec_callat {a} {b} {c} (s : State) : exec (.callat a b c) s = execCallat a b c s := rfl
theorem exec_spawnat {a} {b} (s : State) : exec (.spawnat a b) s = execSpawnat a b s := rfl
theorem exec_reply {a} (s : State) : exec (.reply a) s = execReply a s := rfl
theorem exec_cpy {a} {b} {c} {d} (s : State) : exec (.cpy a b c d) s = execCpy a b c d s := rfl
theorem exec_cpyRs {a} {b} {c} {d} (s : State) : exec (.cpyRs a b c d) s = execCpyRs a b c d s := rfl
theorem exec_cpyPf {a} {b} {c} (s : State) : exec (.cpyPf a b c) s = execCpyPf a b c s := rfl
theorem exec_mld {a} {b} {c} (s : State) : exec (.mld a b c) s = execMld a b c s := rfl
theorem exec_accGet {a} (s : State) : exec (.accGet a) s = execAccGet a s := rfl
theorem exec_accPut {a} (s : State) : exec (.accPut a) s = execAccPut a s := rfl
theorem exec_accZero {a} (s : State) : exec (.accZero a) s = execAccZero a s := rfl
theorem exec_accQuery {a} (s : State) : exec (.accQuery a) s = execAccQuery a s := rfl
theorem exec_lbind {a} (s : State) : exec (.lbind a) s = execLbind a s := rfl
theorem exec_mark {a} (s : State) : exec (.mark a) s = execMark a s := rfl
theorem exec_lui {a} {b} (s : State) : exec (.lui a b) s = execLui a b s := rfl
theorem exec_auipc {a} {b} (s : State) : exec (.auipc a b) s = execAuipc a b s := rfl
theorem exec_jal {a} {b} (s : State) : exec (.jal a b) s = execJal a b s := rfl
theorem exec_jalr {a} {b} {c} (s : State) : exec (.jalr a b c) s = execJalr a b c s := rfl
theorem exec_beq {a} {b} {c} (s : State) : exec (.beq a b c) s = execBeq a b c s := rfl
theorem exec_bne {a} {b} {c} (s : State) : exec (.bne a b c) s = execBne a b c s := rfl
theorem exec_blt {a} {b} {c} (s : State) : exec (.blt a b c) s = execBlt a b c s := rfl
theorem exec_bge {a} {b} {c} (s : State) : exec (.bge a b c) s = execBge a b c s := rfl
theorem exec_bltu {a} {b} {c} (s : State) : exec (.bltu a b c) s = execBltu a b c s := rfl
theorem exec_bgeu {a} {b} {c} (s : State) : exec (.bgeu a b c) s = execBgeu a b c s := rfl
theorem exec_lb {a} {b} {c} (s : State) : exec (.lb a b c) s = execLb a b c s := rfl
theorem exec_lh {a} {b} {c} (s : State) : exec (.lh a b c) s = execLh a b c s := rfl
theorem exec_lw {a} {b} {c} (s : State) : exec (.lw a b c) s = execLw a b c s := rfl
theorem exec_ld {a} {b} {c} (s : State) : exec (.ld a b c) s = execLd a b c s := rfl
theorem exec_lbu {a} {b} {c} (s : State) : exec (.lbu a b c) s = execLbu a b c s := rfl
theorem exec_lhu {a} {b} {c} (s : State) : exec (.lhu a b c) s = execLhu a b c s := rfl
theorem exec_lwu {a} {b} {c} (s : State) : exec (.lwu a b c) s = execLwu a b c s := rfl
theorem exec_sb {a} {b} {c} (s : State) : exec (.sb a b c) s = execSb a b c s := rfl
theorem exec_sh {a} {b} {c} (s : State) : exec (.sh a b c) s = execSh a b c s := rfl
theorem exec_sw {a} {b} {c} (s : State) : exec (.sw a b c) s = execSw a b c s := rfl
theorem exec_sd {a} {b} {c} (s : State) : exec (.sd a b c) s = execSd a b c s := rfl
theorem exec_addi {a} {b} {c} (s : State) : exec (.addi a b c) s = execAddi a b c s := rfl
theorem exec_slti {a} {b} {c} (s : State) : exec (.slti a b c) s = execSlti a b c s := rfl
theorem exec_sltiu {a} {b} {c} (s : State) : exec (.sltiu a b c) s = execSltiu a b c s := rfl
theorem exec_xori {a} {b} {c} (s : State) : exec (.xori a b c) s = execXori a b c s := rfl
theorem exec_ori {a} {b} {c} (s : State) : exec (.ori a b c) s = execOri a b c s := rfl
theorem exec_andi {a} {b} {c} (s : State) : exec (.andi a b c) s = execAndi a b c s := rfl
theorem exec_slli {a} {b} {c} (s : State) : exec (.slli a b c) s = execSlli a b c s := rfl
theorem exec_srli {a} {b} {c} (s : State) : exec (.srli a b c) s = execSrli a b c s := rfl
theorem exec_srai {a} {b} {c} (s : State) : exec (.srai a b c) s = execSrai a b c s := rfl
theorem exec_add {a} {b} {c} (s : State) : exec (.add a b c) s = execAdd a b c s := rfl
theorem exec_sub {a} {b} {c} (s : State) : exec (.sub a b c) s = execSub a b c s := rfl
theorem exec_sll {a} {b} {c} (s : State) : exec (.sll a b c) s = execSll a b c s := rfl
theorem exec_slt {a} {b} {c} (s : State) : exec (.slt a b c) s = execSlt a b c s := rfl
theorem exec_sltu {a} {b} {c} (s : State) : exec (.sltu a b c) s = execSltu a b c s := rfl
theorem exec_xor {a} {b} {c} (s : State) : exec (.xor a b c) s = execXor a b c s := rfl
theorem exec_srl {a} {b} {c} (s : State) : exec (.srl a b c) s = execSrl a b c s := rfl
theorem exec_sra {a} {b} {c} (s : State) : exec (.sra a b c) s = execSra a b c s := rfl
theorem exec_or {a} {b} {c} (s : State) : exec (.or a b c) s = execOr a b c s := rfl
theorem exec_and {a} {b} {c} (s : State) : exec (.and a b c) s = execAnd a b c s := rfl
theorem exec_addiw {a} {b} {c} (s : State) : exec (.addiw a b c) s = execAddiw a b c s := rfl
theorem exec_slliw {a} {b} {c} (s : State) : exec (.slliw a b c) s = execSlliw a b c s := rfl
theorem exec_srliw {a} {b} {c} (s : State) : exec (.srliw a b c) s = execSrliw a b c s := rfl
theorem exec_sraiw {a} {b} {c} (s : State) : exec (.sraiw a b c) s = execSraiw a b c s := rfl
theorem exec_addw {a} {b} {c} (s : State) : exec (.addw a b c) s = execAddw a b c s := rfl
theorem exec_subw {a} {b} {c} (s : State) : exec (.subw a b c) s = execSubw a b c s := rfl
theorem exec_sllw {a} {b} {c} (s : State) : exec (.sllw a b c) s = execSllw a b c s := rfl
theorem exec_srlw {a} {b} {c} (s : State) : exec (.srlw a b c) s = execSrlw a b c s := rfl
theorem exec_sraw {a} {b} {c} (s : State) : exec (.sraw a b c) s = execSraw a b c s := rfl
theorem exec_fence {a} {b} {c} {d} {e} (s : State) : exec (.fence a b c d e) s = execFence a b c d e s := rfl
theorem exec_fenceTso {a} {b} (s : State) : exec (.fenceTso a b) s = execFenceTso a b s := rfl
theorem exec_mul {a} {b} {c} (s : State) : exec (.mul a b c) s = execMul a b c s := rfl
theorem exec_mulh {a} {b} {c} (s : State) : exec (.mulh a b c) s = execMulh a b c s := rfl
theorem exec_mulhsu {a} {b} {c} (s : State) : exec (.mulhsu a b c) s = execMulhsu a b c s := rfl
theorem exec_mulhu {a} {b} {c} (s : State) : exec (.mulhu a b c) s = execMulhu a b c s := rfl
theorem exec_div {a} {b} {c} (s : State) : exec (.div a b c) s = execDiv a b c s := rfl
theorem exec_divu {a} {b} {c} (s : State) : exec (.divu a b c) s = execDivu a b c s := rfl
theorem exec_rem {a} {b} {c} (s : State) : exec (.rem a b c) s = execRem a b c s := rfl
theorem exec_remu {a} {b} {c} (s : State) : exec (.remu a b c) s = execRemu a b c s := rfl
theorem exec_mulw {a} {b} {c} (s : State) : exec (.mulw a b c) s = execMulw a b c s := rfl
theorem exec_divw {a} {b} {c} (s : State) : exec (.divw a b c) s = execDivw a b c s := rfl
theorem exec_divuw {a} {b} {c} (s : State) : exec (.divuw a b c) s = execDivuw a b c s := rfl
theorem exec_remw {a} {b} {c} (s : State) : exec (.remw a b c) s = execRemw a b c s := rfl
theorem exec_remuw {a} {b} {c} (s : State) : exec (.remuw a b c) s = execRemuw a b c s := rfl
theorem exec_lrW {a} {b} {c} {d} (s : State) : exec (.lrW a b c d) s = execLrW a b c d s := rfl
theorem exec_lrD {a} {b} {c} {d} (s : State) : exec (.lrD a b c d) s = execLrD a b c d s := rfl
theorem exec_scW {a} {b} {c} {d} {e} (s : State) : exec (.scW a b c d e) s = execScW a b c d e s := rfl
theorem exec_scD {a} {b} {c} {d} {e} (s : State) : exec (.scD a b c d e) s = execScD a b c d e s := rfl
theorem exec_amoswapW {a} {b} {c} {d} {e} (s : State) : exec (.amoswapW a b c d e) s = execAmoswapW a b c d e s := rfl
theorem exec_amoswapD {a} {b} {c} {d} {e} (s : State) : exec (.amoswapD a b c d e) s = execAmoswapD a b c d e s := rfl
theorem exec_amoaddW {a} {b} {c} {d} {e} (s : State) : exec (.amoaddW a b c d e) s = execAmoaddW a b c d e s := rfl
theorem exec_amoaddD {a} {b} {c} {d} {e} (s : State) : exec (.amoaddD a b c d e) s = execAmoaddD a b c d e s := rfl
theorem exec_amoxorW {a} {b} {c} {d} {e} (s : State) : exec (.amoxorW a b c d e) s = execAmoxorW a b c d e s := rfl
theorem exec_amoxorD {a} {b} {c} {d} {e} (s : State) : exec (.amoxorD a b c d e) s = execAmoxorD a b c d e s := rfl
theorem exec_amoandW {a} {b} {c} {d} {e} (s : State) : exec (.amoandW a b c d e) s = execAmoandW a b c d e s := rfl
theorem exec_amoandD {a} {b} {c} {d} {e} (s : State) : exec (.amoandD a b c d e) s = execAmoandD a b c d e s := rfl
theorem exec_amoorW {a} {b} {c} {d} {e} (s : State) : exec (.amoorW a b c d e) s = execAmoorW a b c d e s := rfl
theorem exec_amoorD {a} {b} {c} {d} {e} (s : State) : exec (.amoorD a b c d e) s = execAmoorD a b c d e s := rfl
theorem exec_csrrw {a} {b} {c} (s : State) : exec (.csrrw a b c) s = execCsrrw a b c s := rfl
theorem exec_csrrs {a} {b} {c} (s : State) : exec (.csrrs a b c) s = execCsrrs a b c s := rfl
theorem exec_csrrc {a} {b} {c} (s : State) : exec (.csrrc a b c) s = execCsrrc a b c s := rfl
theorem exec_csrrwi {a} {b} {c} (s : State) : exec (.csrrwi a b c) s = execCsrrwi a b c s := rfl
theorem exec_csrrsi {a} {b} {c} (s : State) : exec (.csrrsi a b c) s = execCsrrsi a b c s := rfl
theorem exec_csrrci {a} {b} {c} (s : State) : exec (.csrrci a b c) s = execCsrrci a b c s := rfl
theorem exec_fenceI {a} {b} {c} (s : State) : exec (.fenceI a b c) s = execFenceI a b c s := rfl
theorem exec_sfenceVma {a} {b} (s : State) : exec (.sfenceVma a b) s = execSfenceVma a b s := rfl
theorem exec_amominW {a} {b} {c} {d} {e} (s : State) : exec (.amominW a b c d e) s = execAmominW a b c d e s := rfl
theorem exec_amominD {a} {b} {c} {d} {e} (s : State) : exec (.amominD a b c d e) s = execAmominD a b c d e s := rfl
theorem exec_amomaxW {a} {b} {c} {d} {e} (s : State) : exec (.amomaxW a b c d e) s = execAmomaxW a b c d e s := rfl
theorem exec_amomaxD {a} {b} {c} {d} {e} (s : State) : exec (.amomaxD a b c d e) s = execAmomaxD a b c d e s := rfl
theorem exec_amominuW {a} {b} {c} {d} {e} (s : State) : exec (.amominuW a b c d e) s = execAmominuW a b c d e s := rfl
theorem exec_amominuD {a} {b} {c} {d} {e} (s : State) : exec (.amominuD a b c d e) s = execAmominuD a b c d e s := rfl
theorem exec_amomaxuW {a} {b} {c} {d} {e} (s : State) : exec (.amomaxuW a b c d e) s = execAmomaxuW a b c d e s := rfl
theorem exec_amomaxuD {a} {b} {c} {d} {e} (s : State) : exec (.amomaxuD a b c d e) s = execAmomaxuD a b c d e s := rfl
theorem exec_hfenceVvma {a} {b} (s : State) : exec (.hfenceVvma a b) s = execHfenceVvma a b s := rfl
theorem exec_hfenceGvma {a} {b} (s : State) : exec (.hfenceGvma a b) s = execHfenceGvma a b s := rfl
theorem exec_hlvB {a} {b} (s : State) : exec (.hlvB a b) s = execHlvB a b s := rfl
theorem exec_hlvBu {a} {b} (s : State) : exec (.hlvBu a b) s = execHlvBu a b s := rfl
theorem exec_hlvH {a} {b} (s : State) : exec (.hlvH a b) s = execHlvH a b s := rfl
theorem exec_hlvHu {a} {b} (s : State) : exec (.hlvHu a b) s = execHlvHu a b s := rfl
theorem exec_hlvW {a} {b} (s : State) : exec (.hlvW a b) s = execHlvW a b s := rfl
theorem exec_hlvWu {a} {b} (s : State) : exec (.hlvWu a b) s = execHlvWu a b s := rfl
theorem exec_hlvD {a} {b} (s : State) : exec (.hlvD a b) s = execHlvD a b s := rfl
theorem exec_hlvxHu {a} {b} (s : State) : exec (.hlvxHu a b) s = execHlvxHu a b s := rfl
theorem exec_hlvxWu {a} {b} (s : State) : exec (.hlvxWu a b) s = execHlvxWu a b s := rfl
theorem exec_hsvB {a} {b} (s : State) : exec (.hsvB a b) s = execHsvB a b s := rfl
theorem exec_hsvH {a} {b} (s : State) : exec (.hsvH a b) s = execHsvH a b s := rfl
theorem exec_hsvW {a} {b} (s : State) : exec (.hsvW a b) s = execHsvW a b s := rfl
theorem exec_hsvD {a} {b} (s : State) : exec (.hsvD a b) s = execHsvD a b s := rfl
theorem exec_exit (s : State) : exec (.exit) s = execExit s := rfl
theorem exec_exitPark (s : State) : exec (.exitPark) s = execExitPark s := rfl
theorem exec_yield (s : State) : exec (.yield) s = execYield s := rfl
theorem exec_texit (s : State) : exec (.texit) s = execTexit s := rfl
theorem exec_ecall (s : State) : exec (.ecall) s = execEcall s := rfl
theorem exec_ebreak (s : State) : exec (.ebreak) s = execEbreak s := rfl
theorem exec_pause (s : State) : exec (.pause) s = execPause s := rfl
theorem exec_sret (s : State) : exec (.sret) s = execSret s := rfl
theorem exec_mret (s : State) : exec (.mret) s = execMret s := rfl
theorem exec_wfi (s : State) : exec (.wfi) s = execWfi s := rfl
theorem exec_iadd {a} (s : State) : exec (.iadd a) s = execIadd a s := rfl
theorem exec_iaddJ {a} (s : State) : exec (.iaddJ a) s = execIaddJ a s := rfl
theorem exec_isub {a} (s : State) : exec (.isub a) s = execIsub a s := rfl
theorem exec_isubJ {a} (s : State) : exec (.isubJ a) s = execIsubJ a s := rfl
theorem exec_imul {a} (s : State) : exec (.imul a) s = execImul a s := rfl
theorem exec_imulJ {a} (s : State) : exec (.imulJ a) s = execImulJ a s := rfl
theorem exec_imulh {a} (s : State) : exec (.imulh a) s = execImulh a s := rfl
theorem exec_imulhJ {a} (s : State) : exec (.imulhJ a) s = execImulhJ a s := rfl
theorem exec_imad {a} (s : State) : exec (.imad a) s = execImad a s := rfl
theorem exec_imin {a} (s : State) : exec (.imin a) s = execImin a s := rfl
theorem exec_iminJ {a} (s : State) : exec (.iminJ a) s = execIminJ a s := rfl
theorem exec_imax {a} (s : State) : exec (.imax a) s = execImax a s := rfl
theorem exec_imaxJ {a} (s : State) : exec (.imaxJ a) s = execImaxJ a s := rfl
theorem exec_iabs {a} (s : State) : exec (.iabs a) s = execIabs a s := rfl
theorem exec_shl {a} (s : State) : exec (.shl a) s = execShl a s := rfl
theorem exec_shlJ {a} (s : State) : exec (.shlJ a) s = execShlJ a s := rfl
theorem exec_shr {a} (s : State) : exec (.shr a) s = execShr a s := rfl
theorem exec_shrJ {a} (s : State) : exec (.shrJ a) s = execShrJ a s := rfl
theorem exec_sar {a} (s : State) : exec (.sar a) s = execSar a s := rfl
theorem exec_sarJ {a} (s : State) : exec (.sarJ a) s = execSarJ a s := rfl
theorem exec_laneAnd {a} (s : State) : exec (.laneAnd a) s = execLaneAnd a s := rfl
theorem exec_laneAndJ {a} (s : State) : exec (.laneAndJ a) s = execLaneAndJ a s := rfl
theorem exec_laneOr {a} (s : State) : exec (.laneOr a) s = execLaneOr a s := rfl
theorem exec_laneOrJ {a} (s : State) : exec (.laneOrJ a) s = execLaneOrJ a s := rfl
theorem exec_laneXor {a} (s : State) : exec (.laneXor a) s = execLaneXor a s := rfl
theorem exec_laneXorJ {a} (s : State) : exec (.laneXorJ a) s = execLaneXorJ a s := rfl
theorem exec_lop3 {a} (s : State) : exec (.lop3 a) s = execLop3 a s := rfl
theorem exec_popc {a} (s : State) : exec (.popc a) s = execPopc a s := rfl
theorem exec_clz {a} (s : State) : exec (.clz a) s = execClz a s := rfl
theorem exec_bfe {a} (s : State) : exec (.bfe a) s = execBfe a s := rfl
theorem exec_bfi {a} (s : State) : exec (.bfi a) s = execBfi a s := rfl
theorem exec_fadd {a} (s : State) : exec (.fadd a) s = execFadd a s := rfl
theorem exec_faddJ {a} (s : State) : exec (.faddJ a) s = execFaddJ a s := rfl
theorem exec_fsub {a} (s : State) : exec (.fsub a) s = execFsub a s := rfl
theorem exec_fsubJ {a} (s : State) : exec (.fsubJ a) s = execFsubJ a s := rfl
theorem exec_fmul {a} (s : State) : exec (.fmul a) s = execFmul a s := rfl
theorem exec_fmulJ {a} (s : State) : exec (.fmulJ a) s = execFmulJ a s := rfl
theorem exec_ffma {a} (s : State) : exec (.ffma a) s = execFfma a s := rfl
theorem exec_fmin {a} (s : State) : exec (.fmin a) s = execFmin a s := rfl
theorem exec_fminJ {a} (s : State) : exec (.fminJ a) s = execFminJ a s := rfl
theorem exec_fmax {a} (s : State) : exec (.fmax a) s = execFmax a s := rfl
theorem exec_fmaxJ {a} (s : State) : exec (.fmaxJ a) s = execFmaxJ a s := rfl
theorem exec_frcp {a} (s : State) : exec (.frcp a) s = execFrcp a s := rfl
theorem exec_frsq {a} (s : State) : exec (.frsq a) s = execFrsq a s := rfl
theorem exec_fex2 {a} (s : State) : exec (.fex2 a) s = execFex2 a s := rfl
theorem exec_flg2 {a} (s : State) : exec (.flg2 a) s = execFlg2 a s := rfl
theorem exec_cvt {a} (s : State) : exec (.cvt a) s = execCvt a s := rfl
theorem exec_qnt {a} (s : State) : exec (.qnt a) s = execQnt a s := rfl
theorem exec_dqt {a} (s : State) : exec (.dqt a) s = execDqt a s := rfl
theorem exec_icmp {a} (s : State) : exec (.icmp a) s = execIcmp a s := rfl
theorem exec_icmpJ {a} (s : State) : exec (.icmpJ a) s = execIcmpJ a s := rfl
theorem exec_fcmp {a} (s : State) : exec (.fcmp a) s = execFcmp a s := rfl
theorem exec_fcmpJ {a} (s : State) : exec (.fcmpJ a) s = execFcmpJ a s := rfl
theorem exec_sel {a} (s : State) : exec (.sel a) s = execSel a s := rfl
theorem exec_mov {a} (s : State) : exec (.mov a) s = execMov a s := rfl
theorem exec_movi {a} (s : State) : exec (.movi a) s = execMovi a s := rfl
theorem exec_shfl {a} (s : State) : exec (.shfl a) s = execShfl a s := rfl
theorem exec_bcst {a} (s : State) : exec (.bcst a) s = execBcst a s := rfl
theorem exec_lred {a} (s : State) : exec (.lred a) s = execLred a s := rfl
theorem exec_lscan {a} (s : State) : exec (.lscan a) s = execLscan a s := rfl
theorem exec_disp {a} (s : State) : exec (.disp a) s = execDisp a s := rfl
theorem exec_nop {a} (s : State) : exec (.nop a) s = execNop a s := rfl
theorem exec_laneLd {a} (s : State) : exec (.laneLd a) s = execLaneLd a s := rfl
theorem exec_laneLdJ {a} (s : State) : exec (.laneLdJ a) s = execLaneLdJ a s := rfl
theorem exec_laneSt {a} (s : State) : exec (.laneSt a) s = execLaneSt a s := rfl
theorem exec_laneStJ {a} (s : State) : exec (.laneStJ a) s = execLaneStJ a s := rfl
theorem exec_lds {a} (s : State) : exec (.lds a) s = execLds a s := rfl
theorem exec_ldsJ {a} (s : State) : exec (.ldsJ a) s = execLdsJ a s := rfl
theorem exec_sts {a} (s : State) : exec (.sts a) s = execSts a s := rfl
theorem exec_stsJ {a} (s : State) : exec (.stsJ a) s = execStsJ a s := rfl
theorem exec_laneLdfe {a} (s : State) : exec (.laneLdfe a) s = execLaneLdfe a s := rfl
theorem exec_laneLdfeJ {a} (s : State) : exec (.laneLdfeJ a) s = execLaneLdfeJ a s := rfl
theorem exec_laneLdff {a} (s : State) : exec (.laneLdff a) s = execLaneLdff a s := rfl
theorem exec_laneLdffJ {a} (s : State) : exec (.laneLdffJ a) s = execLaneLdffJ a s := rfl
theorem exec_laneStef {a} (s : State) : exec (.laneStef a) s = execLaneStef a s := rfl
theorem exec_laneStefJ {a} (s : State) : exec (.laneStefJ a) s = execLaneStefJ a s := rfl
theorem exec_laneStff {a} (s : State) : exec (.laneStff a) s = execLaneStff a s := rfl
theorem exec_laneStffJ {a} (s : State) : exec (.laneStffJ a) s = execLaneStffJ a s := rfl
theorem exec_pfetch {a} (s : State) : exec (.pfetch a) s = execPfetch a s := rfl
theorem exec_pfetchJ {a} (s : State) : exec (.pfetchJ a) s = execPfetchJ a s := rfl
theorem exec_amo {a} (s : State) : exec (.amo a) s = execAmo a s := rfl
theorem exec_red {a} (s : State) : exec (.red a) s = execRed a s := rfl
theorem exec_mma {a} (s : State) : exec (.mma a) s = execMma a s := rfl
theorem exec_accld {a} (s : State) : exec (.accld a) s = execAccld a s := rfl
theorem exec_accrd {a} (s : State) : exec (.accrd a) s = execAccrd a s := rfl
theorem exec_accst {a} (s : State) : exec (.accst a) s = execAccst a s := rfl
theorem exec_ladd {a} (s : State) : exec (.ladd a) s = execLadd a s := rfl
theorem exec_lsub {a} (s : State) : exec (.lsub a) s = execLsub a s := rfl
theorem exec_lshl {a} (s : State) : exec (.lshl a) s = execLshl a s := rfl
theorem exec_lshr {a} (s : State) : exec (.lshr a) s = execLshr a s := rfl
theorem exec_lmac {a} (s : State) : exec (.lmac a) s = execLmac a s := rfl
theorem exec_lcmp {a} (s : State) : exec (.lcmp a) s = execLcmp a s := rfl

end Sys2Proof.Laws
end

