-- ==== Sys2Proof/Laws/Table.lean ====
section
/-! SUPPORT. Laws of sparse tables: what a listed and an unlisted key read, and that every operation keeps the canonical form. -/
namespace Sys2Proof.Laws
open Sys2Proof.Machine

section Reads
variable {α : Type}
@[simp] theorem tget_nil (d : α) (k : Nat) : tget d [] k = d := rfl
@[simp] theorem tfind_nil (k : Nat) : tfind ([] : Table α) k = none := rfl

theorem tget_tput (d : α) (t : Table α) (k : Nat) (a : α) (j : Nat) :
    tget d (tput t k a) j = if k = j then a else tget d t j := by
  induction t with
  | nil => by_cases h : k = j <;> simp [tput, tget, h]
  | cons e r ih =>
    obtain ⟨i, b⟩ := e
    unfold tput
    split
    · by_cases h : k = j <;> simp [tget, h]
    · split
      · rename_i hk; subst hk
        by_cases h : k = j <;> simp [tget, h]
      · rename_i h1 h2
        by_cases h : k = j
        · subst h
          have : ¬ i = k := by omega
          simp [tget, this, ih]
        · simp only [tget, ih, if_neg h]
@[simp] theorem tget_tput_same (d : α) (t : Table α) (k : Nat) (a : α) : tget d (tput t k a) k = a := by simp [tget_tput]
theorem tget_tput_ne (d : α) (t : Table α) {k j : Nat} (a : α) (h : k ≠ j) : tget d (tput t k a) j = tget d t j := by
  simp [tget_tput, h]
theorem tfind_tput (t : Table α) (k : Nat) (a : α) (j : Nat) :
    tfind (tput t k a) j = if k = j then some a else tfind t j := by
  induction t with
  | nil => by_cases h : k = j <;> simp [tput, tfind, h]
  | cons e r ih =>
    obtain ⟨i, b⟩ := e
    unfold tput
    split
    · by_cases h : k = j <;> simp [tfind, h]
    · split
      · rename_i hk; subst hk
        by_cases h : k = j <;> simp [tfind, h]
      · rename_i h1 h2
        by_cases h : k = j
        · subst h
          have : ¬ i = k := by omega
          simp [tfind, this, ih]
        · simp only [tfind, ih, if_neg h]
@[simp] theorem tfind_tput_same (t : Table α) (k : Nat) (a : α) : tfind (tput t k a) k = some a := by simp [tfind_tput]
theorem tput_tput (t : Table α) (k : Nat) (a b : α) : tput (tput t k a) k b = tput t k b := by
  induction t with
  | nil => simp [tput]
  | cons e r ih =>
    obtain ⟨i, c⟩ := e
    by_cases h : k < i
    · simp [tput, h]
    · by_cases h2 : k = i
      · simp [tput, h2]
      · simp [tput, h, h2, ih]
/-- What `tget` and `tfind` say of one key agree. -/
theorem tget_eq_getD (d : α) (t : Table α) (k : Nat) : tget d t k = (tfind t k).getD d := by
  induction t with
  | nil => rfl
  | cons e r ih =>
    obtain ⟨i, b⟩ := e
    unfold tget tfind
    split
    · rfl
    · exact ih
theorem tget_tdel (d : α) (t : Table α) (k j : Nat) : tget d (tdel t k) j = if k = j then d else tget d t j := by
  induction t with
  | nil => simp [tdel]
  | cons x r ih =>
    obtain ⟨i, b⟩ := x
    unfold tdel
    split
    · rename_i hk; subst hk
      rw [ih]; by_cases hj : i = j <;> simp [tget, hj]
    · rename_i hk
      by_cases hj : k = j
      · subst hj; simp [tget, hk, ih]
      · simp only [tget, ih, if_neg hj]
theorem tfind_tdel (t : Table α) (k j : Nat) : tfind (tdel t k) j = if k = j then none else tfind t j := by
  induction t with
  | nil => simp [tdel]
  | cons x r ih =>
    obtain ⟨i, b⟩ := x
    unfold tdel
    split
    · rename_i hk; subst hk
      rw [ih]; by_cases hj : i = j <;> simp [tfind, hj]
    · rename_i hk
      by_cases hj : k = j
      · subst hj; simp [tfind, hk, ih]
      · simp only [tfind, ih, if_neg hj]
theorem tget_tfilter (d : α) (t : Table α) (p : Nat → Bool) (k : Nat) :
    tget d (tfilter p t) k = if p k then tget d t k else d := by
  induction t with
  | nil => simp [tfilter]
  | cons x r ih =>
    obtain ⟨i, b⟩ := x
    simp only [tfilter] at ih ⊢
    rw [List.filter_cons]
    by_cases hp : p i
    · by_cases hk : i = k
      · subst hk; simp [hp, tget]
      · simp only [hp, if_true, tget, if_neg hk, ih]
    · simp only [hp, Bool.false_eq_true, if_false, ih]
      by_cases hk : i = k
      · subst hk; simp [hp]
      · simp [tget, hk]
/-- A write is read back, and every other key reads as before. -/
theorem tget_tset [DecidableEq α] (d : α) (t : Table α) (k : Nat) (a : α) (j : Nat) :
    tget d (tset d t k a) j = if k = j then a else tget d t j := by
  unfold tset
  split
  · rename_i ha
    rw [tget_tdel d, ha]
  · exact tget_tput d t k a j
end Reads

section Sorted
variable {α : Type}
/-- Keys strictly rising. -/
def Rising : Table α → Prop
  | [] => True
  | (j, _) :: r => (∀ e ∈ r, j < e.1) ∧ Rising r
theorem mem_tput {t : Table α} {k : Nat} {a : α} {e : Nat × α} (h : e ∈ tput t k a) : e = (k, a) ∨ e ∈ t := by
  induction t with
  | nil => simpa [tput] using h
  | cons x r ih =>
    obtain ⟨j, b⟩ := x
    unfold tput at h
    split at h
    · simpa using h
    · split at h
      · rcases List.mem_cons.1 h with h | h
        · exact .inl h
        · exact .inr (List.mem_cons_of_mem _ h)
      · rcases List.mem_cons.1 h with h | h
        · exact .inr (h ▸ List.mem_cons_self)
        · exact (ih h).imp id (List.mem_cons_of_mem _)
theorem mem_tdel {t : Table α} {k : Nat} {e : Nat × α} (h : e ∈ tdel t k) : e ∈ t := by
  induction t with
  | nil => simp [tdel] at h
  | cons x r ih =>
    obtain ⟨j, b⟩ := x
    unfold tdel at h
    split at h
    · exact List.mem_cons_of_mem _ (ih h)
    · rcases List.mem_cons.1 h with h | h
      · exact h ▸ List.mem_cons_self
      · exact List.mem_cons_of_mem _ (ih h)
theorem rising_tput {t : Table α} (h : Rising t) (k : Nat) (a : α) : Rising (tput t k a) := by
  induction t with
  | nil => simp [tput, Rising]
  | cons x r ih =>
    obtain ⟨j, b⟩ := x
    unfold tput
    split
    · refine ⟨fun e he => ?_, h⟩
      rcases List.mem_cons.1 he with rfl | he
      · assumption
      · exact Nat.lt_trans ‹k < j› (h.1 e he)
    · split
      · rename_i hk; subst hk; exact h
      · refine ⟨fun e he => ?_, ih h.2⟩
        rcases mem_tput he with rfl | he
        · show j < k; omega
        · exact h.1 e he
theorem rising_tdel {t : Table α} (h : Rising t) (k : Nat) : Rising (tdel t k) := by
  induction t with
  | nil => exact h
  | cons x r ih =>
    obtain ⟨j, b⟩ := x
    unfold tdel
    split
    · exact ih h.2
    · exact ⟨fun e he => h.1 e (mem_tdel he), ih h.2⟩
theorem rising_filter {t : Table α} (h : Rising t) (p : Nat × α → Bool) : Rising (t.filter p) := by
  induction t with
  | nil => exact h
  | cons x r ih =>
    obtain ⟨j, b⟩ := x
    rw [List.filter_cons]
    split
    · exact ⟨fun e he => h.1 e ((List.mem_filter.1 he).1), ih h.2⟩
    · exact ih h.2
end Sorted

section Canonical
variable {α : Type} [DecidableEq α]
/-- The canonical form as a proposition: rising keys, and no listed value equal to the default. -/
theorem twf_iff (d : α) (t : Table α) : twf d t = true ↔ Rising t ∧ ∀ e ∈ t, e.2 ≠ d := by
  induction t with
  | nil => simp [twf, Rising]
  | cons x r ih =>
    obtain ⟨j, a⟩ := x
    cases r with
    | nil => simp [twf, Rising]
    | cons y q =>
      obtain ⟨k, b⟩ := y
      simp only [twf, Bool.and_eq_true, bne_iff_ne, decide_eq_true_eq, ih, Rising, List.forall_mem_cons]
      constructor
      · rintro ⟨⟨ha, hjk⟩, ⟨hk, hr⟩, hb, hq⟩
        exact ⟨⟨⟨hjk, fun e he => Nat.lt_trans hjk (hk e he)⟩, hk, hr⟩, ha, hb, hq⟩
      · rintro ⟨⟨⟨hjk, _⟩, hk, hr⟩, ha, hb, hq⟩
        exact ⟨⟨ha, hjk⟩, ⟨hk, hr⟩, hb, hq⟩
theorem rising_of_twf {d : α} {t : Table α} (h : twf d t = true) : Rising t := ((twf_iff d t).1 h).1
@[simp] theorem twf_nil (d : α) : twf d ([] : Table α) = true := rfl
theorem twf_tput {d : α} {t : Table α} (h : twf d t = true) (k : Nat) {a : α} (ha : a ≠ d) : twf d (tput t k a) = true := by
  rw [twf_iff] at h ⊢
  refine ⟨rising_tput h.1 k a, fun e he => ?_⟩
  rcases mem_tput he with rfl | he
  · exact ha
  · exact h.2 e he
theorem twf_tdel {d : α} {t : Table α} (h : twf d t = true) (k : Nat) : twf d (tdel t k) = true := by
  rw [twf_iff] at h ⊢
  exact ⟨rising_tdel h.1 k, fun e he => h.2 e (mem_tdel he)⟩
/-- Every write keeps the canonical form. -/
theorem twf_tset {d : α} {t : Table α} (h : twf d t = true) (k : Nat) (a : α) : twf d (tset d t k a) = true := by
  unfold tset
  split
  · exact twf_tdel h k
  · exact twf_tput h k ‹_›
theorem twf_tfilter {d : α} {t : Table α} (h : twf d t = true) (p : Nat → Bool) : twf d (tfilter p t) = true := by
  rw [twf_iff] at h ⊢
  exact ⟨rising_filter h.1 _, fun e he => h.2 e ((List.mem_filter.1 he).1)⟩
end Canonical

end Sys2Proof.Laws
end

