-- ==== Sys2Proof/Laws/State.lean ====
section
/-! SUPPORT. Laws of the state's accessors: what each named update changes and what it leaves alone, field by field. -/
namespace Sys2Proof.Laws
open Sys2Proof.Machine

section Harts
@[simp] theorem hartAt_setHart (s : State) (k : Nat) (h : Hart) : hartAt (setHart s k h) k = h := by
  simp [hartAt, setHart]
theorem hartAt_setHart_ne (s : State) {k j : Nat} (h : Hart) (hk : k ≠ j) : hartAt (setHart s k h) j = hartAt s j := by
  simp [hartAt, setHart, tget_tput_ne _ _ _ hk]
@[simp] theorem setHart_setHart (s : State) (k : Nat) (g h : Hart) : setHart (setHart s k g) k h = setHart s k h := by
  simp [setHart, tput_tput]
@[simp] theorem hartAt_modHart (s : State) (k : Nat) (f : Hart → Hart) : hartAt (modHart s k f) k = f (hartAt s k) := by
  simp [modHart]
@[simp] theorem setHart_inputs (s : State) (k : Nat) (h : Hart) : (setHart s k h).inputs = s.inputs := rfl
@[simp] theorem setHart_turns (s : State) (k : Nat) (h : Hart) : (setHart s k h).turns = s.turns := rfl
@[simp] theorem setHart_cur (s : State) (k : Nat) (h : Hart) : (setHart s k h).cur = s.cur := rfl
@[simp] theorem setHart_clk (s : State) (k : Nat) (h : Hart) : (setHart s k h).clk = s.clk := rfl
@[simp] theorem setHart_free (s : State) (k : Nat) (h : Hart) : (setHart s k h).free = s.free := rfl
@[simp] theorem setHart_seqNo (s : State) (k : Nat) (h : Hart) : (setHart s k h).seqNo = s.seqNo := rfl
@[simp] theorem setHart_mem (s : State) (k : Nat) (h : Hart) : (setHart s k h).mem = s.mem := rfl
@[simp] theorem setHart_wgs (s : State) (k : Nat) (h : Hart) : (setHart s k h).wgs = s.wgs := rfl
@[simp] theorem setHart_launches (s : State) (k : Nat) (h : Hart) : (setHart s k h).launches = s.launches := rfl
@[simp] theorem setHart_easels (s : State) (k : Nat) (h : Hart) : (setHart s k h).easels = s.easels := rfl
@[simp] theorem setHart_homes (s : State) (k : Nat) (h : Hart) : (setHart s k h).homes = s.homes := rfl
@[simp] theorem setHart_copies (s : State) (k : Nat) (h : Hart) : (setHart s k h).copies = s.copies := rfl
@[simp] theorem setHart_pal (s : State) (k : Nat) (h : Hart) : (setHart s k h).pal = s.pal := rfl
@[simp] theorem setHart_wslots (s : State) (k : Nat) (h : Hart) : (setHart s k h).wslots = s.wslots := rfl
@[simp] theorem setHart_bankOwner (s : State) (k : Nat) (h : Hart) : (setHart s k h).bankOwner = s.bankOwner := rfl
@[simp] theorem setHart_pipes (s : State) (k : Nat) (h : Hart) : (setHart s k h).pipes = s.pipes := rfl
@[simp] theorem setHart_parts (s : State) (k : Nat) (h : Hart) : (setHart s k h).parts = s.parts := rfl
@[simp] theorem setHart_vfs (s : State) (k : Nat) (h : Hart) : (setHart s k h).vfs = s.vfs := rfl
@[simp] theorem setHart_hub (s : State) (k : Nat) (h : Hart) : (setHart s k h).hub = s.hub := rfl
@[simp] theorem setHart_kiwiow (s : State) (k : Nat) (h : Hart) : (setHart s k h).kiwiow = s.kiwiow := rfl
@[simp] theorem setHart_traced (s : State) (k : Nat) (h : Hart) : (setHart s k h).traced = s.traced := rfl
@[simp] theorem setHart_latched (s : State) (k : Nat) (h : Hart) : (setHart s k h).latched = s.latched := rfl
@[simp] theorem setHart_counters (s : State) (k : Nat) (h : Hart) : (setHart s k h).counters = s.counters := rfl
@[simp] theorem setHart_nextTask (s : State) (k : Nat) (h : Hart) : (setHart s k h).nextTask = s.nextTask := rfl
@[simp] theorem setHart_nextWg (s : State) (k : Nat) (h : Hart) : (setHart s k h).nextWg = s.nextWg := rfl
@[simp] theorem setHart_nextLaunch (s : State) (k : Nat) (h : Hart) : (setHart s k h).nextLaunch = s.nextLaunch := rfl
@[simp] theorem setHart_lastPick (s : State) (k : Nat) (h : Hart) : (setHart s k h).lastPick = s.lastPick := rfl
@[simp] theorem setHart_routers (s : State) (k : Nat) (h : Hart) : (setHart s k h).routers = s.routers := rfl
@[simp] theorem curHart_setCur (s : State) (h : Hart) : curHart (setCur s h) = h := by simp [curHart, setCur]
@[simp] theorem setCur_cur (s : State) (h : Hart) : (setCur s h).cur = s.cur := rfl
@[simp] theorem setCur_mem (s : State) (h : Hart) : (setCur s h).mem = s.mem := rfl
@[simp] theorem modHart_mem (s : State) (k : Nat) (f : Hart → Hart) : (modHart s k f).mem = s.mem := rfl
@[simp] theorem modHart_cur (s : State) (k : Nat) (f : Hart → Hart) : (modHart s k f).cur = s.cur := rfl
@[simp] theorem modHart_clk (s : State) (k : Nat) (f : Hart → Hart) : (modHart s k f).clk = s.clk := rfl
@[simp] theorem modCur_mem (s : State) (f : Hart → Hart) : (modCur s f).mem = s.mem := rfl
@[simp] theorem modCur_cur (s : State) (f : Hart → Hart) : (modCur s f).cur = s.cur := rfl
@[simp] theorem curHart_modCur (s : State) (f : Hart → Hart) : curHart (modCur s f) = f (curHart s) := by
  simp [curHart, modCur]
end Harts

section Parts
@[simp] theorem modMem_mem (s : State) (f : Mem → Mem) : (modMem s f).mem = f s.mem := rfl
@[simp] theorem modMem_harts (s : State) (f : Mem → Mem) : (modMem s f).harts = s.harts := rfl
@[simp] theorem modMem_cur (s : State) (f : Mem → Mem) : (modMem s f).cur = s.cur := rfl
@[simp] theorem modMem_clk (s : State) (f : Mem → Mem) : (modMem s f).clk = s.clk := rfl
@[simp] theorem hartAt_modMem (s : State) (f : Mem → Mem) (k : Nat) : hartAt (modMem s f) k = hartAt s k := rfl
@[simp] theorem curHart_modMem (s : State) (f : Mem → Mem) : curHart (modMem s f) = curHart s := rfl
@[simp] theorem modHub_mem (s : State) (f : Hub → Hub) : (modHub s f).mem = s.mem := rfl
@[simp] theorem modHub_hub (s : State) (f : Hub → Hub) : (modHub s f).hub = f s.hub := rfl
@[simp] theorem modHub_harts (s : State) (f : Hub → Hub) : (modHub s f).harts = s.harts := rfl
@[simp] theorem modPart_mem (s : State) (p : Nat) (f : Part → Part) : (modPart s p f).mem = s.mem := rfl
@[simp] theorem modPart_harts (s : State) (p : Nat) (f : Part → Part) : (modPart s p f).harts = s.harts := rfl
@[simp] theorem partAt_modPart (s : State) (p : Nat) (f : Part → Part) : partAt (modPart s p f) p = f (partAt s p) := by
  simp [partAt, modPart]
theorem partAt_modPart_ne (s : State) {p q : Nat} (f : Part → Part) (h : p ≠ q) : partAt (modPart s p f) q = partAt s q := by
  simp [partAt, modPart, tget_tput_ne _ _ _ h]
@[simp] theorem modLaunch_mem (s : State) (l : Nat) (f : Launch → Launch) : (modLaunch s l f).mem = s.mem := rfl
@[simp] theorem modLaunch_harts (s : State) (l : Nat) (f : Launch → Launch) : (modLaunch s l f).harts = s.harts := rfl
@[simp] theorem launchAt_modLaunch (s : State) (l : Nat) (f : Launch → Launch) : launchAt (modLaunch s l f) l = f (launchAt s l) := by
  simp [launchAt, modLaunch]
@[simp] theorem modWg_mem (s : State) (w : Nat) (f : Wg → Wg) : (modWg s w f).mem = s.mem := rfl
@[simp] theorem modWg_harts (s : State) (w : Nat) (f : Wg → Wg) : (modWg s w f).harts = s.harts := rfl
@[simp] theorem wgAt_modWg (s : State) (w : Nat) (f : Wg → Wg) : wgAt (modWg s w f) w = f (wgAt s w) := by simp [wgAt, modWg]
@[simp] theorem modHome_mem (s : State) (t : Nat) (f : Home → Home) : (modHome s t f).mem = s.mem := rfl
@[simp] theorem modMem_turns (s : State) (f : Mem → Mem) : (modMem s f).turns = s.turns := rfl
@[simp] theorem modMem_launches (s : State) (f : Mem → Mem) : (modMem s f).launches = s.launches := rfl
@[simp] theorem modMem_parts (s : State) (f : Mem → Mem) : (modMem s f).parts = s.parts := rfl
@[simp] theorem modMem_hub (s : State) (f : Mem → Mem) : (modMem s f).hub = s.hub := rfl
@[simp] theorem modMem_kiwiow (s : State) (f : Mem → Mem) : (modMem s f).kiwiow = s.kiwiow := rfl
@[simp] theorem modEasel_mem (s : State) (t : Nat) (f : Easel → Easel) : (modEasel s t f).mem = s.mem := rfl
@[simp] theorem bumpSeq_mem (s : State) : (bumpSeq s).mem = s.mem := rfl
@[simp] theorem acquire_mem (s : State) (k : Nat) : (acquire s k).mem = s.mem := rfl
@[simp] theorem count_mem (s : State) (c t u e n : Nat) : (count s c t u e n).mem = s.mem := rfl
@[simp] theorem count_harts (s : State) (c t u e n : Nat) : (count s c t u e n).harts = s.harts := rfl
end Parts

section Registers
/-- x0 reads 0 whatever the state holds (02 R42). -/
@[simp] theorem getX_zero (h : Hart) : h.getX 0 = 0 := rfl
/-- A write of x0 is discarded (02 R42). -/
@[simp] theorem setX_zero (h : Hart) (v : DWord) : h.setX 0 v = h := rfl
theorem setX_pc (h : Hart) (r : Reg) (v : DWord) : (h.setX r v).pc = h.pc := by unfold Hart.setX; split <;> rfl
theorem setX_csr (h : Hart) (r : Reg) (v : DWord) : (h.setX r v).csr = h.csr := by unfold Hart.setX; split <;> rfl
theorem setX_m (h : Hart) (r : Reg) (v : DWord) : (h.setX r v).m = h.m := by unfold Hart.setX; split <;> rfl
theorem setX_em (h : Hart) (r : Reg) (v : DWord) : (h.setX r v).em = h.em := by unfold Hart.setX; split <;> rfl
theorem setX_v (h : Hart) (r : Reg) (v : DWord) : (h.setX r v).v = h.v := by unfold Hart.setX; split <;> rfl
theorem setX_tasklet (h : Hart) (r : Reg) (v : DWord) : (h.setX r v).tasklet = h.tasklet := by unfold Hart.setX; split <;> rfl
@[simp] theorem setC_pc (h : Hart) (n : Nat) (v : DWord) : (h.setC n v).pc = h.pc := rfl
@[simp] theorem setC_x (h : Hart) (n : Nat) (v : DWord) : (h.setC n v).x = h.x := rfl
@[simp] theorem setC_m (h : Hart) (n : Nat) (v : DWord) : (h.setC n v).m = h.m := rfl
@[simp] theorem setC_v (h : Hart) (n : Nat) (v : DWord) : (h.setC n v).v = h.v := rfl
@[simp] theorem setC_priv (h : Hart) (n : Nat) (v : DWord) : (h.setC n v).priv = h.priv := rfl
@[simp] theorem setC_virt (h : Hart) (n : Nat) (v : DWord) : (h.setC n v).virt = h.virt := rfl
@[simp] theorem setV_x (h : Hart) (r l : Nat) (w : Word) : (h.setV r l w).x = h.x := rfl
@[simp] theorem setV_m (h : Hart) (r l : Nat) (w : Word) : (h.setV r l w).m = h.m := rfl
@[simp] theorem setV_csr (h : Hart) (r l : Nat) (w : Word) : (h.setV r l w).csr = h.csr := rfl
@[simp] theorem setM_x (h : Hart) (n : Nat) (v : Mask) : (h.setM n v).x = h.x := by unfold Hart.setM; split <;> rfl
@[simp] theorem setM_v (h : Hart) (n : Nat) (v : Mask) : (h.setM n v).v = h.v := by unfold Hart.setM; split <;> rfl
@[simp] theorem setM_csr (h : Hart) (n : Nat) (v : Mask) : (h.setM n v).csr = h.csr := by unfold Hart.setM; split <;> rfl
@[simp] theorem setM_pc (h : Hart) (n : Nat) (v : Mask) : (h.setM n v).pc = h.pc := by unfold Hart.setM; split <;> rfl
theorem getX_setX (h : Hart) (r : Reg) (v : DWord) (q : Reg) :
    (h.setX r v).getX q = if r = q ∧ r ≠ 0 then v else h.getX q := by
  unfold Hart.setX
  split
  · rename_i hr; subst hr; rw [if_neg (by simp)]
  · rename_i hr
    unfold Hart.getX
    split
    · rename_i hq; subst hq; rw [if_neg (fun e => e.2 e.1)]
    · show tget 0 (tset 0 h.x r.toNat v) q.toNat = _
      rw [tget_tset]
      by_cases e : r = q
      · rw [if_pos (congrArg _ e), if_pos ⟨e, hr⟩]
      · rw [if_neg (fun c => e (BitVec.eq_of_toNat_eq c)), if_neg (fun c => e c.1)]
theorem getC_setC (h : Hart) (n : Nat) (v : DWord) (k : Nat) :
    (h.setC n v).getC k = if n = k then v else h.getC k := tget_tset 0 _ n v k
theorem getV_setV (h : Hart) (r l : Nat) (v : Word) (q j : Nat) :
    (h.setV r l v).getV q j = if r * 128 + l = q * 128 + j then v else h.getV q j := tget_tset 0 _ _ v _
theorem getM_setM (h : Hart) (n : Nat) (v : Mask) (k : Nat) :
    (h.setM n v).getM k = if n = k then v else h.getM k := by
  unfold Hart.setM Hart.getM
  by_cases hn : n = 15 <;> by_cases hk : k = 15
  · subst hn; subst hk; simp
  · subst hn; rw [if_pos rfl, if_neg hk, if_neg hk, if_neg (fun e => hk e.symm)]
  · subst hk; rw [if_neg hn, if_pos rfl, if_pos rfl, if_neg hn]
  · rw [if_neg hn, if_neg hk, if_neg hk]; exact tget_tset 0 _ n v k
end Registers

end Sys2Proof.Laws
end

