-- ==== Sys2Proof/Laws/Memory.lean ====
section
/-! SUPPORT. Laws of memory: what a write stores and leaves alone, and that every memory operation keeps the canonical form. -/
namespace Sys2Proof.Laws
open Sys2Proof.Machine

section Bytes
theorem twf_putBytes {t : Table Byte} (h : twf 0 t = true) (a : Nat) (bs : List Byte) : twf 0 (putBytes t a bs) = true := by
  induction bs generalizing t a with
  | nil => exact h
  | cons b r ih => exact ih (twf_tset h a b) (a + 1)
/-- A byte read after a write of bytes: the byte written there, or what was there before. -/
theorem tget_putBytes (t : Table Byte) (a : Nat) (bs : List Byte) (j : Nat) :
    tget 0 (putBytes t a bs) j = if a ≤ j ∧ j < a + bs.length then bs.getD (j - a) 0 else tget 0 t j := by
  induction bs generalizing t a with
  | nil => have : ¬ (a ≤ j ∧ j < a) := by omega
           simp [putBytes, this]
  | cons b r ih =>
    simp only [putBytes, ih, tget_tset, List.length_cons]
    by_cases h1 : a = j
    · subst h1
      have : ¬ (a + 1 ≤ a ∧ a < a + 1 + r.length) := by omega
      have h3 : a ≤ a ∧ a < a + (r.length + 1) := by omega
      simp only [if_neg this, if_pos h3, if_true, Nat.sub_self, List.getD_cons_zero]
    · by_cases h2 : a ≤ j ∧ j < a + (r.length + 1)
      · have h3 : a + 1 ≤ j ∧ j < a + 1 + r.length := by omega
        have h4 : j - a = (j - (a + 1)) + 1 := by omega
        rw [if_pos h2, if_pos h3, h4, List.getD_cons_succ]
      · have h3 : ¬ (a + 1 ≤ j ∧ j < a + 1 + r.length) := by omega
        rw [if_neg h2, if_neg h3, if_neg h1]
theorem leBytes_length (n v : Nat) : (leBytes n v).length = n := by
  induction n generalizing v with
  | zero => rfl
  | succ n ih => simp [leBytes, ih]
/-- Little-endian bytes spell the low bytes of the number they were taken from (00 R9). -/
theorem leNat_leBytes (n v : Nat) : leNat (leBytes n v) = v % 256 ^ n := by
  induction n generalizing v with
  | zero => simp [leBytes, leNat, Nat.mod_one]
  | succ n ih =>
    simp only [leBytes, leNat, ih, BitVec.toNat_ofNat]
    rw [show 2 ^ 8 = 256 from rfl, show 256 ^ (n + 1) = 256 * 256 ^ n from Nat.pow_succ', Nat.mod_mul]
theorem getBytes_putBytes (t : Table Byte) (a : Nat) (bs : List Byte) :
    getBytes (putBytes t a bs) a bs.length = bs := by
  apply List.ext_getElem
  · simp [getBytes]
  · intro i h1 h2
    have h3 : a ≤ a + i ∧ a + i < a + bs.length := by omega
    have h4 := tget_putBytes t a bs (a + i)
    rw [if_pos h3, Nat.add_sub_cancel_left] at h4
    have : bs.getD i 0 = bs[i] := by simp [List.getD_eq_getElem?_getD, h2]
    rw [← this, ← h4]
    simp only [getBytes, List.getElem_map, List.getElem_range]
end Bytes

section Form
theorem wf_iff (m : Mem) : Memory.wf m = true ↔
    twf 0 m.bytes = true ∧ twf 0 m.scratch = true ∧ twf 0 m.host = true ∧ twf 0 m.mbox = true := by
  simp [Memory.wf, and_assoc]
/-- The memory of the package at power-on has the canonical form. -/
theorem reset_wf : Memory.wf State.reset.mem = true := by decide
theorem mboxPut_wf {m : Mem} (h : Memory.wf m = true) (b : Nat) (bs : List Byte) : Memory.wf (mboxPut m b bs) = true := by
  induction bs generalizing m b with
  | nil => exact h
  | cons x r ih =>
    refine ih ?_ (b + 1)
    rw [wf_iff] at h ⊢
    exact ⟨h.1, h.2.1, h.2.2.1, twf_tset h.2.2.2 _ _⟩
theorem writeBytes_wf {m : Mem} (h : Memory.wf m = true) (l : Loc) (bs : List Byte) : Memory.wf (writeBytes m l bs) = true := by
  have h' := (wf_iff m).1 h
  cases l with
  | mem pa => exact (wf_iff _).2 ⟨twf_putBytes h'.1 pa bs, h'.2⟩
  | win o => exact (wf_iff _).2 ⟨h'.1, twf_putBytes h'.2.1 o bs, h'.2.2⟩
  | mbox b => exact mboxPut_wf h b bs
  | host a => exact (wf_iff _).2 ⟨h'.1, h'.2.1, twf_putBytes h'.2.2.1 a bs, h'.2.2.2⟩
  | irq o => exact h
  | ctl o => exact h
  | far p a => exact h
theorem writeLoc_wf {m : Mem} (h : Memory.wf m = true) (l : Loc) (n : Nat) (v : DWord) : Memory.wf (writeLoc m l n v) = true :=
  writeBytes_wf h l _
theorem setFull_wf {m : Mem} (h : Memory.wf m = true) (l : Loc) (f : Bool) : Memory.wf (setFull m l f) = true := by
  cases l <;> exact h
theorem feTry_wf {m m' : Mem} {op : FeOp} {l : Loc} {d w : Word} (h : Memory.wf m = true) (e : feTry m op l d = some (m', w)) :
    Memory.wf m' = true := by
  cases op <;> simp only [feTry] at e <;> (try split at e) <;> cases e
  · exact setFull_wf h l false
  · exact h
  · exact setFull_wf (writeLoc_wf h l 4 _) l true
  · exact setFull_wf (writeLoc_wf h l 4 _) l true
theorem noteGranule_wf {s : State} (h : Memory.wf s.mem = true) (g : Nat) : Memory.wf (noteGranule s g).mem = true := by
  unfold noteGranule; split <;> exact h
theorem notePoison_wf {s : State} (h : Memory.wf s.mem = true) (l : Loc) : Memory.wf (notePoison s l).mem = true := by
  cases l
  case mem a => exact noteGranule_wf h _
  all_goals exact h
/-- A granule's stored tag differs from the tag of its ciphertext exactly where the model says that the check fails (15 R341). -/
theorem tagFails_iff (s : State) (g : Nat) : tagFails s.mem g = true ↔ storedTag s g ≠ granuleTag s g := by
  unfold tagFails storedTag
  generalize granuleTag s g = t
  generalize tget 0 s.mem.tagXor g = x
  have e : t ^^^ x = t ↔ x = 0 := ⟨fun h => by simpa [← BitVec.xor_assoc] using congrArg (t ^^^ ·) h, fun h => by simp [h]⟩
  simp [e]
/-- `u` with the lines of the L2 slices, the recalls that leaving lines ask for, and the counters of `s`. -/
def withSlicesOf (s u : State) : State :=
  { u with mem := { u.mem with l2 := s.mem.l2, recalls := s.mem.recalls }, counters := s.counters }
theorem l2Count_rest (s u : State) (line : Nat) (hit : Bool) : withSlicesOf s (l2Count u line hit) = withSlicesOf s u := by
  unfold l2Count; dsimp only; repeat' split
  all_goals rfl
theorem evictLine_rest (m : Mem) (k : Nat) (a : Table L2Line) (b : List Nat) :
    { evictLine m k with l2 := a, recalls := b } = { m with l2 := a, recalls := b } := by unfold evictLine; split <;> rfl
theorem evict_rest (s u : State) (k : Nat) (f : Mem → Table L2Line) :
    withSlicesOf s (modMem u (fun m => { evictLine m k with l2 := f m })) = withSlicesOf s u :=
  congrArg (fun m => { u with mem := m, counters := s.counters }) (evictLine_rest u.mem k s.mem.l2 s.mem.recalls)
/-- An access at a slice changes the lines it holds, the recalls waiting and counters, and nothing else (15 R339, R340; 16 R362). -/
theorem l2Touch_rest (s u : State) (line : Nat) : withSlicesOf s (l2Touch u line) = withSlicesOf s u := by
  unfold l2Touch
  dsimp only
  split
  · exact l2Count_rest _ _ _ _
  · split
    · exact l2Count_rest _ _ _ _
    · exact (evict_rest s _ _ _).trans (l2Count_rest _ _ _ _)
theorem l2Span_rest (s u : State) (a n : Nat) : withSlicesOf s (l2Span u a n) = withSlicesOf s u := by
  unfold l2Span
  generalize granulesOf a n = l
  induction l generalizing u with
  | nil => rfl
  | cons g r ih => rw [List.foldl_cons, ih, l2Touch_rest]
/-- So every other part of the state is as before. -/
theorem l2Span_part {α : Type} (f : State → α) (hf : ∀ s u, f (withSlicesOf s u) = f u) (u : State) (a n : Nat) :
    f (l2Span u a n) = f u := by rw [← hf u (l2Span u a n), l2Span_rest, hf]
@[simp] theorem l2Span_bytes (s : State) (a n : Nat) : (l2Span s a n).mem.bytes = s.mem.bytes :=
  l2Span_part (fun t => t.mem.bytes) (fun _ _ => rfl) s a n
@[simp] theorem l2Span_harts (s : State) (a n : Nat) : (l2Span s a n).harts = s.harts := l2Span_part State.harts (fun _ _ => rfl) s a n
@[simp] theorem l2Span_cur (s : State) (a n : Nat) : (l2Span s a n).cur = s.cur := l2Span_part State.cur (fun _ _ => rfl) s a n
@[simp] theorem l2Span_net (s : State) (a n : Nat) : (l2Span s a n).mem.net = s.mem.net :=
  l2Span_part (fun t => t.mem.net) (fun _ _ => rfl) s a n
theorem l2Span_wf {s : State} (h : Memory.wf s.mem = true) (a n : Nat) : Memory.wf (l2Span s a n).mem = true := by
  rw [l2Span_part (fun t => Memory.wf t.mem) (fun _ _ => rfl)]; exact h
theorem l2Touch_wf {s : State} (h : Memory.wf s.mem = true) (line : Nat) : Memory.wf (l2Touch s line).mem = true := by
  have := congrArg (fun (t : State) => Memory.wf t.mem) (l2Touch_rest s s line)
  exact this.trans h
theorem l2Loc_wf {s : State} (h : Memory.wf s.mem = true) (l : Loc) (n : Nat) : Memory.wf (l2Loc s l n).mem = true := by
  cases l
  case mem a => exact l2Span_wf h a n
  all_goals exact h
theorem tagWritten_wf {m : Mem} (h : Memory.wf m = true) (s : State) (a n : Nat) : Memory.wf (tagWritten s m a n) = true := by
  unfold tagWritten
  generalize granulesOf a n = l
  induction l generalizing m with
  | nil => exact h
  | cons g r ih => exact ih (by exact h)
/-- The tags of a write change no byte. -/
@[simp] theorem tagWritten_bytes (s : State) (m : Mem) (a n : Nat) : (tagWritten s m a n).bytes = m.bytes := by
  unfold tagWritten
  generalize granulesOf a n = l
  induction l generalizing m with
  | nil => rfl
  | cons g r ih => rw [List.foldl_cons, ih]
theorem bumpVers_wf {m : Mem} (h : Memory.wf m = true) (a n : Nat) : Memory.wf (bumpVers m a n) = true := by
  unfold bumpVers
  generalize List.range _ = l
  induction l generalizing m with
  | nil => exact h
  | cons i r ih => exact ih (by exact h)
theorem noteWrite_wf {s : State} (h : Memory.wf s.mem = true) (k : Nat) (l : Loc) (n : Nat) : Memory.wf (noteWrite s k l n).mem = true := by
  unfold noteWrite
  split
  · exact l2Span_wf (by exact bumpVers_wf (by exact h) _ _) _ _
  · exact h
/-- A write at its home keeps the canonical form, whether it is performed or held. -/
theorem homeWrite_wf {s : State} (h : Memory.wf s.mem = true) (k : Nat) (l : Loc) (bs : List Byte) :
    Memory.wf (homeWrite s k l bs).1.mem = true := by
  unfold homeWrite
  dsimp only
  split
  · exact h
  · split
    · split
      · exact h
      · split
        · exact notePoison_wf h _
        · exact noteWrite_wf (by exact tagWritten_wf (writeBytes_wf h _ bs) _ _ _) _ _ _
    · exact writeBytes_wf h _ bs
theorem homeWriteN_wf {s : State} (h : Memory.wf s.mem = true) (k : Nat) (l : Loc) (n : Nat) (v : DWord) :
    Memory.wf (homeWriteN s k l n v).1.mem = true := homeWrite_wf h k l _
end Form

section Places
/-- Reading back a write: main memory, scratchpads and host memory return the bytes written there. -/
theorem readBytes_writeBytes (m : Mem) (a : Nat) (bs : List Byte) :
    readBytes (writeBytes m (.mem a) bs) (.mem a) bs.length = bs ∧
    readBytes (writeBytes m (.win a) bs) (.win a) bs.length = bs ∧
    readBytes (writeBytes m (.host a) bs) (.host a) bs.length = bs := by
  exact ⟨getBytes_putBytes _ a bs, getBytes_putBytes _ a bs, getBytes_putBytes _ a bs⟩
/-- A write leaves every byte outside its span alone. -/
theorem readByte_writeBytes_ne (m : Mem) (a : Nat) (bs : List Byte) (b : Nat)
    (hb : ¬ (a ≤ b ∧ b < a + bs.length)) : readBytes (writeBytes m (.mem a) bs) (.mem b) 1 = readBytes m (.mem b) 1 := by
  have e := tget_putBytes m.bytes a bs b
  rw [if_neg hb] at e
  exact congrArg (fun (x : Byte) => [x]) e
/-- What a load of n bytes returns of a store there: the low n bytes. -/
theorem readLoc_writeLoc (m : Mem) (a n : Nat) (v : DWord) :
    readLoc (writeLoc m (.mem a) n v) (.mem a) n = dw (v.toNat % 256 ^ n) := by
  have := (readBytes_writeBytes m a (leBytes n v.toNat)).1
  rw [leBytes_length] at this
  rw [readLoc, writeLoc, this, leNat_leBytes]
end Places

end Sys2Proof.Laws
end

