-- ==== Sys2Proof/Laws/Ops.lean ====
section
/-! SUPPORT. One law for each operation that meanings share: everything that retiring, waiting, accessing memory and taking a trap can
do to the state. Later proofs cite these and leave the operations folded. -/
namespace Sys2Proof.Laws
open Sys2Proof Sys2Proof.Machine

section Frame
/-- The scalar frame runs what a group executes, and what a tasklet may execute. -/
theorem scalar_runs {bits : DWord} {allowed : Bool} {regs : List Reg} {s : State} {f : Hart → State}
    (h : (curHart s).tasklet = true → allowed = true ∧ ∀ r ∈ regs, r < 11) :
    scalar bits allowed regs s f = .next (f (curHart s)) := by
  unfold scalar
  cases ht : (curHart s).tasklet
  · simp [ht]
  · have ⟨ha, hr⟩ := h ht
    have : taskletMay allowed regs = true := by
      simp only [taskletMay, ha, Bool.true_and, List.all_eq_true, decide_eq_true_eq]; exact hr
    simp [this]
/-- What a tasklet may not execute ends it with LANE_ILLEGAL (01 R38). -/
theorem scalar_stops {bits : DWord} {allowed : Bool} {regs : List Reg} {s : State} {f : Hart → State}
    (ht : (curHart s).tasklet = true) (h : allowed = false ∨ ∃ r ∈ regs, ¬ r < 11) :
    scalar bits allowed regs s f = .next (taskletTrapOp s s.cur 24 bits) := by
  have : taskletMay allowed regs = false := by
    rcases h with h | ⟨r, hr, hn⟩
    · simp [taskletMay, h]
    · simp only [taskletMay, Bool.and_eq_false_iff, List.all_eq_false]
      exact .inr ⟨r, hr, by simpa using hn⟩
  unfold scalar trapCur
  simp [ht, this, laneIllegal]
/-- The scalar frame answers a next state, of the instruction or of the trap. -/
theorem scalar_cases (bits : DWord) (allowed : Bool) (regs : List Reg) (s : State) (f : Hart → State) :
    scalar bits allowed regs s f = .next (f (curHart s)) ∨
    (curHart s).tasklet = true ∧ scalar bits allowed regs s f = .next (taskletTrapOp s s.cur 24 bits) := by
  unfold scalar trapCur
  cases ht : (curHart s).tasklet
  · left; simp [ht]
  · cases hm : taskletMay allowed regs
    · right; simp [ht, laneIllegal]
    · left; simp [ht]
/-- A trap of a group goes to its handler; one of a tasklet ends it. -/
theorem trapCur_group {s : State} (h : (curHart s).tasklet = false) (t : Trap) : trapCur s t = takeTrap s s.cur t := by
  unfold trapCur; rw [h]; rfl
theorem trapCur_tasklet {s : State} (h : (curHart s).tasklet = true) (t : Trap) :
    trapCur s t = taskletTrapOp s s.cur t.cause t.tval := by unfold trapCur; rw [h]; rfl
end Frame

section Retirement
@[simp] theorem retireHart_pc (h : Hart) : (retireHart h).pc = h.pc + 4 := rfl
@[simp] theorem retireHart_instret (h : Hart) : (retireHart h).instret = h.instret + 1 := rfl
@[simp] theorem retireHart_run (h : Hart) : (retireHart h).run = .ready := rfl
@[simp] theorem retireHart_wait (h : Hart) : (retireHart h).wait = .nothing := rfl
@[simp] theorem retireHart_x (h : Hart) : (retireHart h).x = h.x := rfl
@[simp] theorem retireHart_csr (h : Hart) : (retireHart h).csr = h.csr := rfl
@[simp] theorem retireHart_v (h : Hart) : (retireHart h).v = h.v := rfl
@[simp] theorem retireHart_m (h : Hart) : (retireHart h).m = h.m := rfl
@[simp] theorem retireHart_em (h : Hart) : (retireHart h).em = h.em := rfl
@[simp] theorem retireHart_priv (h : Hart) : (retireHart h).priv = h.priv := rfl
@[simp] theorem retireHart_virt (h : Hart) : (retireHart h).virt = h.virt := rfl
@[simp] theorem retireHart_indiv (h : Hart) : (retireHart h).indiv = false := rfl
@[simp] theorem retireHart_tasklet (h : Hart) : (retireHart h).tasklet = h.tasklet := rfl
@[simp] theorem retireHart_getX (h : Hart) (r : Reg) : (retireHart h).getX r = h.getX r := rfl
@[simp] theorem retireHart_getC (h : Hart) (n : Nat) : (retireHart h).getC n = h.getC n := rfl
/-- Every way of retiring changes the current agent alone. -/
theorem curHart_retire (s : State) : curHart (retire s) = retireHart (curHart s) := curHart_modCur s _
theorem curHart_retireCur (s : State) (h : Hart) : curHart (retireCur s h) = retireHart h := curHart_setCur s _
theorem curHart_retireX (s : State) (rd : Reg) (v : DWord) : curHart (retireX s rd v) = retireHart ((curHart s).setX rd v) :=
  curHart_modCur s _
theorem curHart_retireAt (s : State) (h : Hart) (pc : DWord) : curHart (retireAt s h pc) = { retireHart h with pc := pc } :=
  curHart_setCur s _
theorem hartAt_setCur_ne (s : State) (h : Hart) {k : Nat} (hk : k ≠ s.cur) : hartAt (setCur s h) k = hartAt s k :=
  hartAt_setHart_ne s h (fun e => hk e.symm)
theorem hartAt_modCur_ne (s : State) (f : Hart → Hart) {k : Nat} (hk : k ≠ s.cur) : hartAt (modCur s f) k = hartAt s k :=
  hartAt_setHart_ne s _ (fun e => hk e.symm)
/-- All of the state but the agents is as before. -/
theorem setCur_rest (s : State) (h : Hart) : { setCur s h with harts := s.harts } = s := rfl
theorem modCur_rest (s : State) (f : Hart → Hart) : { modCur s f with harts := s.harts } = s := rfl
@[simp] theorem retire_mem (s : State) : (retire s).mem = s.mem := rfl
@[simp] theorem retireX_mem (s : State) (rd : Reg) (v : DWord) : (retireX s rd v).mem = s.mem := rfl
@[simp] theorem retireCur_mem (s : State) (h : Hart) : (retireCur s h).mem = s.mem := rfl
@[simp] theorem retireAt_mem (s : State) (h : Hart) (pc : DWord) : (retireAt s h pc).mem = s.mem := rfl
@[simp] theorem heldCur_mem (s : State) (w : WaitOn) : (heldCur s w).mem = s.mem := rfl
@[simp] theorem waitCur_mem (s : State) (w : WaitOn) : (waitCur s w).mem = s.mem := rfl
/-- A register reads its new value after a retirement that writes it, and every other register its old one. -/
theorem getX_retireX (s : State) (rd : Reg) (v : DWord) (r : Reg) :
    (curHart (retireX s rd v)).getX r = if rd = r ∧ rd ≠ 0 then v else (curHart s).getX r := by
  rw [curHart_retireX, retireHart_getX, getX_setX]
theorem curHart_waitCur (s : State) (w : WaitOn) : curHart (waitCur s w) = { curHart s with run := .waitSync, wait := w } :=
  curHart_modCur s _
theorem curHart_heldCur (s : State) (w : WaitOn) : curHart (heldCur s w) = { curHart s with run := .waitDep, wait := w } :=
  curHart_modCur s _
theorem curHart_heldWhole (s : State) (w : WaitOn) :
    curHart (heldWhole s w) = { curHart s with run := .waitDep, wait := w, indiv := true } := curHart_modCur s _
/-- Where a jump goes. -/
theorem jumpTo_aligned {s : State} {h : Hart} {a : DWord} (e : a.toNat % 4 = 0) : jumpTo s h a = retireAt s h a := by
  unfold jumpTo; rw [e]; rfl
theorem jumpTo_misaligned {s : State} {h : Hart} {a : DWord} (e : a.toNat % 4 ≠ 0) :
    jumpTo s h a = trapCur s { cause := 0, tval := a, gva := h.virt } := by
  unfold jumpTo; rw [if_pos (by simpa using e)]
end Retirement

section Tracing
theorem rest_ite {α β : Type} (g : α → β) (c : Prop) [Decidable c] (a b : α) (x : β) (ha : g a = x) (hb : g b = x) :
    g (if c then a else b) = x := by split; exacts [ha, hb]
/-- `u` with the memory, the debug blocks and the counters of `s`. -/
def withTraceOf (s u : State) : State := { u with mem := s.mem, kiwiow := s.kiwiow, counters := s.counters }
theorem trace_ite {s a b u : State} {c : Prop} [Decidable c] (ha : withTraceOf s a = u) (hb : withTraceOf s b = u) :
    withTraceOf s (if c then a else b) = u := rest_ite (withTraceOf s) c a b u ha hb
theorem withTrace_slices (s u v : State) (h : withSlicesOf u v = withSlicesOf u u) : withTraceOf s v = withTraceOf s u := by
  have := congrArg (withTraceOf s) h
  exact this
theorem withTrace_mem (s u : State) (m : Mem) : withTraceOf s { u with mem := m } = withTraceOf s u := rfl
theorem noteWrite_rest (s u : State) (k : Nat) (l : Loc) (n : Nat) : withTraceOf s (noteWrite u k l n) = withTraceOf s u := by
  cases l
  case mem a => exact (withTrace_slices s _ _ (l2Span_rest _ _ _ _)).trans (withTrace_mem s u _)
  all_goals rfl
theorem modMem_rest (s u : State) (f : Mem → Mem) : withTraceOf s (modMem u f) = withTraceOf s u := rfl
theorem foldl_rest {α β : Type} (g : State → β) (f : State → α → State) (hf : ∀ t a, g (f t a) = g t) (l : List α) (s : State) :
    g (l.foldl f s) = g s := by
  induction l generalizing s with
  | nil => rfl
  | cons a l ih => rw [List.foldl_cons, ih, hf]
theorem notePoisonSpan_rest (s u : State) (a n : Nat) : withTraceOf s (notePoisonSpan u a n) = withTraceOf s u := by
  unfold notePoisonSpan
  refine foldl_rest (withTraceOf s) _ (fun t g => ?_) _ u
  unfold noteGranule; exact trace_ite rfl rfl
/-- A write by hardware changes memory, and counts what it initialises and writes. -/
theorem hwWrite_rest (s u : State) (k : Nat) (l : Loc) (bs : List Byte) : withTraceOf s (hwWrite u k l bs) = withTraceOf s u := by
  cases l
  case mem a =>
    unfold hwWrite
    dsimp only
    rw [noteWrite_rest, modMem_rest]
    exact foldl_rest (withTraceOf s) _ (fun t c => by split <;> rfl) _ u
  all_goals rfl
theorem ringWrite_rest (s u : State) (b z w : Nat) (bs : List Byte) : withTraceOf s (ringWrite u b z w bs) = withTraceOf s u := by
  unfold ringWrite
  dsimp only
  split
  · exact hwWrite_rest _ _ _ _ _
  · exact (hwWrite_rest _ _ _ _ _).trans (hwWrite_rest _ _ _ _ _)
theorem withTrace_kiwiow (s u : State) (b : Nat) (k : Kiwiow) : withTraceOf s (setKiwiow u b k) = withTraceOf s u := rfl
/-- A packet changes memory, its block and counters alone. -/
theorem ringPacket_rest (s u : State) (b : Nat) (f : Form) (src : Nat × Nat) (pc : DWord) (ev : TraceEv) :
    withTraceOf s (ringPacket u b f src pc ev) = withTraceOf s u := by
  unfold ringPacket
  cases packetBytes f ev with
  | none => rfl
  | some body =>
    dsimp only
    have lost := fun k => withTrace_kiwiow s u b k
    refine trace_ite rfl (trace_ite (lost _) (trace_ite (lost _) (trace_ite ?_ ?_)))
    · exact (withTrace_kiwiow _ _ _ _).trans (notePoisonSpan_rest _ _ _ _)
    · exact (withTrace_kiwiow _ _ _ _).trans (ringWrite_rest _ _ _ _ _ _)
/-- Packets change memory (the rings), the debug blocks and counters alone. -/
theorem ringsPacket_rest (s u : State) (x : Traced) : withTraceOf s (ringsPacket u x) = withTraceOf s u := by
  unfold ringsPacket
  refine foldl_rest (withTraceOf s) _ ?_ _ u
  intro t e
  dsimp only
  have key := fun b f src pc ev => ringPacket_rest s t b f src pc ev
  exact trace_ite (trace_ite (key _ _ _ _ _) rfl) (trace_ite (trace_ite (key _ _ _ _ _) (trace_ite (key _ _ _ _ _) rfl)) rfl)
/-- The packets of a clk change memory, the debug blocks and counters, and use up its events. -/
theorem writeTraced_rest (s : State) : withTraceOf s (writeTraced s) = { s with traced := [] } := by
  unfold writeTraced
  exact (foldl_rest (withTraceOf s) _ (fun t x => ringsPacket_rest s t x) _ _).trans rfl
/-- A traced event joins the clk's events and changes nothing else. -/
theorem traceEvent_rest (s : State) (k : Nat) (ev : TraceEv) : { traceEvent s k ev with traced := s.traced } = s := by
  unfold traceEvent traceAt; split <;> rfl
theorem traceEvent_harts (s : State) (k : Nat) (ev : TraceEv) : (traceEvent s k ev).harts = s.harts :=
  show ({ traceEvent s k ev with traced := s.traced } : State).harts = s.harts from congrArg State.harts (traceEvent_rest s k ev)
theorem traceEvent_cur (s : State) (k : Nat) (ev : TraceEv) : (traceEvent s k ev).cur = s.cur :=
  show ({ traceEvent s k ev with traced := s.traced } : State).cur = s.cur from congrArg State.cur (traceEvent_rest s k ev)
theorem traceEvent_mem (s : State) (k : Nat) (ev : TraceEv) : (traceEvent s k ev).mem = s.mem :=
  show ({ traceEvent s k ev with traced := s.traced } : State).mem = s.mem from congrArg State.mem (traceEvent_rest s k ev)
theorem curHart_traceEvent (s : State) (k : Nat) (ev : TraceEv) : curHart (traceEvent s k ev) = curHart s := by
  unfold curHart hartAt; rw [traceEvent_harts, traceEvent_cur]
/-- With no debug block enabled nothing is traced. -/
theorem traceAt_harts (s : State) (k : Nat) (pc : DWord) (ev : TraceEv) : (traceAt s k pc ev).harts = s.harts := by
  unfold traceAt; split <;> rfl
theorem traceAt_cur (s : State) (k : Nat) (pc : DWord) (ev : TraceEv) : (traceAt s k pc ev).cur = s.cur := by
  unfold traceAt; split <;> rfl
theorem traceEvent_off {s : State} (h : s.kiwiow = []) (k : Nat) (ev : TraceEv) : traceEvent s k ev = s := by
  unfold traceEvent traceAt; rw [h]; rfl
end Tracing

section Accesses
/-- With no write that passes, nothing is brought home. -/
theorem flushIf_none {p : Req → Bool} {s : State} (h : ∀ r ∈ s.mem.net, p r = false) : flushIf p s = (s, true) := by
  have key : ∀ (l : List Req) (a : State × List Req × Bool), (∀ r ∈ l, p r = false) →
      l.foldl (flushOne p) a = (a.1, a.2.1 ++ l, a.2.2) := by
    intro l
    induction l with
    | nil => intro a _; simp
    | cons r l ih =>
      intro a hl
      have e : flushOne p a r = (a.1, a.2.1 ++ [r], a.2.2) := by unfold flushOne; rw [hl r (by simp)]; rfl
      rw [List.foldl_cons, e, ih _ (fun q hq => hl q (by simp [hq]))]
      simp
  unfold flushIf
  rw [key _ _ h]
  rfl
/-- An agent whose releases cover no write on its way has nothing to wait for. -/
theorem flushAgent_none {s : State} {k : Nat} (h : mustWait s k = false) : flushAgent s k = (s, true) := by
  have ⟨a, b⟩ : s.mem.net.any (coveredBy k) = false ∧ s.mem.farOut.any (fun f => coveredBy k f.req) = false := by
    unfold mustWait at h; exact Bool.or_eq_false_iff.1 h
  unfold flushAgent
  rw [flushIf_none (fun r hr => by have := List.any_eq_false.1 a r hr; simpa using this)]
  simp only [b]; rfl
theorem flushWord_none {s : State} {k : Nat} (l : Loc) (n : Nat) (h : ∀ r ∈ s.mem.net, r.agent ≠ k) :
    flushWord s k l n = (s, true) :=
  flushIf_none (fun r hr => by simp [beq_eq_false_iff_ne.2 (h r hr)])
/-- With no write on its way an acquire obtains nothing new. -/
theorem obtainTile_none {s : State} (t k : Nat) (h : s.mem.net = []) (hf : s.mem.farOut = []) : obtainTile s t k = s := by
  unfold obtainTile
  rw [flushIf_none (fun r hr => by rw [h] at hr; cases hr)]
  simp only [modMem, h, hf, List.map_nil]
  obtain ⟨i, tu, c, f, q, cl, ha, nt, wg, nw, la, nl, ea, ho, co, bo, pa, ws, lp, pi, ro, m, r1, r2, r3, r4, r5, r6, r7⟩ := s
  cases m; cases h; cases hf; rfl
theorem acquireAll_none {s : State} (k : Nat) (h : s.mem.net = []) (hf : s.mem.farOut = []) : acquireAll s k = acquire s k := by
  unfold acquireAll; rw [obtainTile_none _ _ h hf]
/-- With no write on its way no access waits for another agent's. -/
theorem peerPending_none {s : State} (k : Nat) (l : Loc) (n : Nat) (h : s.mem.net = []) : peerPending s k l n = false := by
  unfold peerPending; rw [h]; rfl
theorem unanswered_none {s : State} (k : Nat) (l : Loc) (n : Nat) (h : s.mem.net = [])
    (hd : dropped s (hartAt s k).actsFor (hartAt s k).tile l = false) : unanswered s k l n = false := by
  unfold unanswered; rw [peerPending_none k l n h, hd]; rfl
theorem afterRelease_none {s : State} (f : State → State) (h : mustWait s s.cur = false) : afterRelease s f = f s := by
  unfold afterRelease; rw [flushAgent_none h]
/-- A plain store changes no byte of memory: it joins the writes on their way, and drops copies of S lines (14 R327). -/
theorem agentStore_rest (s : State) (k : Nat) (l : Loc) (mode n : Nat) (va v : DWord) :
    agentStore s k l mode n va v = { s with mem := { s.mem with
      net := s.mem.net ++ [{ newReq s k l mode n v with va := va }],
      copies := (agentStore s k l mode n va v).mem.copies } } := by
  unfold agentStore
  by_cases h : (mode == 1) = true
  · simp only [h, if_true, dropCopies]
    cases l <;> rfl
  · simp only [h]; rfl
theorem agentStore_copies (s : State) (k : Nat) (l : Loc) (mode n : Nat) (va v : DWord) (h : mode ≠ 1) :
    (agentStore s k l mode n va v).mem.copies = s.mem.copies := by
  have e : (mode == 1) = false := by simpa using h
  unfold agentStore
  simp only [e]; rfl
theorem agentStore_harts (s : State) (k : Nat) (l : Loc) (mode n : Nat) (va v : DWord) :
    (agentStore s k l mode n va v).harts = s.harts := by rw [agentStore_rest]
theorem agentStore_wf {s : State} (h : Memory.wf s.mem = true) (k : Nat) (l : Loc) (mode n : Nat) (va v : DWord) :
    Memory.wf (agentStore s k l mode n va v).mem = true := by rw [agentStore_rest]; exact h
/-- A write performed at its home, or held, keeps the canonical form. -/
theorem imsicStore_mem (s : State) (t k f n : Nat) : (imsicStore s t k f n).mem = s.mem := by
  unfold imsicStore; dsimp only; exact rest_ite State.mem _ _ _ _ rfl rfl
theorem ctlStore_mem (s : State) (o n : Nat) (v : DWord) : (ctlStore s o n v).mem = s.mem := by
  unfold ctlStore; exact rest_ite State.mem _ _ _ _ rfl rfl
theorem dropCopies_wf {s : State} (h : Memory.wf s.mem = true) (tile : Nat) (l : Loc) (n : Nat) :
    Memory.wf (dropCopies s tile l n).mem = true := by cases l <;> exact h
theorem entered_wf {s : State} (h : Memory.wf s.mem = true) (r : Req) : Memory.wf (entered s r).mem = true := by
  unfold entered; split
  · exact dropCopies_wf h _ _ _
  · exact h
theorem postedFault_mem (s : State) (r : Req) (b : Bool) : (postedFault s r b).mem = s.mem := by
  unfold postedFault lateFault; repeat' split
  all_goals rfl
theorem performReq_wf {s : State} (h : Memory.wf s.mem = true) (r : Req) : Memory.wf (performReq s r).1.mem = true := by
  have go : ∀ {u : State × Bool} (b : Bool), Memory.wf u.1.mem = true → ∀ g : State → State, (∀ t : State, (g t).mem = t.mem) →
      Memory.wf (match u with
        | (s, true) => (g (entered (postedFault s r b) r), true)
        | (s, false) => (s, false)).1.mem = true := by
    intro u b hu g hg
    obtain ⟨t, ok⟩ := u
    cases ok
    · exact hu
    · show Memory.wf (g (entered (postedFault t r b) r)).mem = true
      rw [hg]; exact entered_wf (by rw [postedFault_mem]; exact hu) r
  unfold performReq
  split
  · exact h
  · split
    · exact h
    · refine rest_ite (fun (t : State) => Memory.wf t.mem) _ _ _ true ?_ h
      simp only [imsicStore_mem]; exact h
    · simp only [ctlStore_mem]; exact h
    · split
      · exact h
      · split
        · exact go _ (homeWriteN_wf h _ _ _ _) id (fun _ => rfl)
        · split
          · exact h
          · exact go _ (homeWriteN_wf h _ _ _ _) (fun t => count t 3 (homeTile r.loc) 0 2 1) (fun _ => rfl)
theorem flushOne_wf {a : State × List Req × Bool} (h : Memory.wf a.1.mem = true) (p : Req → Bool) (r : Req) :
    Memory.wf (flushOne p a r).1.mem = true := by
  unfold flushOne
  split
  · exact h
  · split
    · exact h
    · have hr := performReq_wf h r
      split
      · rename_i e; rw [e] at hr; exact hr
      · rename_i e; rw [e] at hr; exact hr
/-- Bringing writes home keeps the canonical form. -/
theorem flushIf_wf {s : State} (h : Memory.wf s.mem = true) (p : Req → Bool) : Memory.wf (flushIf p s).1.mem = true := by
  have key : ∀ (l : List Req) (a : State × List Req × Bool), Memory.wf a.1.mem = true →
      Memory.wf (l.foldl (flushOne p) a).1.mem = true := by
    intro l
    induction l with
    | nil => intro a ha; exact ha
    | cons r l ih => intro a ha; exact ih _ (flushOne_wf ha p r)
  exact key s.mem.net (s, [], true) h
theorem flushWord_wf {s : State} (h : Memory.wf s.mem = true) (k : Nat) (l : Loc) (n : Nat) :
    Memory.wf (flushWord s k l n).1.mem = true := flushIf_wf h _
/-- Cached lines leave memory's contents alone. -/
theorem fitCache_wf {s : State} (h : Memory.wf s.mem = true) (k l : Nat) : Memory.wf (fitCache s k l).mem = true := by
  unfold fitCache; dsimp only; split <;> exact h
theorem fillCopy_wf {s : State} (h : Memory.wf s.mem = true) (k l : Nat) : Memory.wf (fillCopy s k l).mem = true := by
  unfold fillCopy; exact fitCache_wf (by exact l2Touch_wf h l) k l
theorem dirLoad_wf {s : State} (h : Memory.wf s.mem = true) (g : Hart) (a n : Nat) : Memory.wf (dirLoad s g a n).mem = true := by
  unfold dirLoad
  dsimp only
  split
  · exact h
  · exact fitCache_wf (by exact l2Touch_wf h _) _ _
theorem obtainTile_wf {s : State} (h : Memory.wf s.mem = true) (t k : Nat) : Memory.wf (obtainTile s t k).mem = true :=
  flushIf_wf h _
theorem acquireAll_wf {s : State} (h : Memory.wf s.mem = true) (k : Nat) : Memory.wf (acquireAll s k).mem = true := obtainTile_wf h _ k
theorem releaseWaiters_wf {s : State} (h : Memory.wf s.mem = true) (ks : List Nat) (w : WaitOn) :
    Memory.wf (releaseWaiters s ks w).mem = true := by
  unfold releaseWaiters
  generalize ks.filter _ = l
  induction l generalizing s with
  | nil => exact h
  | cons k r ih => exact ih (s := modHart (acquireAll s k) k wakeHart) (acquireAll_wf h k)
theorem settleBar_wf {s : State} (h : Memory.wf s.mem = true) (w n : Nat) (b : Bar) : Memory.wf (settleBar s w n b).mem = true := by
  unfold settleBar
  dsimp only
  split
  · exact h
  · exact releaseWaiters_wf (s := putBar s w n (barSettle b)) h _ _
theorem dropCopy_wf {s : State} (h : Memory.wf s.mem = true) (k : Nat) : Memory.wf (dropCopy s k).mem = true := by
  unfold dropCopy
  dsimp only
  split
  · exact h
  · exact settleBar_wf (by exact h) _ _ _
/-- A load keeps the canonical form, whatever it brings home first. -/
theorem agentLoad_wf {s : State} (h : Memory.wf s.mem = true) (k : Nat) (l : Loc) (mode n : Nat) :
    Memory.wf (agentLoad s k l mode n).1.mem = true := by
  unfold agentLoad
  split
  · exact h
  · have hf := flushWord_wf h k l n
    generalize flushWord s k l n = u at hf
    obtain ⟨t, ok⟩ := u
    have hf : Memory.wf t.mem = true := hf
    dsimp only
    split
    · exact hf
    · split
      · split
        · exact l2Loc_wf hf _ _
        · split
          · split
            · split
              · exact hf
              · exact fillCopy_wf hf _ _
            · exact fillCopy_wf hf _ _
          · exact dirLoad_wf hf _ _ _
      · exact hf
      · exact hf
end Accesses

section Traps
/-- What withdrawing changes, of an agent that awaits no copy's ownership: reservations' waiters, parked accesses and LR marks in
memory, and the sequencer's queue. -/
theorem withdrawCopy_none {s : State} {k : Nat} (h : ∀ c, (hartAt s k).wait ≠ .copyOwn c) : withdrawCopy s k = s := by
  unfold withdrawCopy; split
  · rename_i e; exact absurd e (h _)
  · rfl
theorem withdraw_harts {s : State} {k : Nat} (h : ∀ c, (hartAt s k).wait ≠ .copyOwn c) : (withdraw s k).harts = s.harts := by
  unfold withdraw; rw [withdrawCopy_none (s := leaveQueue s k) h]; exact rest_ite State.harts _ _ _ _ rfl rfl
theorem withdraw_cur {s : State} {k : Nat} (h : ∀ c, (hartAt s k).wait ≠ .copyOwn c) : (withdraw s k).cur = s.cur := by
  unfold withdraw; rw [withdrawCopy_none (s := leaveQueue s k) h]; exact rest_ite State.cur _ _ _ _ rfl rfl
theorem withdraw_wf {s : State} (h : Memory.wf s.mem = true) (k : Nat) : Memory.wf (withdraw s k).mem = true := by
  have hc : Memory.wf (withdrawCopy (leaveQueue s k) k).mem = true := by
    unfold withdrawCopy
    split
    · exact h
    · exact h
  unfold withdraw; exact rest_ite (fun (t : State) => Memory.wf t.mem) _ _ _ _ hc hc
theorem landAll_none {h : Hart} (e : h.pend = []) : landAll h = h := by
  unfold landAll; rw [e]; cases h; cases e; rfl
theorem settleLaneFe_none {h : Hart} (e : h.laneFe = none) : settleLaneFe h = (h, none) := by unfold settleLaneFe; rw [e]
/-- `g` with what a trap may change taken from `h`: CSRs, the lane pc, the mode and the pc. -/
def apartFromTrap (h g : Hart) : Hart := { g with csr := h.csr, lpc := h.lpc, priv := h.priv, virt := h.virt, pc := h.pc }
theorem apart_setC (h g : Hart) (n : Nat) (v : DWord) : apartFromTrap h (g.setC n v) = apartFromTrap h g := rfl
theorem apart_lpc (h g : Hart) (v : DWord) : apartFromTrap h { g with lpc := v } = apartFromTrap h g := rfl
theorem apart_mode (h g : Hart) (p : Priv) (v : Bool) (a : DWord) :
    apartFromTrap h { g with priv := p, virt := v, pc := a } = apartFromTrap h g := rfl
theorem apart_self (h : Hart) : apartFromTrap h h = h := rfl
theorem apart_laneRecord (h g : Hart) (t : Trap) (vs : Bool) (e : Option LaneEntry) :
    apartFromTrap h (laneRecord g t vs e) = apartFromTrap h g := by
  unfold laneRecord
  generalize t.stm = m
  cases m <;> cases e <;> simp only [apart_setC, apart_lpc]
/-- Taking a trap changes CSRs, the lane pc, the mode and the pc of the hart, and nothing else of it (12 R275). -/
theorem enterTrap_rest (h : Hart) (t : Trap) (tgt : Target) (e : Option LaneEntry) :
    apartFromTrap h (enterTrap h t tgt e) = h := by
  unfold enterTrap
  cases tgt <;> simp only [apart_mode, apart_setC, apart_laneRecord, apart_self]
@[simp] theorem enterTrap_m_priv (h : Hart) (t : Trap) (e : Option LaneEntry) : (enterTrap h t .m e).priv = .m := rfl
@[simp] theorem enterTrap_hs_priv (h : Hart) (t : Trap) (e : Option LaneEntry) : (enterTrap h t .hs e).priv = .s := rfl
@[simp] theorem enterTrap_vs_priv (h : Hart) (t : Trap) (e : Option LaneEntry) : (enterTrap h t .vs e).priv = .s := rfl
@[simp] theorem enterTrap_m_virt (h : Hart) (t : Trap) (e : Option LaneEntry) : (enterTrap h t .m e).virt = false := rfl
@[simp] theorem enterTrap_hs_virt (h : Hart) (t : Trap) (e : Option LaneEntry) : (enterTrap h t .hs e).virt = false := rfl
@[simp] theorem enterTrap_vs_virt (h : Hart) (t : Trap) (e : Option LaneEntry) : (enterTrap h t .vs e).virt = true := rfl
@[simp] theorem enterTrap_m_pc (h : Hart) (t : Trap) (e : Option LaneEntry) :
    (enterTrap h t .m e).pc = vectorPc (h.getC 0x305) t.intr t.cause := rfl
@[simp] theorem enterTrap_hs_pc (h : Hart) (t : Trap) (e : Option LaneEntry) :
    (enterTrap h t .hs e).pc = vectorPc (h.getC 0x105) t.intr t.cause := rfl
@[simp] theorem enterTrap_vs_pc (h : Hart) (t : Trap) (e : Option LaneEntry) :
    (enterTrap h t .vs e).pc = vectorPc (h.getC 0x205) t.intr (vsCode t.intr t.cause) := rfl
/-- What taking a trap makes of a group with no lane result, lane full-empty access or copy awaited (12 R274). -/
theorem takeTrapAt_hart {s : State} {k : Nat} (t : Trap) (tgt : Target) (e : Option LaneEntry)
    (hp : (hartAt s k).pend = []) (hf : (hartAt s k).laneFe = none) (hc : ∀ c, (hartAt s k).wait ≠ .copyOwn c) :
    hartAt (takeTrapAt s k t tgt e) k = { enterTrap (hartAt s k) t tgt e with
      laneQ := [], laneWait := .nothing, iss := {}, wait := .nothing, run := .ready, pauseTo := 0, bounces := 0, indiv := false } := by
  have hw : hartAt (withdraw s k) k = hartAt s k := by unfold hartAt; rw [withdraw_harts hc]
  unfold takeTrapAt
  simp only [hw, landAll_none hp, settleLaneFe_none hf]
  exact hartAt_setHart _ k _
/-- Such a trap in one group leaves every other agent alone. -/
theorem takeTrapAt_ne {s : State} {k j : Nat} (t : Trap) (tgt : Target) (e : Option LaneEntry) (h : j ≠ k)
    (hc : ∀ c, (hartAt s k).wait ≠ .copyOwn c) : hartAt (takeTrapAt s k t tgt e) j = hartAt s j := by
  unfold takeTrapAt
  dsimp only
  rw [hartAt_setHart_ne _ _ (fun c => h c.symm)]
  unfold hartAt
  rw [traceAt_harts, withdraw_harts hc]
theorem takeTrapAt_cur {s : State} {k : Nat} (t : Trap) (tgt : Target) (e : Option LaneEntry)
    (hc : ∀ c, (hartAt s k).wait ≠ .copyOwn c) : (takeTrapAt s k t tgt e).cur = s.cur := by
  unfold takeTrapAt
  dsimp only
  rw [setHart_cur, traceAt_cur, withdraw_cur hc]
end Traps

end Sys2Proof.Laws
end

