-- ==== Sys2Proof/Tests/Slice0.lean ====
section
/-! SUPPORT. Tests of one step each on small states, with expected results taken from the spec's words or worked out by hand from them,
refused ill-formed terms, and for every statement states that meet its hypotheses. -/
set_option Elab.async false
namespace Sys2Proof.Tests
open Sys2Proof Sys2Proof.Machine Sys2Proof.Claims

section Helpers
/-- The state that an outcome answers. -/
def after (o : Host.Outcome State Fault Refusal) : State :=
  match o with
  | .next t => t
  | .fault _ => {}
  | .refused _ => {}
/-- A group in M mode on tile 0, slot 0, of partition 15. -/
def grp : Hart := { run := .ready, pc := 0x1000 }
/-- A tasklet at its home on tile 0. -/
def tsk : Hart := { tasklet := true, run := .ready, pc := 0x1000, priv := .u, place := .slot 0 0, lkey := 1 }
/-- A running package with one agent, whose chunk 0 of main memory is open. -/
def one (h : Hart) : State :=
  { harts := [(0, h)], clk := 5000, mem := { open_ := [(0, true)] }, hub := { powered := true, ready := true, stage := 4 } }
/-- The agent and a second group in slot 1. -/
def two (h k : Hart) : State := { one h with harts := [(0, h), (1, k)] }
def withMem (s : State) (f : Mem → Mem) : State := { s with mem := f s.mem }
def x (s : State) (r : Reg) : DWord := (curHart s).getX r
/-- Bytes of main memory. -/
def bytes (s : State) (a n : Nat) : Nat := homeValue s (.mem a) n
/-- A group with x10 = 0x2000, x11 = 5, x12 = −3 and x1 = 2^63. -/
def g1 : Hart := { grp with x := [(1, 0x8000000000000000), (10, 0x2000), (11, 5), (12, 0xFFFFFFFFFFFFFFFD)] }
def s1 : State := one g1
/-- The same with the word 0x80FF at 0x2000. -/
def s2 : State := withMem s1 (fun m => { m with bytes := [(0x2000, 0xFF#8), (0x2001, 0x80#8)] })
end Helpers

section Means
/-- Forms in which premises can be evaluated: each says the same as the premise. -/
def okAt {ε α : Type} [DecidableEq α] (r : Except ε α) (a : α) : Bool :=
  match r with
  | .ok b => decide (b = a)
  | .error _ => false
theorem ok_iff {ε α : Type} [DecidableEq α] {r : Except ε α} {a : α} : r = .ok a ↔ okAt r a = true := by
  cases r <;> simp [okAt]
def openAt (s : State) (l : Loc) (n : Nat) : Bool :=
  match l with
  | .mem a => !gesso s.mem a && !poisoned s l n
  | _ => true
theorem writable_iff {s : State} {k : Nat} {l : Loc} {n : Nat} : Writable s k l n ↔ heldWrite s k l n = false ∧ openAt s l n = true := by
  unfold Writable openAt; cases l <;> simp
def reachB (s : State) (c : Ctx) (k : Nat) (acc : Acc) (cls : Cls) (va : DWord) (n : Nat) (l : Located) : Bool :=
  okAt (locate s c k (curHart s).tasklet acc cls va n) l && (awayHome (curHart s) l.loc).isNone &&
    (curHart s).loads.all (fun p => !overlaps p.loc p.size (wordSpan l.loc n).1 (wordSpan l.loc n).2)
theorem reaches_iff {s : State} {c : Ctx} {k n : Nat} {acc : Acc} {cls : Cls} {va : DWord} {l : Located} :
    ReachesIn s c k acc cls va n l ↔ reachB s c k acc cls va n l = true := by
  unfold ReachesIn reachB; rw [ok_iff]; simp [and_assoc]
theorem nearNone_iff {s : State} {l : Loc} {n : Nat} : NoNearWrite s l n ↔ s.mem.net.all (fun r =>
    if r.agent = s.cur then !overlaps r.loc r.size (wordSpan l n).1 (wordSpan l n).2
    else !(r.covers.contains s.cur && overlaps r.loc r.size l n)) = true := by
  rw [List.all_eq_true]
  refine ⟨fun h r hr => ?_, fun h => ⟨fun r hr e => ?_, fun r hr e c => ?_⟩⟩
  · split
    · simpa using h.1 r hr ‹_›
    · have := h.2 r hr ‹_›; simp; exact Decidable.not_or_of_imp this
  · have := h r hr; rw [if_pos e] at this; simpa using this
  · have := h r hr; rw [if_neg e] at this; simp at this; exact this.resolve_left (not_not_intro c)
def synchronises (l : Loc) : Bool :=
  match l with
  | .win _ => true
  | .mbox _ => true
  | _ => false
theorem synchronises_iff {l : Loc} : ((∃ o, l = .win o) ∨ ∃ b, l = .mbox b) ↔ synchronises l = true := by
  cases l <;> simp [synchronises]
def bytesAt (l : Loc) : Bool :=
  match l with
  | .mem _ => true
  | .win _ => true
  | .mbox _ => true
  | .host _ => true
  | _ => false
theorem holdsBytes_iff {l : Loc} : HoldsBytes l ↔ bytesAt l = true := by cases l <;> simp [HoldsBytes, bytesAt]
def ownsNone (w : WaitOn) : Bool :=
  match w with
  | .copyOwn _ => false
  | _ => true
theorem ownsNone_iff {w : WaitOn} : (∀ c, w ≠ .copyOwn c) ↔ ownsNone w = true := by cases w <;> simp [ownsNone]
end Means

section Scalar
/-- A word of the standard encoding, run as the first instruction (05 R129): addi x10, x0, −1. -/
theorem test_step_addi : (x (after (step (State.withFetchWord State.reset 32 0xFFF00513))) 10) = BitVec.allOnes 64 := by decide +kernel
theorem test_add_wraps : x (after (exec (.add 10 12 11) s1)) 10 = 2 := by decide +kernel
theorem test_x0_discards : x (after (exec (.addi 0 11 7) s1)) 0 = 0 := by decide +kernel
theorem test_sub : x (after (exec (.sub 10 11 12) s1)) 10 = 8 := by decide +kernel
/-- Groups may name every register, tasklets x1 to x10; an outcome of each branch, with targets on and off a multiple of 4. -/
theorem witness_ScalarArithmetic : MayRun s1 [10, 31] ∧ MayRun (one tsk) [1, 10] := by
  unfold MayRun; decide +kernel
theorem witness_BranchesAndJumps : MayRun s1 [10, 11] ∧ xs s1 10 ≠ xs s1 11 ∧ xs s1 10 = xs s1 10 ∧ IsGroup s1 ∧ (curHart s1).getM 15 ≠ 0 ∧
    (curHart s1).getM 3 = 0 ∧ aligned4 (pcOf s1 + off12 4) ∧ ¬ aligned4 (pcOf s1 + off12 1) ∧ aligned4 (pcOf s1 + off20 4) ∧
    ¬ aligned4 (pcOf s1 + off20 1) ∧ aligned4 (jalrTarget s1 10 1) ∧ ¬ aligned4 (jalrTarget s1 10 2) := by
  unfold MayRun IsGroup aligned4; decide +kernel
/-- Taken backwards: the offset is in halfwords and signed. -/
theorem test_beq_back : pcOf (after (exec (.beq 10 10 0xFFE) s1)) = 0xFFC := by decide +kernel
theorem test_bltu : pcOf (after (exec (.bltu 11 12 4) s1)) = 0x1008 ∧ pcOf (after (exec (.blt 11 12 4) s1)) = 0x1004 := by decide +kernel
theorem test_jalr_link : x (after (exec (.jalr 10 10 5) s1)) 10 = 0x1004 ∧
    pcOf (after (exec (.jalr 10 10 5) s1)) = 0x2004 := by decide +kernel
/-- A target off a multiple of 4 raises cause 0 with the target, and the jump writes no link. -/
theorem test_jal_misaligned : let t := after (exec (.jal 5 1) s1)
    (curHart t).getC 0x342 = 0 ∧ (curHart t).getC 0x343 = 0x1002 ∧ (curHart t).getC 0x341 = 0x1000 ∧ x t 5 = 0 := by decide +kernel
theorem test_div_corner : x (after (exec (.div 5 11 0) s1)) 5 = BitVec.allOnes 64 ∧
    x (after (exec (.rem 5 1 12) s1)) 5 = 0xFFFFFFFFFFFFFFFE ∧
    x (after (exec (.div 5 1 6) (one { g1 with x := [(1, 0x8000000000000000), (6, BitVec.allOnes 64)] }))) 5 = 0x8000000000000000 := by
  decide +kernel
theorem test_sraw : x (after (exec (.sraiw 5 10 4) (one { grp with x := [(10, 0x80000000)] }))) 5 = 0xFFFFFFFFF8000000 := by decide +kernel
theorem test_mulhsu : x (after (exec (.mulhsu 5 12 12) s1)) 5 = 0xFFFFFFFFFFFFFFFD := by decide +kernel
end Scalar

section Memory
/-- A guest's S page over page 2 of tile 0, in partition 0, with a usable copy of its line. -/
def leaf : BitVec 64 := 0x00400000000008DF
def guest : Hart := { g1 with priv := .u, virt := true, pid := 0, csr := [(0x280, 0x9000000000000000), (0x680, 0x9000000000000000)] }
def part0 : Part := { valid := true, rect := 0x10100000 }
def sS : State := { one guest with parts := [(0, part0)], mem :=
  { open_ := [(0, true)], bytes := [(0x2000, 7#8)],
    tlbs := [{ virt := true, stage1 := true, stage2 := true, vpage := 2, gpage := 2, ppage := 2, leaf1 := leaf, leaf2 := leaf }],
    copies := [{ holder := 0, line := 0x80, words := [9], grant := 312, expiry := 376 }] } }
/-- The same with the copy out of date. -/
def sOld : State := { sS with clk := 100000 }
/-- The operator's group reaches the operator's memory, also by HLV (15 R330). -/
def sH : State := { s2 with harts := [(0, { g1 with pid := 0 })], parts := [(15, part0)] }
theorem witness_LoadsReturnMemory :
    AnswersAt s2 .load .scalar (xs s2 10 + sx 0) 2 ⟨.mem 0x2000, 0, none⟩ ∧ heldRead s2 (.mem 0x2000) 2 = false ∧
    NoNearWrite s2 (.mem 0x2000) 2 ∧ AnswersAt sS .load .scalar (xs sS 10 + sx 0) 4 ⟨.mem 0x2000, 1, none⟩ ∧
    NoNearWrite sS (.mem 0x2000) 4 ∧
    ((copyFind sS.mem (hartHolder (curHart sS)) 0x80).map (usable sS (curHart sS))) = some true ∧
    ((copyFind sOld.mem (hartHolder (curHart sOld)) 0x80).map (usable sOld (curHart sOld))) = some false ∧
    AnswersAt sOld .load .scalar (xs sOld 10 + sx 0) 4 ⟨.mem 0x2000, 1, none⟩ ∧
    AnswersAt s2 .load .scalar 0x8200001000 4 ⟨.ctl 0x1000, 2, none⟩ ∧ AnswersAt s2 .load .scalar 0x8100000000 4 ⟨.irq 0, 2, none⟩ ∧
    MayHyp sH ∧
    AnswersIn sH (hlvCtx (curHart sH) false) 0 .load .scalar (xs sH 10) 8 ⟨.mem 0x2000, 0, none⟩ ∧ NoNearWrite sH (.mem 0x2000) 8 := by
  simp only [AnswersAt, AnswersIn, ReachesAt, reaches_iff, Routed, nearNone_iff, MayHyp, IsGroup]; decide +kernel
theorem test_lh : x (after (exec (.lh 5 10 0) s2)) 5 = 0xFFFFFFFFFFFF80FF ∧
    x (after (exec (.lhu 5 10 0) s2)) 5 = 0x80FF := by decide +kernel
theorem test_load_copy : x (after (exec (.lw 5 10 0) sS)) 5 = 9 ∧ x (after (exec (.lw 5 10 0) sOld)) 5 = 7 := by decide +kernel
theorem test_load_control : x (after (exec (.lw 5 10 0) (one { grp with x := [(10, 0x8200001000)] }))) 5 = 64 := by decide +kernel
theorem test_hlv : x (after (exec (.hlvH 5 10) sH)) 5 = 0xFFFFFFFFFFFF80FF := by decide +kernel
theorem witness_Stores : ReachesAt s1 .store .scalar (xs s1 10 + sx 8) 8 ⟨.mem 0x2008, 0, none⟩ ∧
    ReachesIn sH (hlvCtx (curHart sH) false) 0 .store .scalar (xs sH 10) 4 ⟨.mem 0x2000, 0, none⟩ := by
  simp only [ReachesAt, reaches_iff]; decide +kernel
/-- A store stays on its way; its own agent's load sees it, and its home performs it. -/
theorem test_store_forward : let t := after (exec (.sh 10 12 0) s1)
    bytes t 0x2000 2 = 0 ∧ x (after (exec (.lh 5 10 0) t)) 5 = 0xFFFFFFFFFFFFFFFD ∧
      bytes (after (exec (.homeAccess 0) t)) 0x2000 4 = 0xFFFD := by decide +kernel
theorem witness_LoadSeesOwnStore : let t := after (exec (.sw 10 12 0) s1)
    ReachesAt s1 .store .scalar (xs s1 10 + sx 0) 4 ⟨.mem 0x2000, 0, none⟩ ∧
    ReachesAt t .load .scalar (xs t 10 + sx 0) 4 ⟨.mem 0x2000, 0, none⟩ := by
  simp only [ReachesAt, reaches_iff]; decide +kernel
theorem witness_Misaligned : (xs s1 11 + sx 0).toNat % 2 ≠ 0 ∧ (xs s1 10 + sx 4).toNat % 8 ≠ 0 ∧
    (xs s1 11).toNat % 4 ≠ 0 := by decide +kernel
theorem test_load_misaligned : (curHart (after (exec (.ld 5 10 4) s1))).getC 0x342 = 4 ∧
    (curHart (after (exec (.sd 10 5 4) s1))).getC 0x342 = 6 ∧ (curHart (after (exec (.ld 5 10 4) s1))).getC 0x343 = 0x2004 := by decide +kernel
theorem witness_Amos : AnswersAt s2 .store .amo (xs s2 10) 4 ⟨.mem 0x2000, 0, none⟩ ∧ Quiet s2 ∧ Writable s2 s2.cur (.mem 0x2000) 4 := by
  simp only [AnswersAt, ReachesAt, reaches_iff, Routed, Quiet, writable_iff]; decide +kernel
theorem test_amoadd : let t := after (exec (.amoaddW 5 10 12 false false) s2)
    x t 5 = 0x80FF ∧ bytes t 0x2000 4 = 0x80FC := by decide +kernel
theorem test_amomin : let t := after (exec (.amominW 5 10 12 false false) s2)
    bytes t 0x2000 4 = 0xFFFFFFFD ∧ bytes (after (exec (.amominuW 5 10 12 false false) s2)) 0x2000 4 = 0x80FF := by decide +kernel
/-- The states after an LR, and after an LR and another group's store to its span. -/
def sLr : State := after (exec (.lrW 5 10 false false) s2)
theorem witness_Reservations : AnswersAt s2 .load .lrsc (xs s2 10) 4 ⟨.mem 0x2000, 0, none⟩ ∧ heldRead s2 (.mem 0x2000) 4 = false ∧
    AnswersAt sLr .store .lrsc (xs sLr 10) 4 ⟨.mem 0x2000, 0, none⟩ ∧ Reserved sLr 0x2000 4 ∧ Quiet s2 ∧ Quiet sLr ∧
    Writable sLr sLr.cur (.mem 0x2000) 4 ∧ ¬ Reserved s2 0x2000 4 ∧ heldWrite s2 s2.cur (.mem 0x2000) 4 = false := by
  simp only [AnswersAt, ReachesAt, reaches_iff, Routed, Reserved, Quiet, writable_iff]; decide +kernel
theorem test_lr_sc : let t := after (exec (.scW 5 10 11 false false) sLr)
    x sLr 5 = 0x80FF ∧ x t 5 = 0 ∧ bytes t 0x2000 4 = 5 ∧ x (after (exec (.scW 5 10 11 false false) t)) 5 = 1 := by decide +kernel
end Memory

section System
def user : Hart := { g1 with priv := .u }
/-- HS mode with breakpoints (cause 3) delegated to it, and a guest with them delegated to it; handlers at 0x3000, 0x5000 and 0x7000. -/
def hyper : Hart := { g1 with priv := .s, csr := [(0x105, 0x5000), (0x302, 8), (0x305, 0x3000)] }
def guestS : Hart := { hyper with virt := true, csr := [(0x105, 0x5000), (0x205, 0x7001), (0x302, 8), (0x305, 0x3000), (0x602, 8)] }
def brk : Trap := { cause := 3, tval := 0x1000 }
theorem witness_Csr : (csrGate (curHart s1) 0x802 true = .pass 0x802 ∧ csrGate (curHart s1) 0xCC0 false = .pass 0xCC0) ∧ IsGroup s1 ∧
    csrBad s1 (curHart s1) 0x802 4 = false ∧ csrBad s1 (curHart s1) 0x802 5 = true ∧ (xs s1 11).toNat % 8 = 5 ∧ (xs s1 0).toNat % 8 ≤ 4 ∧
    (xs s1 12).toNat % 32 = 29 ∧ (16#64).toNat % 32 ≤ 16 ∧ 16 < (17#64).toNat % 32 := by
  refine ⟨⟨rfl, rfl⟩, ?_⟩
  unfold IsGroup; decide +kernel
/-- Numbers just outside what is assigned, and modes below the number's level. -/
theorem witness_CsrForbidden : CsrForbidden s1 0x808 ∧ CsrForbidden s1 0xCCB ∧ CsrForbidden (one user) 0x5C0 ∧
    CsrForbidden (one hyper) 0x7CC :=
  ⟨Or.inl (by unfold solingCsr assignedCsr; decide), Or.inl (by unfold solingCsr assignedCsr; decide), Or.inr (Or.inr (by decide +kernel)),
   Or.inr (Or.inl (by decide +kernel))⟩
theorem test_csrrs : let t := after (exec (.csrrs 5 11 0x806) s1)
    x t 5 = 0 ∧ (curHart t).getC 0x806 = 5 ∧ (curHart (after (exec (.csrrc 5 11 0x806) t))).getC 0x806 = 0 := by decide +kernel
theorem test_csr_readonly : (curHart (after (exec (.csrrw 5 11 0xCC0) s1))).getC 0x342 = 2 ∧
    (curHart (after (exec (.csrrs 5 0 0xCC1) s1))).getC 0x342 = 0 := by decide +kernel
/-- MSP 2 of four entries: the upper two are cleared. -/
theorem test_mspWrite : let h := curHart (after (exec (.mspWrite 2) (one { g1 with msp := 4, mstk := [(0, 7), (1, 8), (2, 9), (3, 10)] })))
    h.msp = 2 ∧ h.getS 1 = 8 ∧ h.getS 2 = 0 ∧ (curHart (after (exec (.mspWrite 17) s1))).getC 0x342 = 2 := by decide +kernel
theorem witness_System : MayRun s1 [1, 2] ∧ Quiet s1 ∧ LoadsBack s1 ∧ IsGroup s1 ∧ MaySfence (curHart s1) ∧ (curHart s1).virt = false ∧
    (curHart s1).priv ≠ .u ∧ (curHart s1).accFails = [] ∧ anyPending s1 (curHart s1) = false ∧
    anyPending (one { g1 with preempt := true }) { g1 with preempt := true } = true ∧ (Instr.fenceS 3 5).wellFormed = true := by
  unfold MayRun Quiet LoadsBack IsGroup MaySfence; decide +kernel
/-- The modes in which WFI traps: below M with TW set, user mode, and a guest with VTW set (12 R279). -/
def noWfi : State := one { user with csr := [(0x300, 0x200000)] }
def vtw : State := one { guestS with csr := (0x600, 0x200000) :: guestS.csr }
theorem witness_Wfi : IsGroup noWfi ∧ (curHart noWfi).priv ≠ .m ∧ bitAt ((curHart noWfi).getC 0x300) 21 = true ∧
    (curHart (one user)).virt = false ∧ (curHart (one user)).priv = .u ∧ bitAt ((curHart (one user)).getC 0x300) 21 = false ∧
    (curHart vtw).virt = true ∧ (curHart vtw).priv ≠ .m ∧ bitAt ((curHart vtw).getC 0x600) 21 = true ∧
    bitAt ((curHart vtw).getC 0x300) 21 = false := by unfold IsGroup; decide +kernel
theorem test_wfi_traps : (curHart (after (exec .wfi noWfi))).getC 0x342 = 2 ∧ (curHart (after (exec .wfi (one user)))).getC 0x342 = 2 ∧
    (curHart (after (exec .wfi vtw))).getC 0x342 = 22 := by decide +kernel
theorem test_sfence : let s := { s1 with mem := { sS.mem with tlbs := [{ stage1 := true, vpage := 2, asid := 5 }, { stage1 := true, vpage := 3 }] } }
    (after (exec (.sfenceVma 10 0) s)).mem.tlbs.map Tlb.vpage = [3] ∧ (after (exec (.sfenceVma 0 11) s)).mem.tlbs.map Tlb.vpage = [3] := by
  decide +kernel
theorem test_pause : (curHart (after (exec .pause s1))).pauseTo = 5032 := by decide +kernel
theorem test_wfi : (curHart (after (exec .wfi s1))).wait = .wfi ∧ pcOf (after (exec .wfi (one { g1 with preempt := true }))) = 0x1004 := by
  decide +kernel
theorem test_ecall : (curHart (after (exec .ecall s1))).getC 0x342 = 11 ∧ (curHart (after (exec .ecall (one user)))).getC 0x342 = 8 := by
  decide +kernel
theorem witness_Traps : Plain s1 ∧ (curHart s1).priv = .m ∧ Plain (one hyper) ∧ (curHart (one hyper)).priv ≠ .m ∧
    bitAt ((curHart (one hyper)).getC 0x302) 3 = true ∧ (curHart (one hyper)).virt = false ∧ Plain (one guestS) ∧
    bitAt ((curHart (one guestS)).getC 0x602) 3 = true ∧ bitAt ((curHart (one hyper)).getC 0x302) 2 = false ∧ aligned4 (pcOf s1) ∧
    ((curHart s1).priv = .m → (curHart s1).virt = false) := by
  simp only [Plain, IsGroup, aligned4, ownsNone_iff]; decide +kernel
theorem test_trap_levels : let m := curHart (trapCur s1 brk); let h := curHart (trapCur (one hyper) brk)
    let g := curHart (trapCur (one guestS) brk)
    (m.priv = .m ∧ m.getC 0x341 = 0x1000 ∧ bitsOf (m.getC 0x300) 11 2 = 3) ∧ (h.priv = .s ∧ h.pc = 0x5000 ∧ h.getC 0x141 = 0x1000) ∧
      (g.virt = true ∧ g.pc = 0x7000 ∧ g.getC 0x241 = 0x1000 ∧ g.getC 0x242 = 3 ∧ g.getC 0x142 = 0) := by decide +kernel
theorem witness_Returns : IsGroup s1 ∧ (curHart s1).priv = .m ∧ (curHart (one hyper)).virt = false ∧ (curHart (one hyper)).priv ≠ .u ∧
    bitAt ((curHart (one hyper)).getC 0x300) 22 = false ∧ bitAt ((curHart (one hyper)).getC 0x5C5) 0 = false ∧
    (curHart (one guestS)).virt = true ∧ bitAt ((curHart (one guestS)).getC 0x600) 22 = false ∧
    bitAt ((curHart (one guestS)).getC (bankKey true 0x5C5)) 0 = false := by unfold IsGroup; decide +kernel
/-- HS mode with a batch to resume at an LRUN at 0x1000: `n` lane instructions of 0x2000, the first without lanes 0 and 2. -/
def resume (n pc : DWord) : State := { one { hyper with
    csr := [(0x141, pc), (0x5C0, 0x8000), (0x5C1, 5), (0x5C3, 0x2000), (0x5C4, n), (0x5C5, 1)] ++ hyper.csr, lpc := 0x2000 } with
  parts := [(15, part0)]
  mem := writeBytes (writeBytes { open_ := [(0, true)] } (.mem 0x1000) (leBytes 4 0x0080000B)) (.mem 0x2000)
    (leBytes 12 0x00007008030C005010082023 ++ leBytes 12 0x000003E8023E000020090080) }
def returning (n pc : DWord) : Hart := resumeReturn (curHart (resume n pc))
/-- What each case of the statement asks: a batch of two, one of none, and a return address that holds no LRUN. -/
def resumes (n pc : DWord) (b : Bool) : Prop :=
  IsGroup (resume n pc) ∧ MaySret (curHart (resume n pc)) ∧ bitAt ((curHart (resume n pc)).getC 0x5C5) 0 = true ∧
    bitsOf ((returning n pc).getC 0x5C4) 0 7 = n.toNat ∧ fetchHeld (resume n pc) 0 (returning n pc) (returning n pc).pc = false ∧
    holdsLrun (resume n pc) (returning n pc) (returning n pc).pc = b ∧
    batchHeld (resume n pc) 0 (returning n pc) n.toNat (returning n pc).lpc = false
theorem witness_Resumes : resumes 2 0x1000 true ∧ resumes 0 0x1000 true ∧ resumes 2 0x2000 false := by
  unfold resumes IsGroup MaySret; decide +kernel
theorem test_sret_resumes : let h := curHart (after (exec .sret (resume 2 0x1000)))
    h.laneQ.map LaneEntry.rem = [2, 1] ∧ h.laneQ.map LaneEntry.skip = [5, 0] ∧ h.pc = 0x1004 ∧ h.lpc = 0x2018 ∧ h.getC 0x5C5 = 0 := by
  decide +kernel
theorem test_mret : let t := after (exec .mret (trapCur (one { user with csr := [(0x300, 8)] }) brk))
    pcOf t = 0x1000 ∧ (curHart t).priv = .u ∧ bitsOf ((curHart t).getC 0x300) 3 1 = 1 := by decide +kernel
theorem test_sret : let t := after (exec .sret (trapCur (one guestS) brk))
    pcOf t = 0x1000 ∧ (curHart t).priv = .s ∧ (curHart t).virt = true := by decide +kernel
end System

section Masks
def gm : Hart := { g1 with m := [(3, 0xF0), (4, 0x3C)], em := 0xFF }
def sm : State := one gm
/-- Bound limbs of 4 with every lane active. -/
def gl : Hart := { gm with limbs := 4, em := BitVec.allOnes 128, msp := 1, mstk := [(0, 0xF)] }
theorem whole_em : Whole 4 (BitVec.allOnes 128) := Or.inr (fun j _ h => by
  obtain ⟨_, i, hi, g⟩ := h
  rw [BitVec.getLsbD_allOnes] at g
  have := of_decide_eq_false g; omega)
theorem witness_Masks : IsGroup sm ∧ MaskWrite sm 5 (.mand 5 3 4) (ms sm 3 &&& ms sm 4) gm ∧ MaskWrite sm 5 (.mnot 5 3) (~~~(ms sm 3)) gm ∧
    MaskWrite sm 5 (.msetx 5 10 0) (lowHalf (ms sm 5) (xs sm 10)) gm ∧ MaskWrite sm 5 (.msetx 5 10 1) (highHalf (ms sm 5) (xs sm 10)) gm ∧
    (curHart (one gl)).msp ≠ 0 ∧ (0#5).toNat < (curHart (one gl)).msp ∧ Whole 0 (ms sm 3) ∧ Whole 4 (curHart (one gl)).em ∧
    (ms sm 3).getLsbD 4 = true ∧ (∀ l < 4, (ms sm 3).getLsbD l = false) ∧ ms sm 6 = 0 ∧
    ([Instr.mand 5 3 4, .mnot 5 3, .msetx 5 10 1, .mpop 5, .mpeek 5 0, .mgetx 5 3 1].all Instr.wellFormed) = true :=
  ⟨rfl, .two (e := (.mand, fun a b => a &&& b)) (by simp [maskTable2]) 3 4, .one (e := (.mnot, fun a => ~~~a)) (by simp [maskTable1]) 3,
   .setLow 10, .setHigh 10, by decide +kernel, by decide +kernel, Or.inl rfl, whole_em, by decide +kernel⟩
theorem test_mask_ops : (curHart (after (exec (.mandn 5 3 4) sm))).getM 5 = 0xC0 ∧ (curHart (after (exec (.mxor 15 3 4) sm))).em = 0xCC ∧
    x (after (exec (.mcnt 5 3) sm)) 5 = 4 ∧ x (after (exec (.mfirst 5 3) sm)) 5 = 4 ∧ x (after (exec (.mfirst 5 6) sm)) 5 = 128 := by
  decide +kernel
theorem test_msetx_high : (curHart (after (exec (.msetx 3 11 1) sm))).getM 3 = 0x500000000000000F0 := by decide +kernel
/-- A write of EM that leaves segment 1 partly active. -/
theorem witness_EmAndStack : MaskWrite (one gl) 15 (.mmov 15 4) (ms (one gl) 4) gl ∧ gl.limbs ≠ 0 ∧ Mixed 4 (ms (one gl) 4) 0 ∧
    (∀ k < 0, ¬ Mixed 4 (ms (one gl) 4) k) ∧ (curHart sm).msp < 16 ∧ 16 ≤ (curHart (one { gm with msp := 16 })).msp ∧ (curHart sm).msp = 0 ∧
    (curHart (one gl)).msp ≤ (1#5).toNat ∧ ([Instr.mmov 15 4, .mpush 3, .mpoke 0 3].all Instr.wellFormed) = true :=
  ⟨.one (e := (.mmov, fun a => a)) (by simp [maskTable1]) 4, by decide, by unfold Mixed; decide +kernel, by intro k hk; omega,
   by decide +kernel⟩
theorem test_em_partial : let h := curHart (after (exec (.mmov 15 4) (one gl)))
    h.getC 0x342 = 27 ∧ h.getC 0x343 = 0 ∧ h.em = BitVec.allOnes 128 ∧ bitsOf (h.getC 0x5C0) 8 8 = 0 := by decide +kernel
theorem test_mask_stack : (curHart (after (exec (.mpush 3) (one gl)))).getS 1 = 0xF0 ∧
    (curHart (after (exec (.mpop 5) (one gl)))).getM 5 = 0xF ∧
    (curHart (after (exec (.mpop 5) sm))).getC 0x342 = 28 ∧ (curHart (after (exec (.mpush 5) (one { gm with msp := 16 })))).getC 0x343 = 16 := by
  decide +kernel
end Masks

section LaneStream
/-- Two lane instructions at 0x2000: the FFMA and the IADD of 05 R136's example. -/
def lanePutter : Mem := writeBytes { open_ := [(0, true)] } (.mem 0x2000)
  (leBytes 12 0x00007008030C005010082023 ++ leBytes 12 0x000003E8023E000020090080)
def sl : State := { one { g1 with lpc := 0x2000 } with mem := lanePutter }
theorem witness_Batches : IsGroup sl ∧ (Instr.lrun 2).wellFormed = true ∧ batchHeld sl sl.cur (curHart sl) 2 (curHart sl).lpc = false ∧
    regQueued (curHart sl) 11 = false ∧ (curHart sl).laneQ.length + (2#12).toNat ≤ 64 ∧ capturesQueued (curHart sl) (batchOf sl 2) = false ∧
    (xs (one { g1 with x := [(11, 2)] }) 11).toNat = 2 ∧ (curHart sl).laneQ = [] ∧ 64 < (xs sl 10).toNat ∧ xs sl 0 = 0 ∧
    ((fetchLane sl (curHart sl) 0x2000).toOption.isSome && (fetchLane sl (curHart sl) 0x200C).toOption.isSome) = true ∧
    (fetchLane sl (curHart sl) 0x8300000000).toOption.isNone = true := by unfold IsGroup; decide +kernel
/-- An instruction whose first source is x10, as the batch captures it (05 R131). -/
theorem witness_Capture : let w : LaneWords := 0x00007008030C405010082023
    w.extractLsb' 46 2 = 1#2 ∧ fieldX g1 w 26 = g1.getX (w.extractLsb' 26 5) := ⟨rfl, rfl⟩
theorem test_batch_fault : (batchEntries sl g1 0x1000 2 0x8300000000).map (fun e => e.bad.isSome) = [true] := by decide +kernel
theorem test_lrun : let h := curHart (after (exec (.lrun 2) sl))
    h.laneQ.map LaneEntry.word = [0x00007008030C005010082023, 0x000003E8023E000020090080] ∧ h.lpc = 0x2018 ∧
      h.laneQ.map LaneEntry.rem = [2, 1] := by decide +kernel
theorem test_lrunr_bounds : (curHart (after (exec (.lrunr 10) sl))).getC 0x342 = 2 ∧ (curHart (after (exec (.lrunr 0) sl))).laneQ = [] := by
  decide +kernel
theorem test_lpc : (curHart (after (exec (.lpc 0xFFF 10) sl))).lpc = 0x1FFC := by decide +kernel
end LaneStream

section Synchronise
/-- A guest's user group of workgroup 1 in launch 1, whose window's first bank is on its own tile; x13 points into it. -/
def gw : Hart := { grp with priv := .u, virt := true, pid := 0, lkey := 1, wg := 1, x := [(10, 0x2000), (11, 5), (12, 0xFFFFFFFFFFFFFFFD), (13, 0x40000000), (14, 8)] }
def wg1 : Wg := { lkey := 1, pid := 0, size := 2, nbars := 3, bars := [(2, { expected := 2 })], bankCount := 1, members := [(0, 0), (1, 1)] }
def l1 : Launch := { pid := 0, virt := true, swbase := 0x40000000, placed := true, kernels := [{}], gbarn := 1,
                     gbars := [(0, { expected := 2 })], liveWgs := 1, compl := .win 0x10, mbox := .win 0x14, cmdw := .win 0x18 }
def sw : State :=
  { one gw with harts := [(0, gw), (1, { gw with slot := 1, rank := 1 })], parts := [(0, part0)], launches := [(1, l1)], wgs := [(1, wg1)], nextLaunch := 2, nextWg := 2,
                bankOwner := [(0, 1)], mem := { open_ := [(0, true)], scratch := [(0, 7#8)], bytes := [(0x2000, 3#8)] } }
/-- The same with its first window word empty. -/
def swE : State := withMem sw (fun m => { m with empty := [(0, true)] })
/-- A load of the second group is parked on that word. -/
def swP : State := { withMem swE (fun m => { m with parks := [{ agent := 1, rd := 6, loc := .win 0, va := 0x40000000, since := 4000 }] }) with
  harts := [(0, gw), (1, { gw with slot := 1, rank := 1, run := .waitSync, wait := .fullEmpty })] }
theorem feFree_iff {s : State} {l : Loc} : FeFree s l ↔ Quiet s ∧ (curHart s).run ≠ .stopped ∧ heldWrite s s.cur l 4 = false ∧
    dropped s (curHart s).actsFor (curHart s).tile l = false ∧ synchronises l = true := by
  unfold FeFree Routed; rw [synchronises_iff]
theorem none_parked {s : State} {l : Loc} (h : s.mem.parks = []) : NoneParked s l := fun p hp => by rw [h] at hp; cases hp
theorem witness_FullEmpty : ReachesAt sw .load .fe (xs sw 13 + sx 0) 4 ⟨.win 0, 2, none⟩ ∧ FeFree sw (.win 0) ∧ NoneParked sw (.win 0) ∧
    isFull sw.mem (.win 0) = true ∧ ReachesAt swE .store .fe (xs swE 13 + sx 0) 4 ⟨.win 0, 2, none⟩ ∧ FeFree swE (.win 0) ∧
    NoneParked swE (.win 0) ∧ isFull swE.mem (.win 0) = false ∧ parkCount swE.mem (parkOwner (.win 0)) < 256 ∧
    ReachesAt swP .store .fe (xs swP 13 + sx 0) 4 ⟨.win 0, 2, none⟩ ∧ FeFree swP (.win 0) ∧ swP.mem.parks.length = 1 ∧
    (hartAt swP 1).tasklet = false ∧ (hartAt swP 1).run ≠ .stopped ∧ (1 : Nat) ≠ swP.cur ∧ feRangeOk (.win 0) 8 = true ∧
    heldWrite sw sw.cur (.win 0) 8 = false ∧
    (xs sw 14).toNat % 4 = 0 ∧ (xs sw 11).toNat % 4 ≠ 0 := by
  simp only [reaches_iff, ReachesAt, feFree_iff, Quiet, NoneParked]; decide +kernel
theorem test_ldfe : let t := after (exec (.ldfe 5 13 0) sw)
    x t 5 = 7 ∧ isFull t.mem (.win 0) = false ∧ (curHart (after (exec (.ldfe 5 13 0) t))).run = .waitSync := by decide +kernel
theorem test_stef_full : (curHart (after (exec (.stef 13 11 0) sw))).wait = .fullEmpty ∧
    homeValue (after (exec (.stef 13 11 0) swE)) (.win 0) 4 = 5 := by decide +kernel
/-- The parked load of the second group takes the word that the first fills. -/
theorem test_fill_serves : let t := after (exec (.stff 13 11 0) swP)
    (hartAt t 1).getX 6 = 5 ∧ (hartAt t 1).pc = 0x1004 ∧ isFull t.mem (.win 0) = false ∧ t.mem.parks = [] := by decide +kernel
theorem test_feclr : let t := after (exec (.feclr 13 14) sw)
    isFull t.mem (.win 0) = false ∧ isFull t.mem (.win 4) = false ∧ isFull t.mem (.win 8) = true := by decide +kernel
/-- After an LRW of the first group, and with the second group as its caller then. -/
def sLrw : State := after (exec (.lrwW 5 10) sw)
def sLrw2 : State := { sLrw with cur := 1 }
/-- The second group waits for the first group's reservation. -/
def sLrw3 : State := { after (exec (.lrwW 5 10) sLrw2) with cur := 0 }
theorem witness_OrderedReservations : AnswersAt sw .load .lrw (xs sw 10) 4 ⟨.mem 0x2000, 0, none⟩ ∧ heldRead sw (.mem 0x2000) 4 = false ∧
    sw.mem.resvs = [] ∧ ReachesAt sLrw2 .load .lrw (xs sLrw2 10) 4 ⟨.mem 0x2000, 0, none⟩ ∧ sLrw2.mem.resvs.length = 1 ∧
    AnswersAt sLrw .store .lrw (xs sLrw 10) 4 ⟨.mem 0x2000, 0, none⟩ ∧ holdsResv sLrw.mem sLrw.cur 0x2000 4 = true ∧
    Writable sLrw sLrw.cur (.mem 0x2000) 4 ∧ holdsResv sw.mem sw.cur 0x2000 4 = false ∧
    sw.mem.resvs.length < 32 ∧ sLrw2.mem.resvs.map (fun q => (q.dword, q.holder.map Resv.agent, q.waiters.length)) = [(0x400, some 0, 0)] ∧
    AnswersAt sLrw3 .store .lrw (xs sLrw3 10) 4 ⟨.mem 0x2000, 0, none⟩ ∧ holdsResv sLrw3.mem sLrw3.cur 0x2000 4 = true ∧
    sLrw3.mem.resvs.map (fun q => q.waiters.length) = [1] := by
  simp only [AnswersAt, ReachesAt, reaches_iff, Routed, writable_iff]; decide +kernel
theorem test_lrw_sch : let t := after (exec (.schW 6 10 11) sLrw)
    x sLrw 5 = 3 ∧ x t 6 = 1 ∧ bytes t 0x2000 4 = 5 ∧ x (after (exec (.schW 6 10 12) t)) 6 = 0 := by decide +kernel
theorem test_lrw_waits : let t := after (exec (.lrwW 5 10) sLrw2)
    (hartAt t 1).wait = .lrw ∧ t.mem.resvs.map (fun q => q.waiters.map Resv.agent) = [[1]] := by decide +kernel
/-- The second group waits on the last phase of barrier 2, and of wire barrier 0. -/
def swB : State := { sw with harts := [(0, gw), (1, { gw with slot := 1, rank := 1, run := .waitSync, wait := .bar 2 false })],
                             wgs := [(1, { wg1 with bars := [(2, { expected := 2, arrived := 1 })] })] }
def swG : State := { sw with harts := [(0, gw), (1, { gw with slot := 1, rank := 1, run := .waitSync, wait := .gbar 0 false })] }
theorem witness_Barriers : IsGroup sw ∧ (2#5).toNat < (wgAt sw (curHart sw).wg).nbars ∧ 1 ≤ (xs sw 11).toNat ∧ (xs sw 11).toNat ≤ 16 ∧
    (barAt sw 2).arrived = 0 ∧ (barAt sw 2).copies = 0 ∧ (barAt sw 2).arrived ≠ (barAt sw 2).expected ∧
    (barAt { sw with wgs := [(1, { wg1 with bars := [(2, { expected := 0 })] })] } 2).expected = 0 ∧
    (wgAt sw (curHart sw).wg).nbars ≤ (3#5).toNat ∧ 16 < (xs sw 10).toNat ∧ (barAt sw 2).expected ≤ 16 ∧ Quiet sw ∧
    bitAt (xs sw 11) 0 ≠ (barAt sw 2).phase ∧ bitAt (xs sw 10) 0 = (barAt sw 2).phase ∧
    (0#5).toNat < (launchAt sw (curHart sw).lkey).gbarn ∧ bitAt (xs sw 11) 0 ≠ (gbarAt sw 0).phase ∧
    bitAt (xs sw 10) 0 = (gbarAt sw 0).phase ∧
    tfind (gbarAt sw 0).groups (1 * 16 + 0) = none ∧
    (tfind (gbarAt (after (exec (.gbarArrive 5 0) sw)) 0).groups (1 * 16 + 0)).isSome ∧
    ([Instr.barInit 2 11, .barInit 3 11, .barArrive 5 2, .barWait 2 11, .barQuery 5 2, .gbarArrive 5 0, .gbarWait 0 11].all
      Instr.wellFormed) = true ∧
    ((wgAt sw (curHart sw).wg).members.map Prod.snd).Nodup ∧ (sw.harts.map Prod.fst).Nodup ∧ ¬ WaitsOnBar sw 2 false sw.cur ∧
    ¬ WaitsOnGbar sw 0 false sw.cur ∧ (arrival (barAt swB 2)).phase ≠ (barAt swB 2).phase ∧ WaitsOnBar swB 2 false 1 ∧
    (hartAt swB 1).run ≠ .stopped ∧ WaitsOnGbar swG 0 false 1 := by
  refine ⟨rfl, ?_⟩
  unfold Quiet WaitsOnBar WaitsOnGbar; decide +kernel
/-- Two arrivals complete the phase: the second finds the count reset and the phase flipped. -/
theorem test_barrier : let t := after (exec (.barArrive 5 2) sw); let u := after (exec (.barArrive 5 2) { t with cur := 1 })
    x t 5 = 0 ∧ (barAt t 2).arrived = 1 ∧ (barAt u 2).arrived = 0 ∧ (barAt u 2).phase = true ∧
      pcOf (after (exec (.barWait 2 5) { u with cur := 0 })) = 0x1008 := by decide +kernel
theorem test_bar_releases : let h := hartAt (after (exec (.barArrive 5 2) swB)) 1
    h.run = .ready ∧ h.wait = .nothing ∧ h.pc = 0x1004 ∧ h.av = true := by decide +kernel
theorem test_bar_query : x (after (exec (.barQuery 5 2) sw)) 5 = 0x20000 ∧ (curHart (after (exec (.barInit 3 11) sw))).getC 0x342 = 50 := by
  decide +kernel
theorem test_gbar : let t := after (exec (.gbarArrive 5 0) sw); let u := after (exec (.gbarArrive 5 0) { t with cur := 1 })
    (gbarAt t 0).arrived = 0 ∧ (gbarAt u 0).arrived = 1 ∧ (curHart (after (exec (.gbarArrive 5 0) t))).getC 0x343 = 16 := by decide +kernel
theorem test_fence_s : pcOf (after (exec (.fenceS 3 2) sw)) = 0x1004 ∧ (curHart (after (exec (.fenceS 1 2) sw))).av = true ∧
    (curHart (after (exec (.fenceS 2 2) sw))).av = false := by decide +kernel
end Synchronise

section Work
def swF : State := { sw with easels := [(0, { resident := List.replicate 32 {} })] }
/-- A launch that has given every identifier away. -/
def swI : State := { sw with launches := [(1, { l1 with wgidCtr := 0xFFFFFFFF })] }
theorem witness_Work : MayLaunch sw ∧ (xs sw 10).toNat % 64 = 0 ∧
    ((readDwords sw.cur 16 sw (xs sw 10)).toOption.bind Prod.snd).isSome = true ∧ IsGroup s1 ∧ ¬ MayLaunch s1 ∧
    (xs sw 11).toNat % 64 ≠ 0 ∧ InLaunch sw ∧
    (myLaunch sw).kernels.length ≤ (1#7).toNat ∧ (0#7).toNat < (myLaunch sw).kernels.length ∧ (myLaunch sw).wgidCtr ≠ 0xFFFFFFFF ∧
    EaselRoom sw ∧ AnswersAt sw .store .join (xs sw 10) 8 ⟨.mem 0x2000, 0, none⟩ ∧ Writable sw sw.cur (.mem 0x2000) 8 ∧ xs sw 0 = 0 ∧
    freeEntries swF (myLaunch swF).pid (curHart swF).tile ≤ reservedOn swF (curHart swF).tile ∧
    AnswersAt sw .load .join (xs sw 10 + sx 0) 8 ⟨.mem 0x2000, 0, none⟩ ∧ heldRead sw (.mem 0x2000) 8 = false ∧
    homeValue sw (.mem 0x2000) 8 ≠ 0 ∧ homeValue sw (.mem 0x2008) 8 = 0 ∧
    (curHart s1).priv ≠ .u ∧ (curHart sw).priv = .u ∧ (myLaunch swI).wgidCtr = 0xFFFFFFFF ∧ InLaunch swI := by
  simp only [MayLaunch, InLaunch, IsGroup, EaselRoom, AnswersAt, ReachesAt, reaches_iff, Routed, writable_iff]; decide +kernel
theorem test_launch : let t := after (exec (.launch 5 10) sw)
    ((partAt t 0).seqQ.map SeqEntry.rd) = [5] ∧ (curHart t).wait = .launch 5 ∧
      (curHart (after (exec (.launch 5 10) s1))).getC 0x342 = 2 := by decide +kernel
theorem test_fork : let t := after (exec (.fork 5 11 10 0) sw)
    x t 5 = 0 ∧ bytes t 0x2000 8 = 4 ∧ (easelAt t 0).resident.map EaselEntry.arg = [5] ∧ (myLaunch t).liveWgs = 2 ∧
      x (after (exec (.fork 5 11 10 1) sw)) 5 = 16 ∧ x (after (exec (.fork 5 11 0 0) swF)) 5 = 18 := by decide +kernel
theorem test_join : (curHart (after (exec (.join 0 10) sw))).wait = .join 0x2000 ∧ pcOf (after (exec (.join 8 10) sw)) = 0x1004 := by
  decide +kernel
theorem test_exit : (curHart (after (exec .exit sw))).wait = .exit false ∧ (curHart (after (exec .exitPark sw))).getC 0x342 = 2 ∧
    (curHart (after (exec .yield sw))).yieldTo = some 5016 := by decide +kernel
/-- Group 0 with a reply word in its window: x13. -/
def swT : State := { sw with harts := sw.harts ++ [(40000, { tsk with pid := 0, virt := true, tile := 0, x := [(1, 9)], reply := some 0x40000004 })],
                             cur := 40000, launches := [(1, { l1 with liveTasks := 1 })] }
theorem witness_Tasklets : InLaunch sw ∧ Quiet sw ∧ sw.nextTask ≠ sw.cur ∧ Routed sw (.mem 0x2000) ∧
    (match taskletTarget sw (curHart sw) (xs sw 10) with
      | .ok (_, pa) => pa == 0x2000 && homeRoom sw (homeOf pa) (curHart sw).pid
      | .error _ => false) = true ∧ replyCheck sw (curHart sw) (xs sw 13) = none ∧ (replyCheck sw (curHart sw) (xs sw 10)).isSome ∧
    (curHart swT).tasklet = true ∧ MayRun swT [1] ∧ NoTrace swT ∧ windowOff swT (curHart swT).lkey 0x40000004 = some 4 ∧
    windowOk swT (curHart swT).lkey 4 4 = true ∧ heldWrite swT swT.cur (.win 4) 4 = false ∧ NoneParked swT (.win 4) ∧
    (curHart (one tsk)).reply = none ∧
    ¬ ((11#5).toNat < 11 ∧ (0#5).toNat < 11) := by
  unfold InLaunch IsGroup Quiet Routed MayRun NoTrace NoneParked; decide +kernel
theorem witness_GroupOnly : GroupOnly 0x0080000B ∧ GroupOnly 0x0422F02B ∧ GroupOnly 0x000502DB ∧
    GroupOnly 0x0030207B := by unfold GroupOnly; decide
theorem test_callat : let t := after (exec (.callat 10 11 13) sw); let k := hartAt t 32768
    k.pc = 5 ∧ k.getX 1 = 0x2000 ∧ k.getX 2 = 5 ∧ k.getX 5 = 8 ∧ k.reply = some 0x40000000 ∧ (myLaunch t).liveTasks = 1 ∧
    pcOf t = 0x1004 := by
  decide +kernel
theorem test_reply : let t := after (exec (.reply 1) swT)
    homeValue t (.win 4) 4 = 9 ∧ isFull t.mem (.win 4) = true ∧ (tfind t.harts 40000).isNone ∧
    (launchAt t 1).liveTasks = 0 := by decide +kernel
theorem test_tasklet_illegal : let t := after (exec (.add 11 1 1) swT)
    (tfind t.harts 40000).isNone ∧ (launchAt t 1).ttrap = true ∧
    (tfind (after (exec (.lrun 1) swT)).harts 40000).isNone := by decide +kernel
end Work

section Engines
/-- x10 = 0x2000 in main memory, x11 = a linear shape of 64 bytes, x12 = the window. -/
def sC : State := withMem { sw with harts := [(0, { gw with x := [(10, 0x2000), (11, 0x1000040), (12, 0x40000000), (15, 0x1000041)] })] }
  (fun m => { m with open_ := [(0, true)] })
theorem witness_Copies : IsGroup sC ∧ CopyLegal sC 0 10 12 11 ∧ ¬ CopyLegal sC 0 10 12 15 ∧
    copyRegion sC (curHart sC) 0 (xs sC 10) (xs sC 12) (xs sC 11) = none ∧
    (copyRegion sC (curHart sC) 1 (xs sC 10) (xs sC 10) (xs sC 11)).isSome ∧ (2#5).toNat < (wgAt sC (curHart sC).wg).nbars ∧
    QueueRoom sC 0 ∧ Quiet sC := by
  unfold IsGroup CopyLegal QueueRoom Quiet; decide +kernel
theorem test_cpy : let t := after (exec (.cpy 2 10 12 11) sC)
    (copyAt t (clusterOf 0 * 64)).bar = 2 ∧ (barAt t 2).copies = 1 ∧ (curHart (after (exec (.cpy 5 10 12 11) sC))).getC 0x342 = 50 ∧
      (curHart (after (exec (.cpy 2 10 12 15) sC))).getC 0x342 = 2 := by decide +kernel
/-- A copy to main memory drops its core's copy of the line that it will write, and one to the window drops none (14 R327). -/
theorem test_cpy_drops : let s := withMem sC (fun m => { m with copies := [{ line := 0x80 }, { line := 0x81 }] })
    (after (exec (.cpy 2 12 10 11) s)).mem.copies.map SCopy.line = [0x81] ∧ (after (exec (.cpy 2 10 12 11) s)).mem.copies.length = 2 := by
  decide +kernel
/-- The same with forty copies of the core in the queue. -/
def sFull : State := { sC with copies := (List.range 40).map (fun i => (i, {})) }
theorem witness_CopyWaits : (∀ j, ¬ QueueRoom sFull j) ∧ (curHart (after (exec (.cpy 2 10 12 11) sFull))).wait = .copyQueue ∧
    ([Instr.cpy 2 10 12 11, .cpyRs 2 10 12 11, .cpyPf 2 10 11, .mld 1 0 0, .accGet 4, .lbind 4].all Instr.wellFormed) = true := by
  refine ⟨fun j h => ?_, by decide +kernel⟩
  have g : ((clusterCopies sFull (clusterOf (curHart sFull).tile)).filter (fun e => e.2.tile == (curHart sFull).tile)).length = 40 := by
    decide +kernel
  exact absurd h.2 (by rw [g]; decide)
/-- A workgroup that owns weight slots 0 and 1, two rows of s8 in its bank, and two tile names. -/
def gAcc : Hart := { gw with accQuota := 2, accState := [(3, 1)], acc := [(3 * 1024, 7)] }
def sAcc : State := { sw with harts := [(0, gAcc)] }
theorem witness_Tiles : IsGroup sAcc ∧ AccIdle sAcc 3 ∧ AccIdle sAcc 4 ∧ accSt (curHart sAcc) 3 ≠ 0 ∧ accSt (curHart sAcc) 4 = 0 ∧
    boundNames (curHart sAcc) < (curHart sAcc).accQuota ∧ accSt (curHart sw) 3 = 0 ∧ (curHart sw).accQuota ≤ boundNames (curHart sw) ∧
    (curHart sAcc).accQuota ≤ 16 := by
  unfold IsGroup AccIdle; decide +kernel
theorem test_acc : let t := after (exec (.accGet 4) sAcc); let u := after (exec (.accPut 3) t)
    accSt (curHart t) 4 = 1 ∧ getAcc (curHart t) 3 0 0 = 7 ∧ accSt (curHart u) 3 = 0 ∧ getAcc (curHart u) 3 0 0 = 0 ∧
      (curHart (after (exec (.accZero 5) t))).getC 0x342 = 48 ∧ x (after (exec (.accQuery 5) t)) 5 = 0x0E0200000140 := by decide +kernel
theorem witness_Limbs : IsGroup (one gl) ∧ Whole (4#12).toNat (curHart (one gl)).em ∧ Mixed (16#12).toNat (curHart sm).em 0 :=
  ⟨rfl, whole_em, by unfold Mixed; decide +kernel⟩
theorem test_lbind : (curHart (after (exec (.lbind 4) sm))).limbs = 4 ∧ (curHart (after (exec (.lbind 16) sm))).getC 0x342 = 27 ∧
    pcOf (after (exec (.mark 677) sm)) = 0x1004 := by decide +kernel
/-- The group's tile has bank 0 described as 64 columns of s8, and slot 1 is its workgroup's. -/
def sMld : State := { sw with wslots := [(wslotKey 0 0 1, { owner := 1 })], pal := [(0, 0x86)] }
theorem witness_WeightLoad : IsGroup sMld ∧ mldCheck sMld (curHart sMld) (wgAt sMld (curHart sMld).wg) 1 (xs sMld 0 + sx 0) = none ∧
    (mldCheck sMld (curHart sMld) (wgAt sMld (curHart sMld).wg) 0 (xs sMld 0 + sx 0)).isSome ∧ Quiet sMld ∧ sMld.copies = [] ∧
    sMld.mem.inits = [] ∧
    ∀ b ∈ mldSpans (palAt sMld (curHart sMld).tile (ownBank (wgAt sMld 1) 0)) (wgAt sMld 1) 0, Routed sMld b.1 := by
  unfold IsGroup Quiet Routed; decide +kernel
/-- Row 0 begins with the byte 7; slot 0 is not the workgroup's. -/
theorem test_mld : let t := after (exec (.mld 1 0 0) sMld); let w := wslotAt t (wslotKey 0 0 1)
    w.loaded = true ∧ w.fmt = 6 ∧ (w.ints.getD 0 []).take 2 = [7, 0] ∧ w.ints.length = 64 ∧
      (curHart (after (exec (.mld 0 0 0) sMld))).getC 0x342 = 49 := by decide +kernel
end Engines

section Lanes
/-- An unconditional L form of every lane of EM. -/
def lf (fn ty : BitVec 4) (vd sa sb : BitVec 10) (ka kb : BitVec 2) (mod : BitVec 20 := 0) (sc : BitVec 10 := 0) (kc : BitVec 2 := 0) : LaneL :=
  { base := { mod4 := 0, yl := 0, st := 0, mn := 0, ms := 15, kb := kb, ka := ka, sb := sb, sa := sa, vd := vd, ty := ty, fn := fn },
    mod20 := mod, kc := kc, sc := sc }
def jf (fn ty : BitVec 4) (vd sa : BitVec 10) (ka : BitVec 2) (imm : Word) (kb : BitVec 2 := 2) : LaneJ :=
  { base := { mod4 := 0, yl := 0, st := 0, mn := 0, ms := 15, kb := kb, ka := ka, sb := 0, sa := sa, vd := vd, ty := ty, fn := fn }, imm := imm }
def col (r : Nat) (ws : List Word) : Table Word := (List.range ws.length).map (fun l => (r * 128 + l, ws.getD l 0))
/-- Three active lanes; v1, v2 and v5 to v7 hold integers, v3 and v4 f32 numbers. -/
def gv : Hart := { g1 with
  em := 7, m := [(3, 5)], iss := { lpc := 0x2000, pc := 0x1000, rem := 1, capA := 0x2000, capB := 2 },
  v := col 1 [7, 0xFFFFFFFB, 0x80000000] ++ col 2 [3, 2, 0xFFFFFFFF] ++ col 3 [0x3F800000, 0x40000000, 0x40400000] ++
    col 4 [0x3F000000, 0xBF800000, 0x40400000] ++ col 5 [0x01FF7F80, 0, 0] ++ col 6 [0, 4, 8] ++ col 7 [1, 1, 2] }
def sv : State := { s2 with harts := [(0, gv)] }
/-- The word of a register's lane once an instruction's result is written. -/
def word (o : Host.Outcome State Fault Refusal) (r l : Nat) : Word := (landAll (curHart (after o))).getV r l
def words (o : Host.Outcome State Fault Refusal) (r : Nat) : List Word := [word o r 0, word o r 1, word o r 2]
/-- What LaneGo asks, of rows of opcode, plan and instruction in L form or in J form. -/
def goL (s : State) (rows : List (Nat × (LaneOp → Plan) × LaneL)) : Prop := ∀ e ∈ rows, LaneGo s (lOp e.1 e.2.2) (e.2.1 (lOp e.1 e.2.2))
def goJ (s : State) (rows : List (Nat × (LaneOp → Plan) × LaneJ)) : Prop := ∀ e ∈ rows, LaneGo s (jOp e.1 e.2.2) (e.2.1 (jOp e.1 e.2.2))
theorem witness_IntegerLanes :
    goL sv [(0x00, addPlan, lf 0 0 10 1 2 0 0), (0x00, addPlan, lf 0 7 10 1 2 0 0 8), (0x01, addPlan, lf 1 0 10 2 4 0 0),
      (0x02, mulPlan, lf 1 1 10 1 2 0 0), (0x05, minPlan, lf 0 1 10 1 2 0 0), (0x08, shiftPlan, lf 0 1 10 1 2 0 0),
      (0x0B, logicPlan, lf 0 1 10 1 2 0 0), (0x0E, lop3Plan, lf 0 1 10 1 2 0 0 0xE800 7), (0x0F, onePlan, lf 0 1 10 1 0 0 0)] ∧
    goJ sv [(0x80, addPlan, jf 0 0 10 1 0 7), (0x82, mulPlan, jf 0 0 10 1 0 7), (0x86, minPlan, jf 0 0 10 1 0 7),
      (0x8A, shiftPlan, jf 0 0 10 1 0 7), (0x8D, logicPlan, jf 0 1 10 1 0 7), (0x83, mulhPlan, jf 0 0 10 1 0 7)] ∧
    goJ sv [(0x80, addPlan, jf 1 0 10 2 0 7), (0x81, addPlan, jf 1 0 10 2 0 7), (0x82, mulPlan, jf 1 1 10 1 0 7)] ∧
    goL sv [(0x11, bfePlan, lf 0 0 10 1 7 0 0 0 2), (0x12, fun x => { bfePlan x with vread := true }, lf 0 1 10 1 7 0 0 0 2),
      (0x03, mulhPlan, lf 1 0 10 1 2 0 0), (0x04, madPlan, lf 0 0 10 1 2 0 0 8 2), (0x04, madPlan, lf 1 0 10 1 2 0 0 0 4),
      (0x07, absPlan, lf 0 0 10 1 0 0 0 8)] := by unfold goL goJ LaneGo; decide +kernel
theorem test_iadd : words (exec (.iadd (lf 0 0 10 1 2 0 0)) sv) 10 = [10, 0xFFFFFFFD, 0x7FFFFFFF] ∧
    words (exec (.iadd (lf 0 0 10 1 2 0 0 8)) sv) 10 = [10, 0xFFFFFFFD, 0x80000000] := by decide +kernel
theorem test_iadd_packed : word (exec (.iaddJ (jf 0 7 10 5 0 0x01020304)) sv) 10 0 = 0x02018284 ∧
    word (exec (.iadd (lf 0 8 10 5 5 0 0 8)) sv) 10 0 = 0x02FFFEFF ∧
    word (exec (.isub (lf 0 9 10 5 1 0 0 8)) sv) 10 0 = 0x01FF7F79 := by decide +kernel
theorem test_imul_pair : words (exec (.imul (lf 1 0 10 1 2 0 0)) sv) 11 = [0, 0xFFFFFFFF, 0] ∧
    words (exec (.imul (lf 1 1 10 1 2 0 0)) sv) 11 = [0, 1, 0x7FFFFFFF] := by decide +kernel
/-- The 64-bit J forms: a pair of words beside an immediate that is extended to 64 bits. -/
theorem test_wide_j : words (exec (.isubJ (jf 1 0 10 2 0 4)) sv) 10 = [0xFFFFFFFF, 0xFFFFFFFE, 0xFFFFFFFB] ∧
    words (exec (.isubJ (jf 1 0 10 2 0 4)) sv) 11 = [0x3F7FFFFF, 0x3FFFFFFF, 0x40400000] := by decide +kernel
theorem test_imulh : words (exec (.imulh (lf 0 0 10 1 2 0 0)) sv) 10 = [0, 0xFFFFFFFF, 0] ∧
    words (exec (.imulh (lf 1 0 10 1 2 0 0)) sv) 10 = [0, 0xFFFFFFFF, 0x80000000] := by decide +kernel
theorem test_imad_sat : words (exec (.imad (lf 0 0 10 1 2 0 0 8 1)) sv) 10 = [28, 0xFFFFFFF1, 0] ∧
    words (exec (.iabs (lf 0 0 10 1 0 0 0 8)) sv) 10 = [7, 5, 0x7FFFFFFF] := by decide +kernel
theorem test_imin : words (exec (.imin (lf 0 0 10 1 2 0 0)) sv) 10 = [3, 0xFFFFFFFB, 0x80000000] ∧
    words (exec (.imaxJ (jf 0 1 10 1 0 8)) sv) 10 = [8, 0xFFFFFFFB, 0x80000000] := by decide +kernel
theorem test_shift : words (exec (.shl (lf 0 1 10 1 2 0 0)) sv) 10 = [56, 0xFFFFFFEC, 0] ∧
    words (exec (.sarJ (jf 0 0 10 1 0 33)) sv) 10 = [3, 0xFFFFFFFD, 0xC0000000] := by decide +kernel
theorem test_bits : words (exec (.popc (lf 0 1 10 1 0 0 0)) sv) 10 = [3, 31, 1] ∧
    words (exec (.clz (lf 0 1 10 5 0 0 0)) sv) 10 = [7, 32, 32] ∧
    words (exec (.laneXorJ (jf 0 1 10 1 0 0xF)) sv) 10 = [8, 0xFFFFFFF4, 0x8000000F] ∧
    words (exec (.lop3 (lf 0 1 10 1 2 0 0 0xE800 7)) sv) 10 = [3, 3, 0x80000002] := by decide +kernel
/-- Field of 2 or 3 bits from bit 1: 7 gives 3, signed 3 bits; −5 gives bits 2:1 = 01. -/
theorem test_bfe : words (exec (.bfe (lf 0 0 10 1 7 0 0 0 2)) sv) 10 = [3, 1, 0xE0000000] ∧
    words (exec (.bfi (lf 0 1 1 2 7 0 0 0 2)) sv) 1 = [7, 0xFFFFFFFD, 0xFFFFFFFC] := by decide +kernel
end Lanes

section LaneFloats
def minMaxPlan (x : LaneOp) : Plan := { floatPlan x with assigned := 0 }
def fmaPlan (x : LaneOp) : Plan := { floatPlan x with c := some anySrc }
theorem witness_FloatLanes :
    goL sv [(0x20, floatPlan, lf 0 2 10 3 4 0 0), (0x22, floatPlan, lf 0 4 10 3 4 0 0 0xF), (0x24, minMaxPlan, lf 0 2 10 3 4 0 0),
      (0x23, fmaPlan, lf 0 2 10 3 4 0 0 0 4), (0x28, sfuPlan, lf 0 2 10 3 0 0 0), (0x30, cvtPlan, lf 0 0 10 3 0 0 0 0x20),
      (0x31, qntPlan, lf 0 11 16 3 1 0 1), (0x32, dqtPlan, lf 0 2 16 1 2 0 0 0 1 0)] ∧
    goJ sv [(0xA1, floatPlan, jf 0 2 10 3 0 0x3F800000), (0xA5, minMaxPlan, jf 0 2 10 3 0 0)] := by unfold goL goJ LaneGo; decide +kernel
/-- The flags of a result that is not yet written: an infinity less itself is invalid, 1/0 divides by zero, 1/3 is inexact. -/
def flagged (s : State) : List (BitVec 5) := (curHart s).pend.map Pending.flags
def gInf : Hart := { gv with em := 1, v := [(128, 0x7F800000), (256, 0xFF800000), (512, 0), (640, 0x40400000)] }
theorem witness_Flags : IsInf fmtF32 0x7F800000 false ∧ IsInf fmtF32 0xFF800000 true ∧ IsZero fmtF32 0 ∧ fSnan fmtF32 0x7F800001 = true ∧
    ({ latency := 0 } : Pending).landed = false := ⟨by unfold IsInf; decide, by unfold IsInf; decide, ⟨false, _, rfl⟩, rfl, rfl⟩
theorem test_flags : let s := one gInf
    flagged (after (exec (.fadd (lf 0 2 10 1 2 0 0)) s)) = [16] ∧ flagged (after (exec (.frcp (lf 0 2 10 4 0 0 0)) s)) = [8] ∧
      flagged (after (exec (.frcp (lf 0 2 10 5 0 0 0)) s)) = [1] ∧
      (landAll (curHart (after (exec (.fadd (lf 0 2 10 1 2 0 0)) s)))).getC 0x803 = 16 := by decide +kernel
theorem test_fadd : words (exec (.fadd (lf 0 2 10 3 4 0 0)) sv) 10 = [0x3FC00000, 0x3F800000, 0x40C00000] ∧
    words (exec (.fsubJ (jf 0 2 10 3 0 0x3F800000)) sv) 10 = [0, 0x3F800000, 0x40000000] ∧
    words (exec (.fmul (lf 0 2 10 3 4 0 0)) sv) 10 = [0x3F000000, 0xC0000000, 0x41100000] := by decide +kernel
theorem test_ffma : words (exec (.ffma (lf 0 2 10 3 4 0 0 0 3)) sv) 10 = [0x3FC00000, 0, 0x41400000] ∧
    words (exec (.fmax (lf 0 2 10 3 4 0 0)) sv) 10 = [0x3F800000, 0x40000000, 0x40400000] ∧
    words (exec (.fminJ (jf 0 2 10 3 0 0x40000000)) sv) 10 = [0x3F800000, 0x40000000, 0x40000000] := by decide +kernel
theorem test_sfu : words (exec (.frcp (lf 0 2 10 4 0 0 0)) sv) 10 = [0x40000000, 0xBF800000, 0x3EAAAAAB] ∧
    words (exec (.fex2 (lf 0 2 10 3 0 0 0)) sv) 10 = [0x40000000, 0x40800000, 0x41000000] ∧
    word (exec (.flg2 (lf 0 2 10 3 0 0 0)) sv) 10 1 = 0x3F800000 ∧
    word (exec (.frsq (lf 0 2 10 3 0 0 0)) sv) 10 0 = 0x3F800000 := by decide +kernel
theorem test_cvt : words (exec (.cvt (lf 0 0 10 4 0 0 0 0x20)) sv) 10 = [0, 0xFFFFFFFF, 3] ∧
    word (exec (.cvt (lf 0 2 10 1 0 0 0 0)) sv) 10 1 = 0xC0A00000 := by decide +kernel
theorem test_fcmp : let h := landAll (curHart (after (exec (.fcmp (lf 2 2 4 4 3 0 0)) sv))); h.getM 4 = 3 := by decide +kernel
end LaneFloats

section LaneMoves
/-- A table of dispatch entries at 0x4000, of 4 entries, in the state. -/
def sDisp : State := { withMem sv (fun m => { m with bytes := m.bytes ++ [(0x4008, 0x77#8)] }) with
  harts := [(0, { gv with csr := [(0x805, 0x4000), (0x806, 4)], v := gv.v ++ col 8 [1, 9, 1] })] }
def dispF : LaneL := lf 0 1 0x54 7 0 0 0
def dispBad : LaneL := lf 0 1 0x54 8 0 0 0
theorem witness_MoveLanes :
    goL sv [(0x38, icmpPlan, lf 2 0 4 1 2 0 0), (0x39, fcmpPlan, lf 7 2 4 3 4 0 0), (0x3A, selPlan, lf 0 1 10 1 2 0 0 0x300),
      (0x40, movPlan, lf 1 1 10 10 0 1 0), (0x41, shflPlan, lf 1 1 10 1 11 0 1 0x1200), (0x42, bcstPlan, lf 0 1 10 1 11 0 1),
      (0x43, lredPlan, lf 0 0 5 1 0 0 0), (0x43, lredPlan, lf 0 2 5 3 0 0 0 1), (0x44, lscanPlan, lf 0 0 10 1 0 0 0 0x2000),
      (0x78, nopPlan, lf 0 0 0 0 0 0 0)] ∧
    goJ sv [(0xB8, icmpPlan, jf 5 1 4 1 0 9), (0xB9, fcmpPlan, jf 0 2 4 3 0 9), (0xC0, movPlan, jf 1 0 10 0 2 9 0)] ∧
    goL sDisp [(0x45, dispPlan, dispF), (0x45, dispPlan, dispBad)] := by unfold goL goJ LaneGo; decide +kernel
theorem test_icmp : (landAll (curHart (after (exec (.icmp (lf 2 0 4 1 2 0 0)) sv)))).getM 4 = 6 ∧
    (landAll (curHart (after (exec (.icmpJ (jf 5 1 4 1 0 9)) sv)))).getM 4 = 6 := by decide +kernel
theorem test_moves : words (exec (.sel (lf 0 1 10 1 2 0 0 0x300)) sv) 10 = [7, 2, 0x80000000] ∧
    words (exec (.movi (jf 1 0 10 0 2 0xFFFFFFFE 0)) sv) 11 = [0xFFFFFFFF, 0xFFFFFFFF, 0xFFFFFFFF] ∧
    words (exec (.shfl (lf 1 1 10 1 11 0 1 0x1000)) sv) 10 = [0, 0, 7] ∧
    words (exec (.shfl (lf 3 1 10 1 7 0 0 0)) sv) 10 = [0xFFFFFFFB, 7, 7] ∧
    words (exec (.bcst (lf 0 1 10 1 11 0 1)) sv) 10 = [0x80000000, 0x80000000, 0x80000000] := by decide +kernel
theorem test_lred : x (setCur sv (landAll (curHart (after (exec (.lred (lf 0 0 5 1 0 0 0)) sv))))) 5 = 0xFFFFFFFF80000002 ∧
    words (exec (.lscan (lf 0 0 10 1 0 0 0 0x2000)) sv) 10 = [0, 7, 2] := by decide +kernel
/-- Lanes 0 and 1 hold index 1, lane 2 another; index 9 is past the table. -/
theorem test_disp : let h := landAll (curHart (after (exec (.disp dispF) sDisp)))
    h.getX 5 = 0x77 ∧ h.getM 4 = 3 ∧ (curHart (after (exec (.disp dispBad) sDisp))).getC 0x342 = 29 ∧
      (curHart (after (exec (.disp dispBad) sDisp))).getC 0x343 = 9 := by decide +kernel
theorem held_none {s : State} {l : Loc} {n : Nat} (h : s.copies = []) (g : s.mem.inits = []) : heldRead s l n = false := by
  unfold heldRead ownedByCopy initBusy
  rw [h, g]; cases l <;> simp [tget]
theorem readable {s : State} {l : Loc} {n : Nat} (h : s.copies = [] ∧ s.mem.inits = []) (q : Quiet s ∧ bytesAt l = true)
    (r : ∀ o ∈ List.range (n + 1), Routed s (l.add o)) : Readable s l n :=
  ⟨q.1, holdsBytes_iff.mpr q.2, fun o _ c => ⟨held_none h.1 h.2, r o (List.mem_range.mpr (by omega))⟩⟩
theorem witness_Disp : Readable sDisp (.mem 0x4008) 8 ∧ locate (seenState sDisp (lOp 0x45 dispF) (dispPlan (lOp 0x45 dispF)))
    (dataCtx gv) gv.lkey false .load .scalar ((curHart sDisp).getC 0x805 + BitVec.ofNat 64 (8 * 1)) 8 = .ok ⟨.mem 0x4008, 0, none⟩ := by
  refine ⟨readable ⟨rfl, rfl⟩ ⟨⟨rfl, rfl⟩, rfl⟩ (by unfold Routed; decide +kernel), ?_⟩
  rw [ok_iff]; decide +kernel
end LaneMoves

section LaneAccess
theorem active_iff {s : State} {x : LaneOp} {p : Plan} {q : Nat → Prop} :
    (∀ l, active s x p l → q l) ↔ ∀ l ∈ lanesOf (laneActive (seen s x p) x), q l := by
  simp only [active, lanesOf, List.mem_filter, List.mem_range]
theorem lanesAt_iff {s : State} {x : LaneOp} {p : Plan} {acc : Acc} {cls : Cls} {n : Nat} {loc : Nat → Located} :
    LanesAt s x p acc cls n loc ↔ ∀ l ∈ lanesOf (laneActive (seen s x p) x),
      okAt (vaPlace (seenState s x p) (seen s x p) acc cls n (laneEa (seenState s x p) (seen s x p) x l)) (loc l) = true := by
  unfold LanesAt; rw [active_iff]; simp only [ok_iff]
theorem padsAt_iff {s : State} {x : LaneOp} {p : Plan} {acc : Acc} {pad : Nat → PadPlace} :
    PadsAt s x p acc pad ↔ ∀ l ∈ lanesOf (laneActive (seen s x p) x),
      okAt (padPlace (seenState s x p) (seen s x p) x acc (laneEo (seenState s x p) (seen s x p) x l)) (pad l) = true := by
  unfold PadsAt; rw [active_iff]; simp only [ok_iff]
/-- s16 loads from x-based addresses with the offsets of v6, and the stores of v1. -/
def ldF : LaneL := lf 0 9 10 10 6 1 0
def stF : LaneL := lf 0 9 1 10 6 1 0
def ldJf : LaneJ := jf 0 0 10 10 1 0
/-- The guest of an S page, in one lane. -/
def sOne : State := { sS with
  harts := [(0, { guest with em := 1, iss := gv.iss, v := gv.v })],
  mem := { sS.mem with copies := [{ holder := l1Holder 0, line := 0x80, words := [9], grant := 312, expiry := 376 }] } }
def sStale : State := { sOne with clk := 100000 }
/-- The workgroup's group, whose captured base is 0: its bank 0 holds 7 at offset 0, and converts to bf16. -/
def gPad : Hart := { gw with em := 7, v := gv.v, iss := { gv.iss with capA := 0 } }
def sPad : State := { sw with harts := [(0, gPad)] }
def sPal : State := { sPad with pal := [(0, 2)] }
def palF : LaneL := lf 0 2 10 10 7 1 0 0x500
theorem witness_LaneRead : Readable sv (.mem 0x2000) 2 :=
  readable ⟨rfl, rfl⟩ ⟨⟨rfl, rfl⟩, rfl⟩ (by unfold Routed; decide +kernel)
theorem witness_LaneMemory : goL sv [(0x50, loadPlan, ldF), (0x51, storePlan, stF)] ∧ goL sOne [(0x50, loadPlan, ldF)] ∧
    goJ sv [(0xD0, loadPlan, ldJf)] ∧ goL sPad [(0x52, fun x => padPlan x 0, ldF), (0x53, stsPlan, stF)] ∧
    goL sPal [(0x52, fun x => padPlan x 0, palF), (0x53, stsPlan, palF)] ∧ OneLane sOne (lOp 0x50 ldF) (loadPlan (lOp 0x50 ldF)) 0 ∧
    Routed sOne (.mem 0x2000) ∧ vaPlace (seenState sOne (lOp 0x50 ldF) (loadPlan (lOp 0x50 ldF)))
      (seen sOne (lOp 0x50 ldF) (loadPlan (lOp 0x50 ldF))) .load .lane 2 0x2000 = .ok ⟨.mem 0x2000, 1, none⟩ := by
  simp only [goL, goJ, LaneGo, OneLane, Routed, ok_iff]; decide +kernel
theorem witness_LanePlaces :
    LanesAt sv (lOp 0x50 ldF) (loadPlan (lOp 0x50 ldF)) .load .lane 2 (fun l => ⟨.mem (0x2000 + 4 * l), 0, none⟩) ∧
    LanesAt sv (lOp 0x51 stF) (storePlan (lOp 0x51 stF)) .store .lane 2 (fun l => ⟨.mem (0x2000 + 4 * l), 0, none⟩) ∧
    PadsAt sPad (lOp 0x52 ldF) (padPlan (lOp 0x52 ldF) 0) .load (fun l => { loc := .win (4 * l), bytes := 2 }) ∧
    PadsAt sPal (lOp 0x52 palF) (padPlan (lOp 0x52 palF) 0) .load (fun l => { loc := .win (if l = 2 then 4 else 2), fmt := 2, bytes := 2 }) ∧
    PadsAt sPal (lOp 0x53 palF) (stsPlan (lOp 0x53 palF)) .store (fun l => { loc := .win (if l = 2 then 4 else 2), fmt := 2, bytes := 2 }) := by
  simp only [lanesAt_iff, padsAt_iff]; decide +kernel
theorem test_lane_ld : words (exec (.laneLd ldF) sv) 10 = [0xFFFF80FF, 0, 0] ∧
    words (exec (.laneLdJ ldJf) sv) 10 = [0x80FF, 0x80FF, 0x80FF] := by
  decide +kernel
theorem test_lane_copies : word (exec (.laneLd ldF) sOne) 10 0 = 9 ∧ (curHart (after (exec (.laneLd ldF) sOne))).spec = [] ∧
    word (exec (.laneLd ldF) sStale) 10 0 = 9 ∧ ((curHart (after (exec (.laneLd ldF) sStale))).spec.map (fun w => w.lines.map SCopy.line)) = [[0x80]] := by decide +kernel
theorem test_lane_st : (after (exec (.laneSt stF) sv)).mem.net.map (fun r => (r.loc, r.size, r.data)) =
    [(.mem 0x2000, 2, 7), (.mem 0x2004, 2, 0xFFFB), (.mem 0x2008, 2, 0)] := by decide +kernel
theorem test_lds : words (exec (.lds ldF) sPad) 10 = [7, 0, 0] ∧ words (exec (.ldsJ ldJf) sPad) 10 = [7, 7, 7] ∧
    (after (exec (.sts stF) sPad)).mem.net.map (fun r => (r.loc, r.data)) = [(.win 0, 7), (.win 4, 0xFFFB), (.win 8, 0)] := by decide +kernel
/-- v10 of the palette form holds 0: a store of zeros as bf16; v3's 1.0 is 0x3F80 there. -/
theorem test_sts_pal : (after (exec (.sts (lf 0 2 3 10 7 1 0 0x500)) sPal)).mem.net.map (fun r => (r.loc, r.size, r.data)) =
    [(.win 2, 2, 0x3F80), (.win 2, 2, 0x4000), (.win 4, 2, 0x4040)] := by decide +kernel
end LaneAccess

section LaneAtomics
def feF : LaneL := lf 0 1 10 10 0 1 3 0x200
def gFe : Hart := { gw with em := 2, v := col 10 [5, 6], iss := { gv.iss with capA := 0x40000000 } }
def sFe : State := withMem { sw with harts := [(0, gFe)] } (fun m => { m with scratch := [(0, 7#8), (4, 9#8)] })
def sFeE : State := withMem sFe (fun m => { m with empty := [(1, true)] })
def sAmo : State := { s2 with harts := [(0, { gv with em := 1, iss := { gv.iss with capA := 0x2000, capC := 0x80FF } })] }
def amoF (fn ty : BitVec 4) (mod : BitVec 20) : LaneL := lf fn ty 10 10 0 1 3 mod 1 0
/-- Plans of LDFE and STEF, the same in both forms, and the group without an active lane. -/
def feLd (x : LaneOp) : Plan := fePlan gFe x true
def feSt (x : LaneOp) : Plan := fePlan gFe x false
def feJf : LaneJ := jf 0 1 10 10 1 4
def sFe0 : State := { sFe with harts := [(0, { gFe with em := 0 })] }
def redF : LaneL := lf 0 1 0 10 6 1 0 0 1 0
theorem witness_LaneFullEmpty : goL sFe [(0x54, feLd, feF)] ∧ goJ sFe [(0xD4, feLd, feJf)] ∧ goL sFeE [(0x56, feSt, feF)] ∧
    goJ sFeE [(0xD6, feSt, feJf)] ∧ goL sFe0 [(0x54, fun x => fePlan (curHart sFe0) x true, feF)] ∧
    laneActive (seen sFe0 (lOp 0x54 feF) (fePlan (curHart sFe0) (lOp 0x54 feF) true)) (lOp 0x54 feF) = 0 ∧
    OneLane sFe (lOp 0x54 feF) (feLd (lOp 0x54 feF)) 1 ∧ OneLane sFeE (jOp 0xD6 feJf) (feSt (jOp 0xD6 feJf)) 1 := by
  unfold goL goJ LaneGo OneLane; decide +kernel
theorem witness_FePlaces :
    vaPlace (seenState sFe (lOp 0x54 feF) (feLd (lOp 0x54 feF))) (seen sFe (lOp 0x54 feF) (feLd (lOp 0x54 feF))) .load .fe 4
      (laneEa sFe gFe (lOp 0x54 feF) 1) = .ok ⟨.win 4, 2, none⟩ ∧
    vaPlace (seenState sFeE (lOp 0x56 feF) (feSt (lOp 0x56 feF))) (seen sFeE (lOp 0x56 feF) (feSt (lOp 0x56 feF)))
      .store .fe 4 0x40000004 = .ok ⟨.win 4, 2, none⟩ ∧ FeFree sFe (.win 4) ∧ NoneParked sFe (.win 4) ∧ FeFree sFeE (.win 4) ∧
    isFull sFe.mem (.win 4) = true ∧ isFull sFeE.mem (.win 4) = false ∧ (curHart sFe).pend = [] := by
  simp only [ok_iff, feFree_iff, Quiet, NoneParked]; decide +kernel
theorem witness_LaneAtomics : goL sv [(0x58, pfPlan, lf 0 0 0 10 6 1 0), (0x61, redMemPlan, redF)] ∧
    goL sAmo [(0x60, amoPlan, amoF 0 1 0), (0x60, amoPlan, amoF 7 1 0)] ∧
    LanesAt sv (lOp 0x61 redF) (redMemPlan (lOp 0x61 redF)) .store .amo 4 (fun l => ⟨.mem (0x2000 + 4 * l), 0, none⟩) ∧
    OneLane sAmo (lOp 0x60 (amoF 0 1 0)) (amoPlan (lOp 0x60 (amoF 0 1 0))) 0 ∧
    vaPlace (seenState sAmo (lOp 0x60 (amoF 0 1 0)) (amoPlan (lOp 0x60 (amoF 0 1 0)))) (seen sAmo (lOp 0x60 (amoF 0 1 0))
      (amoPlan (lOp 0x60 (amoF 0 1 0)))) .store .amo 4 0x2000 = .ok ⟨.mem 0x2000, 0, none⟩ ∧
    Writable sAmo sAmo.cur (.mem 0x2000) 4 ∧ Routed sAmo (.mem 0x2000) := by
  simp only [goL, LaneGo, OneLane, lanesAt_iff, ok_iff, writable_iff, Routed]; decide +kernel
theorem test_lane_fe : let t := after (exec (.laneLdfe feF) sFe); let u := after (exec (.laneStef feF) sFeE)
    (curHart t).getV 10 1 = 9 ∧ isFull t.mem (.win 4) = false ∧ (curHart t).run = .ready ∧ (curHart t).laneFe.isNone ∧
      homeValue u (.win 4) 4 = 6 ∧ isFull u.mem (.win 4) = true := by decide +kernel
/-- The J forms of the loads and stores with a word that is ready, and an instruction without an active lane. -/
theorem test_lane_fe_j : let t := after (exec (.laneLdffJ feJf) sFe); let u := after (exec (.laneStefJ feJf) sFeE)
    let w := after (exec (.laneLdfe feF) sFe0)
    (curHart t).getV 10 1 = 9 ∧ (curHart u).run = .ready ∧ isFull u.mem (.win 4) = true ∧ (curHart w).laneFe.isNone ∧
      isFull w.mem (.win 4) = true := by decide +kernel
theorem test_red : (after (exec (.red redF) sv)).mem.net.map (fun r => (r.loc, r.red, r.data)) =
    [(.mem 0x2000, some .add, 7), (.mem 0x2004, some .add, 0xFFFFFFFB), (.mem 0x2008, some .add, 0x80000000)] := by decide +kernel
theorem test_amo : let t := after (exec (.amo (amoF 0 1 0)) sAmo); let u := after (exec (.amo (amoF 7 1 0)) sAmo)
    word (exec (.amo (amoF 0 1 0)) sAmo) 10 0 = 0x80FF ∧ bytes t 0x2000 4 = 0x8106 ∧ bytes u 0x2000 4 = 0x80FF ∧
      word (exec (.amo (amoF 7 1 0)) sAmo) 10 0 = 0x80FF := by decide +kernel
end LaneAtomics

section Matrix
/-- Every lane active, names 3 bound of a quota of 6, and a group of s8 words 1 in v1 to v8; slot 1 holds columns of twos. -/
def gX : Hart := { gw with em := BitVec.allOnes 128, accQuota := 6, accState := [(3, 1)], acc := [(3 * 1024, 7), (3 * 1024 + 129, 0x40A00000)],
                           v := [(128, 1), (128 * 2, 3), (128 * 20, 5)], iss := { lpc := 0x2000, pc := 0x1000, rem := 1, capA := 0x40000000, capB := 0x10 } }
def slotS8 : WSlot := { owner := 1, loaded := true, fmt := 6, ints := List.replicate 64 [2, 0, 0, 0, 4] }
def sX : State := { sw with harts := [(0, gX)], parts := [(0, { part0 with allow := 5 })], wslots := [(wslotKey 0 0 1, slotS8)] }
def sX0 : State := { sX with parts := [(0, { part0 with allow := 0 })] }
def sXu : State := { sX with wslots := [(wslotKey 0 0 1, { slotS8 with loaded := false })] }
def mmaF : LaneL := lf 0 7 4 1 0 0 0 0x500
/-- The element stores of name 3 by three lanes. -/
def gY : Hart := { gX with em := 7 }
def sY : State := { sX with harts := [(0, gY)] }
def accstF : LaneL := lf 0 0 3 10 11 1 1 0x100
def mmaNone (s : State) (f : LaneL) (x : LaneOp) : Plan := mmaPlan x (mmaMask s (lOp 0x68 f)) none
def mmaNo : LaneL := lf 0 7 4 1 0 0 0
theorem witness_Accumulators : goL sX [(0x69, accldPlan, lf 0 0 3 1 0 0 0), (0x6A, accrdPlan, lf 0 0 16 3 0 0 0), (0x68, mmaP sX, mmaF)] ∧
    goL sY [(0x6B, accstPlan, accstF)] ∧ goL sX0 [(0x68, mmaP sX0, mmaF)] ∧ goL sX [(0x68, mmaNone sX mmaNo, mmaNo)] ∧
    goL sXu [(0x68, mmaNone sXu mmaF, mmaF)] ∧ TilesReady gX [3] gX ∧ TilesReady gY [3] gY ∧
    TilesReady (seen sX (lOp 0x68 mmaF) (mmaP sX (lOp 0x68 mmaF)))
      ((quarters (laneActive (seen sX (lOp 0x68 mmaF) (mmaP sX (lOp 0x68 mmaF))) (lOp 0x68 mmaF))).map (fun q => opVd (lOp 0x68 mmaF) + q))
      ([4, 5, 6, 7].foldl (fun h n => setAccSt (clearAcc h n) n 1) gX) := by
  simp only [goL, LaneGo, TilesReady, ok_iff]; decide +kernel
theorem witness_Passes : MmaReady sX (lOp 0x68 mmaF) ∧ (partAt sX0 (curHart sX0).pid).allow = 0 ∧
    (mmaSlotOf sX (lOp 0x68 mmaNo)).owner ≠ (curHart sX).wg ∧ (mmaSlotOf sXu (lOp 0x68 mmaF)).owner = (curHart sXu).wg ∧
    (mmaSlotOf sXu (lOp 0x68 mmaF)).loaded = false ∧ mmaFmt (opTy (lOp 0x68 mmaF)) = 6 ∧ slotS8.fmt = 6 ∧ mmaCol (lOp 0x68 mmaF) < 2 := by
  unfold MmaReady; decide +kernel
theorem witness_AccstPlaces : ∀ i, i < 8 → ∀ l, active sY (lOp 0x6B accstF) (accstPlan (lOp 0x6B accstF)) l →
    vaPlace (setCur (seenState sY (lOp 0x6B accstF) (accstPlan (lOp 0x6B accstF))) gY) gY .store .amo 4
      (gY.iss.capA + BitVec.ofNat 64 i * gY.iss.capB + BitVec.ofNat 64 (l * 4)) = .ok ⟨.win (16 * i + 4 * l), 2, none⟩ := by
  simp only [active_iff, ok_iff]; decide +kernel
theorem test_accld : let h := curHart (after (exec (.accld (lf 0 0 3 1 0 0 0)) sX)); getAcc h 3 0 0 = 1 ∧ getAcc h 3 1 0 = 3 ∧
    getAcc h 3 1 1 = 0 := by
  decide +kernel
theorem test_accrd : let o := exec (.accrd (lf 0 0 16 3 0 0 0)) sX; word o 16 0 = 7 ∧ word o 17 1 = 0x40A00000 ∧ word o 17 0 = 0 := by
  decide +kernel
/-- Eight rows of three elements, the put pins the name. -/
theorem test_accst : let t := after (exec (.accst accstF) sY)
    t.mem.net.length = 24 ∧ (t.mem.net.getD 0 {}).data = 7 ∧ (t.mem.net.getD 3 {}).loc = .win 16 ∧ (t.mem.net.getD 4 {}).data = 0x40A00000 ∧
      accSt (curHart t) 3 = 2 := by decide +kernel
/-- Row 0 of quarter 0 is 1, 0, 0, 0, 3 at elements 0 and 4: the product with a column is 2 + 12; row 1 is 0. -/
theorem test_mma : let a := (mmaRow gX (lOp 0x68 mmaF) 0 0).1
    a.take 5 = [1, 0, 0, 0, 3] ∧ passS32 a [2, 0, 0, 0, 4] 5 = 19 ∧ passS32 (mmaRow gX (lOp 0x68 mmaF) 0 1).1 [2, 0, 0, 0, 4] 5 = 5 := by
  decide +kernel
theorem test_mma_traps : (curHart (after (exec (.mma mmaF) sX0))).getC 0x342 = 52 ∧
    (curHart (after (exec (.mma (lf 0 7 4 1 0 0 0)) sX))).getC 0x342 = 49 ∧
    bitsOf ((curHart (after (exec (.mma mmaF) sXu))).getC 0x5C0) 8 8 = 5 := by decide +kernel
end Matrix

section LimbChain
/-- Two bound segments of four limbs: 2^128 − 1 and 1 in v1, 1 and 2 in v2. -/
def gL : Hart := { gw with em := 0xFF, limbs := 4, m := [(5, 0x80)], iss := gv.iss,
                           v := col 1 [0xFFFFFFFF, 0xFFFFFFFF, 0xFFFFFFFF, 0xFFFFFFFF, 1] ++ col 2 [1, 0, 0, 0, 2] }
def sL : State := { sw with harts := [(0, gL)] }
def sLp : State := { sw with harts := [(0, { gL with em := 0xF7 })] }
def lim (vd a b : BitVec 10) (mod : BitVec 20) : LaneL := lf 0 1 vd a b 0 0 mod
/-- v2 += v1 × its own lowest limb, the carry into v20. -/
def lmacF : LaneL := lf 0 1 2 1 2 0 0 0 20
theorem whole_ff : Whole 4 0xFF := by unfold Whole Mixed; decide +kernel
def addLimbs (s : State) (x : LaneOp) : Plan := limbPlan s (limbAddPlan x)
def shiftLimbs (s : State) (x : LaneOp) : Plan := limbPlan s (limbShiftPlan x)
theorem witness_LimbChain : goL sL [(0x70, addLimbs sL, lim 10 1 2 0xF400), (0x71, addLimbs sL, lim 10 1 2 0x5F00),
      (0x72, shiftLimbs sL, lim 10 1 2 0), (0x73, shiftLimbs sL, lim 10 1 2 0), (0x75, fun x => limbPlan sL (lcmpPlan x), lim 4 1 2 0),
      (0x74, fun x => limbPlan sL (lmacPlan gL x), lmacF)] ∧
    goL sLp [(0x70, addLimbs sLp, lim 10 1 2 0xFF00), (0x72, shiftLimbs sLp, lim 10 1 2 0), (0x75, fun x => limbPlan sLp (lcmpPlan x), lim 4 1 2 0),
      (0x74, fun x => limbPlan sLp (lmacPlan (curHart sLp) x), lmacF)] ∧ Mixed 4 0xF7 0 ∧
    laneActive (seen sL (lOp 0x70 (lim 10 1 2 0xF400)) (addLimbs sL (lOp 0x70 (lim 10 1 2 0xF400)))) (lOp 0x70 (lim 10 1 2 0xF400)) = 0xFF := by
  unfold goL LaneGo Mixed; decide +kernel
/-- The statement names plans over bound limbs: two of those above. -/
theorem witness_LimbForms : limbForms.length = 6 ∧ addLimbs sLp (lOp 0x70 (lim 10 1 2 0xFF00)) = limbPlan sLp (limbAddPlan (lOp 0x70 (lim 10 1 2 0xFF00))) :=
  ⟨rfl, rfl⟩
/-- Words 0 to 3 of segment 0 and 4 of segment 1. -/
theorem test_ladd : let o := exec (.ladd (lim 10 1 2 0xF400)) sL
    words o 10 = [0, 0, 0] ∧ word o 10 4 = 3 ∧ (landAll (curHart (after o))).getM 4 = 8 ∧
      word (exec (.lsub (lim 10 1 2 0x5F00)) sL) 10 4 = 0xFFFFFFFE := by decide +kernel
theorem test_lshift : word (exec (.lshl (lim 10 1 2 0)) sL) 10 0 = 0xFFFFFFFE ∧ word (exec (.lshl (lim 10 1 2 0)) sL) 10 3 = 0xFFFFFFFF ∧
    word (exec (.lshr (lim 10 1 2 0)) sL) 10 3 = 0x7FFFFFFF := by decide +kernel
/-- v2 of segment 0 becomes 1 + (2^128 − 1) × 1: zero, with 1 above it. -/
theorem test_lmac : let o := exec (.lmac lmacF) sL; word o 2 0 = 0 ∧ word o 20 3 = 1 ∧ word o 20 0 = 0 ∧ word o 2 4 = 4 := by decide +kernel
theorem test_lcmp : (landAll (curHart (after (exec (.lcmp { (lim 4 1 2 0) with base := { (lim 4 1 2 0).base with fn := 2 } }) sL)))).getM 4 = 0x80 := by
  decide +kernel
theorem test_limb_diverge : (curHart (after (exec (.ladd (lim 10 1 2 0xFF00)) sLp))).getC 0x342 = 27 ∧
    (curHart (after (exec (.lshl (lim 10 1 2 0)) sLp))).getC 0x342 = 27 ∧ (curHart (after (exec (.lmac lmacF) sLp))).getC 0x342 = 27 := by
  decide +kernel
end LimbChain

section LaneChecks
/-- A float TY of IADD, which it does not accept: check 3; the same of its J form, a limb operation with no limbs bound, a full-empty form
of an unassigned TY, and HS and VS groups with such causes delegated to them. -/
def bad3 : LaneL := lf 0 2 10 1 2 0 0
def bad3J : LaneJ := jf 0 2 10 1 0 7
def badFe : LaneL := lf 0 2 10 10 0 1 3 0x200
def fails (s : State) (x : LaneOp) (p : Plan) : Prop := (curHart s).spec = [] ∧ (laneCheck (curHart s) x p).isSome = true
theorem witness_FailedChecks : fails sv (lOp 0x00 bad3) (addPlan (lOp 0x00 bad3)) ∧ fails sv (jOp 0x80 bad3J) (addPlan (jOp 0x80 bad3J)) ∧
    fails sv (lOp 0x70 (lim 10 1 2 0)) (addLimbs sv (lOp 0x70 (lim 10 1 2 0))) ∧
    fails sv (lOp 0x54 badFe) (fePlan gv (lOp 0x54 badFe) true) ∧ fails sv (jOp 0xD4 bad3J) (fePlan gv (jOp 0xD4 bad3J) true) ∧
    (addPlan (lOp 0x00 bad3)).tyOk = false ∧ laneCheck (curHart sv) (lOp 0x00 (lf 0 0 10 1 2 0 0)) (addPlan (lOp 0x00 (lf 0 0 10 1 2 0 0))) = none := by
  unfold fails; decide +kernel
def ill : Trap := { cause := 24 }
def asHs (virt : Bool) (hdel : DWord) : Hart :=
  { gv with priv := .s, virt := virt, csr := [(0x105, 0x5000), (0x205, 0x7000), (0x302, 0x1000000), (0x602, hdel)] }
theorem witness_LaneTraps : (Plain sv ∧ (curHart sv).priv = .m) ∧ ill.intr = false ∧ (curHart sv).spec = [] ∧
    (Plain (one (asHs false 0)) ∧ (asHs false 0).priv ≠ .m ∧ bitAt ((asHs false 0).getC 0x302) 24 = true) ∧
    (Plain (one (asHs true 0x1000000)) ∧ bitAt ((asHs true 0x1000000).getC 0x602) 24 = true ∧ (asHs true 0x1000000).virt = true) := by
  simp only [Plain, IsGroup, ownsNone_iff]; decide +kernel
theorem test_lane_trap_modes : let h := curHart (laneTrap (one (asHs false 0)) ill); let g := curHart (laneTrap (one (asHs true 0x1000000)) ill)
    (h.getC 0x141 = 0x1000 ∧ h.getC 0x5C3 = 0x2000 ∧ h.pc = 0x5000) ∧
      (g.getC 0x241 = 0x1000 ∧ g.getC 0x5C3 = 0 ∧ g.getC (bankKey true 0x5C3) = 0x2000 ∧ g.virt = true) := by decide +kernel
/-- Inactive lanes, and registers that the result does not name. -/
theorem test_inactive : let r := vectorResult (lOp 0x00 (lf 0 0 10 1 2 0 0)) (addPlan (lOp 0x00 (lf 0 0 10 1 2 0 0))) (some 4) 5 (fun l => ([BitVec.ofNat 32 l + 9], 0))
    let h := landOne gv r
    h.getV 10 0 = 9 ∧ h.getV 10 2 = 11 ∧ h.getV 10 1 = 0 ∧ h.getV 1 0 = 7 ∧ h.getV 9 2 = 0 := by decide +kernel
theorem test_lane_trap : let h := curHart (after (exec (.iadd bad3) sv))
    h.getC 0x342 = 24 ∧ h.getC 0x341 = 0x1000 ∧ h.getC 0x5C3 = 0x2000 ∧ h.getC 0x5C4 = 1 ∧ bitsOf (h.getC 0x5C0) 8 8 = 3 ∧
    h.lpc = 0x2000 := by
  decide +kernel
theorem test_out_of_range : let h := curHart (after (exec (.iadd (lf 0 0 32 1 2 0 0)) sv))
    h.getC 0x342 = 25 ∧ bitsOf (h.getC 0x5C0) 8 8 = 1 := by decide +kernel
end LaneChecks

section Bringup
def flash1 : Flash := { valid := true, version := 7, entry := 0x1000, image := [(0x1000, 0x13#8)] }
def sB (n : Nat) : State := { hub := { powered := true, stage := n, flash := flash1 } }
def boot (v : DWord) : Prop := bitAt v 63 = true ∧ BootFields v
/-- Tile 0, slot 1, VCNT 32, of the operator's partition and of partition 0, and fields that are out of range. -/
def bootV : DWord := 0x80000000F0200100
def sBoot : State := { one grp with parts := [(15, { part0 with rect := 0x01010000 })] }
theorem witness_Bringup : InStage (sB 1) 1 ∧ (sB 1).hub.recov = false ∧ (sB 1).hub.flash.valid = true ∧
    InStage { (sB 1) with hub := { (sB 1).hub with flash := {} } } 1 ∧ InStage (sB 2) 2 ∧ InStage (sB 3) 3 ∧ InStage (sB 4) 4 ∧
    s1.hub.powered = true ∧ ¬ (s1.hub.recov = true ∧ s1.hub.fwerr = 0) ∧
    boot bootV ∧ inPart sBoot (bitsOf bootV 28 4) (bitsOf bootV 0 8) = true ∧ inPart sBoot 0 0 = false ∧ boot 0x8000000000200100 ∧
    ¬ BootFields 0x8000000000000100 := by
  unfold InStage boot BootFields; decide +kernel
/-- A recovery before and after its partition resets: the image in host memory verifies, or it does not. -/
def sRec : State := { sB 1 with hub := { (sB 1).hub with recov := true, recBase := 0x1000, recLen := 64 } }
def sB3 : State := { sB 3 with parts := [(0, { valid := true, resetting := true })] }
theorem witness_Recovery : InStage sRec 1 ∧ sRec.hub.recov = true ∧ InStage sB3 3 ∧ (∃ e ∈ sB3.parts, e.2.resetting = true) ∧
    (∀ e ∈ (sB 3).parts, e.2.resetting = false) := by unfold InStage; decide +kernel
/-- The image in host memory verifies, or it does not: a free value decides. -/
theorem witness_HostImage : (hostFlash sRec).valid = true ∨ (hostFlash sRec).valid = false := by cases (hostFlash sRec).valid <;> simp
theorem witness_BootRoom : BootRoom sBoot bootV ∧ ¬ BootRoom sBoot 0x80000000F0200000 := by
  constructor
  · refine ⟨?_, by decide +kernel⟩
    intro h e
    have : tfind sBoot.harts (bootKey bootV) = none := by decide +kernel
    rw [this] at e; cases e
  · intro h
    have e : tfind sBoot.harts (bootKey 0x80000000F0200000) = some grp := by decide +kernel
    have := h.1 grp e; revert this; decide
theorem test_power_on : let t := after (exec .powerOn s1); t.hub.stage = 1 ∧ t.harts = [] ∧ t.clk = 0 := by decide +kernel
theorem test_bringup : let t := after (exec (.bringupStage 0) (sB 4)); t.hub.ready = true ∧ (hartAt t 0).pc = 0x1000 ∧
    (hartAt t 0).vcnt = 32 ∧
    (after (exec (.bringupStage 4) (sB 2))).hub.fwerr = 4 := by decide +kernel
/-- Stage 3 installs the operator's keys (18 R397). -/
theorem test_bringup_keys : (after (exec (.bringupStage 0) (sB 3))).parts.map (fun e => (e.1, e.2.keySlot0.isSome)) = [(15, true)] := by decide +kernel
theorem test_boot_group : let t := after (exec (.bootGroupAdmit bootV) { sBoot with hub := { sBoot.hub with bootPc := 0x3000, bootArg := 6 } })
    (hartAt t 1).pc = 0x3000 ∧ (hartAt t 1).getX 10 = 6 ∧ (hartAt t 1).run = .fetch ∧
      (after (exec (.bootGroupAdmit 0x8000000000000100) sBoot)).hub.bootResult = 3 ∧
      (after (exec (.bootGroupAdmit 0x8000000000200100) sBoot)).hub.bootResult = 2 := by decide +kernel
end Bringup

section Meters
def sE : State := { s1 with clk := 1200000 * 16, parts := [(0, { part0 with used := 500, allow := 100 })] }
theorem witness_Meters : sE.clk % 1024 = 0 ∧ partOf sE 0 = some 0 ∧ sE.clk % 1200000 = 0 ∧
    bitAt ((hartAt (one { g1 with csr := [(0x30A, 0x8000000000000000)] }) 0).getC 0x30A) 63 = true ∧
    (hartAt s1 (hartKey 0 0)).run ≠ .empty ∧ (hartAt s1 (hartKey 0 0)).run ≠ .exited := by decide +kernel
theorem test_energy : (partAt (after (exec (.energyMeterReport 0 7) sE)) 0).used = 507 ∧
    (partAt (after (exec .energyWindowStart sE)) 0).used = 400 := by
  decide +kernel
theorem test_thermal : let t := after (exec (.thermalLimit 2) s1); t.hub.therm = true ∧
    (after (exec .thermalClear t)).hub.therm = false := by decide +kernel
theorem test_eol : eolRead (after (exec (.eolUpdate 3 5 6) s1)) 3 = 0x500000006 := by decide +kernel
theorem test_timer : let s := one { g1 with csr := [(0x14D, 416), (0x30A, 0x8000000000000000)] }
    bitAt (mipOf s (curHart s)) 5 = true ∧ bitAt (mipOf { s with clk := 4991 } (curHart s)) 5 = false := by decide +kernel
theorem test_imsic : (hartAt (after (exec (.imsicMessage 0 0 1 9) s1)) 0).irqG.eip = 0x200 := by decide +kernel
end Meters

section Preemption
def swPre : State := { sw with parts := [(0, { part0 with preempt := { busy := true, word := 0x2001000000000000, since := 0 } })],
                               wgs := [(1, { wg1 with marked := true })] }
def heldW : Wg := { wg1 with parked := true, held := true, members := [], saved := [(0, gw)] }
theorem witness_Preemption : (partAt swPre 0).preempt.busy = true ∧ (partAt s1 0).valid = false ∧ Accepts sw 0 0x1000000000000000 ∧
    Named sw (parkable sw 0 (asOp 1 0x1000000000000000)) ∧ ¬ Named s1 (parkable s1 0 (asOp 1 0x1000000000000000)) ∧
    Named { sw with wgs := [(1, heldW)] } (inHoldScope { sw with wgs := [(1, heldW)] } 0 (asOp 3 0x1000000000000000)) ∧
    Named sw (inScope sw 0 (asOp 4 0x1000000000000000)) ∧
    bitsOf (partAt swPre 0).preempt.word 61 3 = 1 ∧ bitsOf (partAt swPre 0).preempt.word 48 8 ≠ 0 ∧
    (partAt swPre 0).preempt.since + bitsOf (partAt swPre 0).preempt.word 48 8 * 4096 ≤ swPre.clk := by
  refine ⟨by decide +kernel, by decide +kernel, ?_, ⟨(1, wg1), by simp [sw], by decide +kernel⟩, ?_, ⟨(1, heldW), by simp, by decide +kernel⟩,
    ⟨(1, wg1), by simp [sw], by decide +kernel⟩, by decide +kernel⟩
  · unfold Accepts; decide +kernel
  · rintro ⟨e, he, -⟩; cases he
theorem test_park : let t := after (exec (.park 0 0x1000000000000000) sw)
    (hartAt t 0).preempt = true ∧ (hartAt t 1).preempt = true ∧ (wgAt t 1).marked = true ∧ (wgAt t 1).held = false ∧
      (partAt t 0).preempt.busy = true ∧ (wgAt (after (exec (.parkAndHold 0 0x1000000000000000) sw)) 1).held = true := by decide +kernel
theorem test_release : (wgAt (after (exec (.releaseHold 0 0x1000000000000000) { sw with wgs := [(1, heldW)] })) 1).held = false ∧
    (wgAt (after (exec (.terminate 0 0x1000000000000000) sw)) 1).terminated = true ∧
    (partAt (after (exec (.park 1 0) sw)) 1).preempt.result = 3 := by decide +kernel
theorem test_grace : let t := after (exec (.preemptGraceExpire 0) swPre)
    (partAt t 0).preempt.result = 2 ∧ (wgAt t 1).marked = false ∧
    (after (exec (.preemptGraceExpire 0) { swPre with clk := 4095 })).wgs = swPre.wgs := by
  decide +kernel
end Preemption

section Partitions
def sQ : State := { s2 with hub := { s2.hub with partSel := 0 } }
def sQ0 : State := { sQ with parts := [(0, part0)] }
/-- Partition 0 holds tile 0 and the operator tile 1; x10's page lies in tile 1. -/
def part1 : Part := { valid := true, rect := 0x01010000 }
def sKey : State := { sQ with parts := [(0, part1), (15, { valid := true, rect := 0x01010001 })] }
def sReset (clk : Nat) : State := { sQ with clk := clk, parts := [(0, { part1 with resetting := true, freeing := true, resetClk := 0 })] }
/-- A table for partition 0 at the start of the operator's memory, all of whose classes ask for the least. -/
def varn : List Host.Cell := [(0x80000000, 0x56#8), (0x80000001, 0x4E#8), (0x80000002, 0x53#8), (0x80000003, 0x48#8), (0x80000004, 1#8),
  (0x80000008, 3#8), (0x80000015, 0x40#8)]
def sVarn : State := { withMem sKey (fun m => { m with bytes := varn, open_ := [(32768, true)] }) with
  parts := [(0, { part1 with varnBase := 0x80000000 }), (15, { valid := true, rect := 0x01010001 })] }
theorem witness_PartitionCreate : sel sQ = 0 ∧ (partAt sQ 0).valid = false ∧ (partAt sQ 0).resetting = false ∧
    RectFree sQ 0 ((0x8000000001010000 : DWord).setWidth 32) ∧ ¬ RectFree sQ 0 ((0x8000000000010000 : DWord).setWidth 32) ∧
    bitAt (0x8000000001010000 : DWord) 63 = true ∧ (partAt sQ0 (sel sQ0)).valid = true ∧ (partAt sQ0 (sel sQ0)).resetting = false ∧
    bitAt (0xC000000010100000 : DWord) 62 = true ∧ (0xC000000010100000 : DWord).setWidth 32 = (partAt sQ0 (sel sQ0)).rect ∧
    (partAt (sReset 24000) 0).resetting = true ∧ (partAt (sReset 24000) 0).flushed = false ∧
    (partAt (sReset 24000) 0).resetClk + 24000 ≤ (sReset 24000).clk := by
  unfold RectFree; decide +kernel
theorem test_partition_create : let t := after (exec (.partitionCreate 0x8000000001010000) sQ)
    (partAt t 0).valid = true ∧ (partAt t 0).rect = 0x01010000 ∧
      (partAt (after (exec (.partitionCreate 0x8000000000010000) sQ)) 0).refused = true := by decide +kernel
theorem test_partition_free : let t := after (exec (.partitionFree 0) { sQ0 with harts := [(0, { g1 with wg := 1 })], wgs := [(1, { wg1 with members := [(0, 0)] })] })
    (partAt t 0).resetting = true ∧ (partAt t 0).freeing = true ∧ t.harts = [] ∧
      (partAt (after (exec (.partitionReset 0xC000000010100000) sQ0)) 0).resetting = true := by decide +kernel
theorem test_partition_reset_complete : let t := after (exec (.partitionResetComplete 0) (sReset 24000))
    (partAt t 0).valid = false ∧ gesso t.mem 0x2000 = true ∧ bytes t 0x2000 2 = 0 ∧
      (partAt (after (exec (.partitionResetFlush 0) (sReset 2400))) 0).flushed = true := by decide +kernel
theorem freeNamed (s : State) (p : Nat) (v : DWord) (h : bitsOf v 16 23 + bitsOf v 0 16 < 2 ^ 23) (g : bitsOf v 16 23 + bitsOf v 0 16 < 32768)
    (k : inPart s p 0 = true) : FreeNamed s p v := by
  refine ⟨h, fun c hc => ?_⟩
  have : c / 32768 = 0 := Nat.div_eq_of_lt (by have := hc.2; omega)
  rw [this]; exact k
/-- The first granule has a tag that does not match. -/
def sBad : State := withMem sKey (fun m => { m with tagXor := [(0, 1)] })
theorem witness_KeyCommands : bitsOf (0x1000000000000000 : DWord) 60 4 = 1 ∧ (partAt sKey (sel sKey)).valid = true ∧
    bitsOf (0x2000000000000000 : DWord) 60 4 = 2 ∧
    bitsOf (0x3000000080000000 : DWord) 60 4 = 3 ∧ sel sKey ≠ 15 ∧ ExtendNamed sKey 0x3000000080000000 ∧
    ¬ ExtendNamed sKey 0x3000000000000000 ∧
    (partAt s1 (sel s1)).valid = false ∧ tget false [(0, true)] 0 = true ∧
    bitAt (0xC000000000000000 : DWord) 62 = true ∧ partOf sKey 0 = some 0 ∧ CanPass sKey 0 ∧ sKey.hub.glazeEn = true ∧
    inPart sKey 0 0 = true ∧ gesso sKey.mem 0 = false ∧ tget false sKey.mem.poison 0 = false ∧ tagFails sKey.mem 0 = false ∧
    tagFails sBad.mem 0 = true := by
  unfold ExtendNamed CanPass; decide +kernel
theorem witness_KeyFree : FreeNamed sKey (sel sKey) 0x1000000000000000 ∧ ¬ FreeNamed sKey (sel sKey) 0x1000000080000000 :=
  ⟨freeNamed _ _ _ (by decide +kernel) (by decide +kernel) (by decide +kernel),
   fun h => absurd (h.2 32768 (by unfold FreeChunk; decide +kernel)) (by decide +kernel)⟩
/-- A visit of a granule whose tag does not match marks it and leaves its version (15 R348). -/
theorem test_glaze_bad : let u := after (exec (.glazeVisit 0) (after (exec (.glazeStart 0xC000000000000000) sBad)))
    tget false u.mem.poison 0 = true ∧ tget false u.mem.ver1 0 = false ∧ tget 0 u.mem.frontier 0 = 1 := by decide +kernel
/-- No command of the selected partition runs; a FLUSHL2 with an operand beside ALL; a line that it takes, and one that it leaves. -/
theorem witness_Idle : KeyIdle sKey ∧ VarnIdle sVarn ∧ KeyIdle s1 ∧ bitsOf (0x2000000000000001 : DWord) 1 38 = 0 ∧
    bitsOf (0x2000000000000002 : DWord) 1 38 ≠ 0 ∧ Flushes sKey 0 true 0 { line := 0, part := 0 } ∧
    ¬ Flushes sKey 0 true 0 { line := 0, part := 1 } := by unfold KeyIdle VarnIdle Flushes; decide +kernel
theorem test_key_commands : let t := after (exec (.free 0x1000000000000000) sKey)
    gesso t.mem 0x2000 = true ∧ bytes t 0x2000 2 = 0 ∧ (partAt (after (exec (.free 0x1000000080000000) sKey)) 0).keyResult = 2 ∧
      (partAt (after (exec (.flushl2 0x2000000000000000) sKey)) 0).keyResult = 0 ∧
      (partAt (after (exec (.extend 0x3000000000000000) sKey)) 0).keyResult = 2 := by decide +kernel
theorem test_gesso_init : let t := after (exec (.gessoInitComplete 3) (withMem s1 (fun m => { m with inits := [(3, true)] })))
    gesso t.mem 0x30000 = false ∧ t.mem.inits = [] := by decide +kernel
theorem test_glaze : let t := after (exec (.glazeStart 0xC000000000000000) sKey); let u := after (exec (.glazeVisit 0) t)
    (partAt t 0).pass = true ∧ (partAt t 0).kv = true ∧ (partAt t 0).keySlot1.isSome = true ∧ tget 0 u.mem.frontier 0 = 1 ∧
    tget false u.mem.ver1 0 = true ∧
      (partAt (after (exec (.glazePassStart 0) sKey)) 0).pass = false := by decide +kernel
theorem witness_Varnish : bitsOf (0x100000000000000 : DWord) 56 4 = 1 ∧ TableGood sVarn (sel sVarn) ∧
    bitsOf (0x200000000000000 : DWord) 56 4 = 2 ∧
    (partAt sVarn (sel sVarn)).valid = true ∧ (partAt sVarn (sel sVarn)).varnKey = none ∧ (partAt s1 (sel s1)).valid = false := by
  refine ⟨by decide +kernel, ⟨by decide +kernel, by decide +kernel, ?_⟩, by decide +kernel⟩
  decide +kernel
theorem test_varnish : (partAt (after (exec (.varnishLoad 0x100000000000000) sKey)) 0).varnResult = 6 ∧
    (partAt (after (exec (.varnishRevoke 0x200000000000000) sKey)) 0).varnInForce = false := by decide +kernel
end Partitions

section Functions
/-- Function 1 runs in partition 0 over its first four chunks. -/
def vf1 : Vf := { en := true, tstate := .run, pid := 0, mlen := 4, mbase := 0 }
def sVf : State := { s2 with vfs := [(1, vf1)], parts := [(0, part1)], hub := { s2.hub with spdm := { session := true } } }
def sVfL : State := { sVf with vfs := [(1, { vf1 with tstate := .locked })] }
def sVfU : State := { sVf with vfs := [(1, { vf1 with tstate := .unlocked })] }
def bindV : DWord := 0x8000000004000002
theorem witness_Functions : Bindable sVfU 1 bindV ∧ ¬ Bindable sVf 1 bindV ∧ ¬ Bindable sVfU 0 bindV ∧ Secured sVf 1 ∧
    (vfAt sVfU 1).tstate = .unlocked ∧
    (vfAt sVfU 1).en = true ∧ (vfAt sVfL 1).tstate = .locked ∧ (vfAt sVf 1).tstate = .run ∧ Secured sVfL 1 := by
  unfold Bindable Secured; decide +kernel
theorem test_tdisp : (vfAt (after (exec (.lockInterfaceRequest 1) sVfU)) 1).tstate = .locked ∧
    (vfAt (after (exec (.startInterfaceRequest 1) sVfL)) 1).tstate = .run ∧
    (after (exec (.startInterfaceRequest 1) sVfU)).hub.reply = .tdispError := by
  decide +kernel
theorem test_function_stop : let t := after (exec (.stopInterfaceRequest 1) sVf)
    (vfAt t 1).tstate = .unlocked ∧ gesso t.mem 0x2000 = true ∧ bytes t 0x2000 2 = 0 ∧
    isFull t.mem (slotLoc 1 5) = false := by decide +kernel
theorem test_function_reset : (vfAt (after (exec (.functionLevelReset 1) sVf)) 1).tstate = .error ∧
    (vfAt (after (exec (.ideStreamFailure 1) sVfU)) 1).tstate = .unlocked ∧
    (vfAt (after (exec (.vfBindingWrite 1 bindV) sVfU)) 1).mbase = 2 ∧
    (after (exec (.getDeviceInterfaceState 1) sVf)).hub.reply = .value 2 := by decide +kernel
end Functions

section Attestation
def ask (c p1 p2 : BitVec 8) : SpdmMsg := { version := 0x13, wellFormed := true, code := c, param1 := p1, param2 := p2 }
def sConn (p : Spdm) : State := { s1 with hub := { s1.hub with spdm := p } }
theorem witness_Attestation : (ask 0x84 0 0).wellFormed = true ∧ SpdmReady s1 (ask 0xE1 0 0) ∧
    (sConn { versionDone := true }).hub.spdm.versionDone = true ∧
    (sConn { versionDone := true }).hub.spdm.capsDone = false ∧ SpdmReady (sConn { algsDone := true }) (ask 0xE0 1 3) ∧
    (ask 0xE0 1 3).param1.getLsbD 0 = true ∧ (ask 0xE0 0 16).param2.toNat ≤ 16 ∧ spdmCodes.contains 0x33 = false ∧
    s1.hub.spdm.algsDone = false ∧ SpdmReady (sConn { capsDone := true }) (ask 0xE3 0 0) ∧ (ask 0xE0 0 0).param2 = 0 ∧
    (ask 0xE0 0 255).param2 = 255 ∧ (ask 0xE0 0 1).param1.getLsbD 0 = false ∧ SpdmReady (sConn { keyExchanged := true }) (ask 0xE5 0 0) ∧
    SpdmReady (sConn { session := true }) (ask 0xEC 0 0) ∧ ({ ask 0x84 0 0 with wellFormed := false } : SpdmMsg).wellFormed = false := by
  unfold SpdmReady; decide +kernel
theorem test_spdm_order : (after (exec (.getVersion (ask 0x84 0 0)) s1)).hub.spdm.versionDone = true ∧
    (after (exec (.getCapabilities (ask 0xE1 0 0)) (sConn { versionDone := true }))).hub.spdm.capsDone = true ∧
    (after (exec (.negotiateAlgorithms (ask 0xE3 0 0)) (sConn { capsDone := true }))).hub.spdm.algsDone = true ∧
    (after (exec (.getDigests (ask 0x81 0 0)) s1)).hub.reply = .spdmError 0x04 := by decide +kernel
/-- Unsigned measurements are kept for the next signed ones alone, which start afresh after them (15 R358). -/
theorem test_spdm_measured : let t := after (exec (.getMeasurements (ask 0xE0 0 1)) (sConn { algsDone := true }))
    t.hub.spdm.measured.length = 2 ∧ t.hub.spdm.transcript = [] ∧
      (after (exec (.getMeasurements (ask 0xE0 1 1)) t)).hub.spdm.measured = [] := by decide +kernel
theorem test_spdm_session : (after (exec (.finish (ask 0xE5 0 0)) (sConn { keyExchanged := true }))).hub.spdm.session = true ∧
    (after (exec (.endSession (ask 0xEC 0 0)) (sConn { session := true }))).hub.spdm.session = false ∧
    (after (exec (.unsupportedRequest (ask 0x33 0 0)) (sConn { algsDone := true }))).hub.reply = .spdmError 0x07 := by decide +kernel
end Attestation

section Outside
def farW : FarWrite := { req := { loc := .far 2 0x100, size := 4, data := 5 }, copy := some (3, 1) }
def sFar : State := withMem { s1 with copies := [(3, { row := 4 })] } (fun m => { m with farOut := [farW] })
theorem regionAt : RegionAt sVf 1 0x2000 0x2000 := by
  refine ⟨by decide +kernel, 0, by decide +kernel, by decide +kernel⟩
/-- The granule's chunk is being initialised, or the granule is marked. -/
def sVfi : State := withMem sVf (fun m => { m with inits := [(0, true)] })
def sVfp : State := withMem sVf (fun m => { m with poison := [(0x80, true)] })
/-- Two pieces of one row are on their way, and the copy is parked by the refusal of the first. -/
def sFar2 : State := withMem { s1 with copies := [(3, { row := 1, parked := true, cause := 2, msgSent := true })] }
  (fun m => { m with farOut := [farW, { farW with copy := some (3, 2) }] })
theorem witness_Outside : MailboxLive sVf 0 ∧ MailboxLive sVf 1 ∧ ¬ MailboxLive sVfU 1 ∧
    NoneParked sVf (slotLoc 1 3) ∧
    isFull (after (exec (.mailboxHostWrite 1 3 9) sVf)).mem (slotLoc 1 3) = true ∧ isFull sVf.mem (slotLoc 1 3) = false ∧
    RegionLive sVf 1 ∧ Quiet sVf ∧ Writable sVf (fnAgent 1) (.mem 0x2000) 8 ∧ ¬ RegionLive sVfU 1 ∧
    heldRead sVf (.mem 0x2000) 8 = false ∧ Outsider sVf (fnAgent 1) ∧ Outsider sVf 0xFFFFF9 ∧ heldRead sVfi (.mem 0x2000) 8 = true ∧
    poisoned sVfp (.mem 0x2000) 8 = true ∧ inPart sVf 0 (homeOf 0x2000) = true ∧
    Writable sVf 0xFFFFF9 (.mem 0x2000) 4 ∧ inPart sVf 0 (homeOf 0x80000000) = false ∧ sFar.mem.farOut[0]? = some farW ∧
    (tfind sFar.copies 3).isSome ∧ bitAt (2 : DWord) 63 = false ∧ (sB 1).hub.ready = false ∧ sVf.hub.stage < 256 ∧
    heldWrite sVf (fnAgent 1) (slotLoc 1 3) 4 = false := by
  simp only [MailboxLive, RegionLive, NoneParked, Outsider, Quiet, writable_iff]; decide +kernel
theorem test_mailbox : let t := after (exec (.mailboxHostWrite 1 3 9) sVf); let u := after (exec (.mailboxHostTake 1 3) t)
    homeValue t (slotLoc 1 3) 4 = 9 ∧ u.hub.reply = .value 0x100000009 ∧ isFull u.mem (slotLoc 1 3) = false ∧
      (after (exec (.mailboxHostTake 1 3) sVfU)).hub.reply = .value (BitVec.allOnes 64) := by decide +kernel
theorem test_host_memory : bytes (after (exec (.hostMemAccess 1 0x2000 8 (some 0x0102)) sVf)) 0x2000 8 = 0x0102 ∧
    (after (exec (.hostMemAccess 1 0x2000 8 none) sVf)).hub.reply = .value 0x80FF ∧
    (after (exec (.hostMemAccess 1 0 8 none) sVfU)).hub.reply = .poison := by
  decide +kernel
theorem test_far_write : let t := after (exec (.farWriteReceive 0 0x2000 2 0x1234) sVf)
    bytes t 0x2000 2 = 0x1234 ∧ (after (exec (.farWriteReceive 0 0x80000000 2 0x1234) sVf)).hub.reply = .farWrite false := by decide +kernel
theorem test_far_ack : let t := after (exec (.farWriteAcknowledgement 0 false) sFar)
    t.mem.farOut = [] ∧ (copyAt t 3).row = 1 ∧ (copyAt t 3).parked = true ∧
    (copyAt (after (exec (.farWriteAcknowledgement 0 true) sFar)) 3).row = 4 := by
  decide +kernel
theorem test_far_ack_once : let t := after (exec (.farWriteAcknowledgement 0 false) sFar2)
    (copyAt t 3).msgSent = true ∧ t.mem.farOut.map FarWrite.copy = [none] := by decide +kernel
/-- A host read that is held travels until its granule can be read (04 R106). -/
theorem test_host_read_held : let t := after (exec (.hostMemAccess 1 0x2000 8 none) sVfi)
    t.hub.reply = .none ∧ t.mem.net.map Req.read = [true] ∧ (after (exec (.hostMemAccess 1 0x2000 8 none) sVfp)).hub.reply = .poison := by decide +kernel
theorem test_register_write : (after (exec (.registerWrite (.func 0 0x18) 0x12345) s1)).hub.recBase = 0x12000 ∧
    (tget {} (after (exec (.registerWrite (.func 0 0x40010) 0x8000000000030002) s1)).hub.far 2).port = 2 ∧
    (partAt (after (exec (.registerWrite (.ctl 3 0) 9) s1)) 3).lease = 9 := by decide +kernel
end Outside

section Debug
/-- The operator's block 15 selects the FMA counter of sub-core 2 of tile 1, the tile of no partition. -/
def sD (sel : DWord) (h : Hart) : State := { one h with
  kiwiow := [(15, { sel := sel })], counters := [(counterKey 1 0 2 0, 77)],
  parts := [(15, { valid := true, rect := 0x01010000 })] }
def counterSel : DWord := 0x0800000000000200
/-- Class 14, tile 0, slot 0, register 10. -/
def regSel : DWord := 0x700000000000000A
def gStop : Hart := { g1 with run := .stopped }
def sSkt : State := { sVf with kiwiow := [(65, { skt := 0x2001 })], hub := { sVf.hub with kpulse := 1 }, clk := 12 }
def sDx : State := sD counterSel g1
def sDr : State := sD regSel gStop
theorem witness_Debug : blockOk sDx 15 = true ∧ OwnBlock sDx 15 ∧ selClass sDx 15 = 1 ∧ selIndex sDx 15 % 256 < evCount 1 ∧
    selIndex sDx 15 < 65536 ∧ unitOk 1 2 = true ∧ blockTile sDx 15 (selTile sDx 15) = true ∧
    blockOk { sDx with kiwiow := [(0, { sel := counterSel })] } 0 = true ∧ ownReader 0 = false ∧ grantCode (partAt sDx 0) 1 = 0 ∧
    OwnBlock sDr 15 ∧ selClass sDr 15 = 14 ∧ selAgent sDr 15 = some 0 ∧ selIndex sDr 15 = 10 ∧ (hartAt sDr 0).tasklet = false ∧
    StopWord sDx 15 1 0x4000000000000000 ∧ blockTile sDx 15 0 = true ∧ slotAgent sDx 0 0 = some 0 ∧ slotAgent sDx 0 1 = none ∧
    (hartAt sDx 0).run ≠ .exited ∧ (hartAt sDx 0).run ≠ .stopped ∧ (hartAt sDr 0).run = .stopped ∧ StopWord sDr 15 2 0x8000000000000000 ∧
    (tfind (one { g1 with stopReq := true }).harts 0).isSome ∧ atBoundary { g1 with stopReq := true } = true ∧
    pulseDue sDx = false ∧ pulseDue sSkt = true ∧ OwnBlock sSkt 65 ∧ ringOn 0x2001 = true ∧ ringNamed sSkt 65 0x2001 = true ∧
    (sketchRecord sSkt 0 0 0 false).length ≤ ringFree (ringSize 0x2001) 0 0 ∧
    ringPoison sSkt 0 (ringSize 0x2001) 0 (sketchRecord sSkt 0 0 0 false).length = false ∧ blockOk sDx 70 = false := by
  unfold OwnBlock StopWord; decide +kernel
theorem witness_OneTile : OneTile sSkt 65 0 := by unfold OneTile; decide +kernel
/-- A group in M mode of the operator's partition asks, and one in user mode; the firmware of the maker port is the first (16 R359). -/
theorem witness_Maker : firmware sDx = true ∧ firmware { sDx with harts := [(0, { g1 with priv := .u })] } = false := by decide +kernel
theorem test_maker : (after (exec (.kdataRead 31) sDx)).hub.reply = .value 77 ∧
    (after (exec (.kdataRead 31) { sDx with harts := [(0, { g1 with priv := .u })] })).hub.reply = .value 0 ∧
    (kiwiowAt (after (exec (.registerWrite (.maker 15 0x18) 1) sDx)) 15).sel = (kiwiowAt (after (exec (.registerWrite (.func 0 0x30F18) 1) sDx)) 15).sel := by
  decide +kernel
theorem test_kdata : (after (exec (.kdataRead 15) sDx)).hub.reply = .value 77 ∧
    (kiwiowAt (after (exec (.kdataRead 0) { sDx with kiwiow := [(0, { sel := counterSel })] })) 0).stat = 3 := by decide +kernel
theorem test_kdata_registers : (after (exec (.kdataRead 15) sDr)).hub.reply = .value 0x2000 ∧
    (hartAt (after (exec (.kdataWrite 15 9) sDr)) 0).getX 10 = 9 := by decide +kernel
theorem test_kstop : (hartAt (after (exec (.kstopStop 15 0x4000000000000000) sDx)) 0).stopReq = true ∧
    (kiwiowAt (after (exec (.kstopStop 15 0x4000010000000000) sDx)) 15).stopResult = 1 ∧
    (hartAt (after (exec (.debugStopTake 0) (one { g1 with stopReq := true }))) 0).run = .stopped ∧
    (hartAt (after (exec (.kstopRelease 15 0x8000000000000000) sDr)) 0).run = .ready := by decide +kernel
theorem test_ring : (kiwiowAt (after (exec (.ktrcWrite 65 0x2001) sSkt)) 65).trc = 0x2001 ∧
    (kiwiowAt (after (exec (.ktrcWrite 65 0xFFFFFFFF00002001) sSkt)) 65).trc = 0xFFFFFFFF00002000 ∧
    (kiwiowAt (after (exec (.ksktWrite 65 0x4001) sSkt)) 65).sktWr = 0 ∧
    (kiwiowAt (after (exec .sketchPulse sSkt)) 65).sktWr ≠ 0 := by decide +kernel
/-- `mark 677`, 3 clk after the stream's last packet, which came from the same slot (R374), in a ring of 64 bytes with `rd` read. -/
def trStream (src : Nat × Nat) : Stream := { opened := true, syncTime := 5000, lastTime := 5000, lastSrc := some src }
def sTr (rd : Word) (src : Nat × Nat) : State := { sVf with
  harts := [(0, g1)], clk := 5003, kiwiow := [(65, { trc := 0x3, trcRd := rd, stream := trStream src })] }
theorem test_mark_packet : bytes (writeTraced (after (exec (.mark 677) (sTr 0 (0, 0))))) 0 3 = 0x03A526 ∧
    (kiwiowAt (writeTraced (after (exec (.mark 677) (sTr 0 (0, 0))))) 65).trcWr = 3 := by decide +kernel
/-- Where it does not fit it is dropped and counted, with the CTX that a packet of another source needs. -/
theorem test_trace_loss : (kiwiowAt (writeTraced (after (exec (.mark 677) (sTr 3 (0, 0))))) 65).stream.lost = 1 ∧
    (kiwiowAt (writeTraced (after (exec (.mark 677) (sTr 3 (0, 1))))) 65).stream.lost = 2 := by decide +kernel
end Debug

section Issue
/-- A software interrupt for M mode, and PREEMPT for HS mode. -/
def gIm : Hart := { g1 with csr := [(0x300, 8), (0x304, 2), (0x305, 0x3000), (0x344, 2)] }
def sIm : State := one gIm
def gIh : Hart := { g1 with priv := .u, csr := [(0x105, 0x5000), (0x304, 0x10000)], preempt := true }
def sIh : State := one gIh
def gLate : Hart := { gIm with lateFaults := [0x5000] }
def sI : State := two { g1 with prio := 0 } { g1 with slot := 1, prio := 3 }
theorem witness_Issue : offersOf sI 0 0 ≠ [] ∧ offersOf { sI with harts := [] } 0 0 = [] ∧
    (hartAt (one { g1 with starve := 240 }) 0).boost = none ∧
    (hartAt (one { g1 with yieldTo := some 6000, yieldFor := [1] }) 0).yieldTo = some 6000 ∧
    atBoundary (hartAt s1 0) = true ∧ pendingIrq s1 (hartAt s1 0) = none ∧
    pendingIrq sIm gIm = some ({ cause := 1, intr := true }, .m) ∧ atBoundary gIm = true ∧
    pendingIrq sIh gIh = some ({ cause := 16, intr := true }, .hs) ∧ mayInterrupt sIm gIm = true ∧ mayInterrupt sIh gIh = true ∧
    gIm.laneQ = [] ∧ gIm.laneFe = none ∧ gIm.wait = .nothing ∧ gIh.wait = .nothing ∧ gIm.lateFaults = [] ∧ gIh.lateFaults = [] ∧
    gLate.lateFaults = [0x5000] ∧ mayInterrupt (one gLate) gLate = true ∧ bitAt (gLate.getC 0x302) 7 = false := by decide +kernel
/-- The fault of a posted store comes before the interrupt at the same boundary. -/
theorem test_late_fault : let h := hartAt (after (exec (.trapEntry 0) (one gLate))) 0
    h.getC 0x342 = 7 ∧ h.getC 0x343 = 0x5000 ∧ h.lateFaults = [] ∧ h.pc = 0x3000 := by decide +kernel
/-- A lane instruction that was issued and held has its turn again without a pick. -/
theorem test_issue_held : (after (exec (.issuePick 0 0) (one { g1 with laneQ := [{ lpc := 0x2000 }], laneWait := .place (.mem 0x2000) 4 false }))).turns.take 1 =
    [.lane 0] := by decide +kernel
theorem test_interrupt : (hartAt (after (exec (.trapEntry 0) sIm)) 0).pc = 0x3000 ∧
    (hartAt (after (exec (.trapEntry 0) sIm)) 0).getC 0x342 = 0x8000000000000001 ∧
    (hartAt (after (exec (.trapEntry 0) sIh)) 0).pc = 0x5000 ∧ (hartAt (after (exec (.trapEntry 0) sIh)) 0).priv = .s := by decide +kernel
/-- The group of higher priority is picked first; both of one pipe cannot go. -/
theorem test_issue_pick : (after (exec (.issuePick 0 0) sI)).turns = [.scalar 1] := by decide +kernel
theorem test_boost : (hartAt (after (exec (.starvationBoost 0) (one { g1 with starve := 240 }))) 0).boost = some 0 ∧
    (hartAt (after (exec (.yieldExpire 0) (one { g1 with yieldTo := some 5000, yieldFor := [1] }))) 0).yieldTo = none := by decide +kernel
theorem test_lane_result : (hartAt (after (exec (.laneResultWrite 0) (one { g1 with pend := [{ due := 5000, latency := 4, vs := [(1, 2, 9)] }] }))) 0).getV 1 2 = 9 ∧
    (hartAt (after (exec (.laneResultWrite 0) (one { g1 with pend := [{ due := 5001, latency := 4, vs := [(1, 2, 9)] }] }))) 0).getV 1 2 = 0 := by decide +kernel
end Issue

section Launching
/-- A descriptor at 0x2000 for one workgroup on tile 0, its kernel table at 0x2100, one kernel record at 0x2140, and tile 0's routing
record in the operator's memory. Bytes that are 0 are not listed. -/
def launchBytes : List Host.Cell :=
  [(0x2001, 0x21#8), (0x2008, 1#8), (0x200A, 1#8), (0x200B, 1#8), (0x200E, 1#8), (0x200F, 1#8), (0x2018, 0x10#8), (0x201B, 0x40#8),
   (0x2028, 0x14#8), (0x202B, 0x40#8), (0x2030, 1#8), (0x2100, 0x40#8), (0x2101, 0x21#8), (0x2141, 0x10#8), (0x2150, 0x20#8), (0x2152, 1#8),
   (0x2158, 1#8)] ++ (List.range 255).map (fun i => (0x80000001 + i, 6#8))
def sLc : State := { withMem sw (fun m => { m with bytes := launchBytes, open_ := [(0, true), (32768, true)] }) with
  parts := [(0, { part1 with seqQ := [{ hart := 0, desc := 0x2000, rd := 5 }], routeCfg := 0x80000000 }),
            (15, { valid := true, rect := 0x01010001 })],
  harts := [(0, { gw with run := .waitSync, wait := .launch 5 }), (1, { gw with slot := 1, rank := 1 })] }
def sLc2 : State := withMem sLc (fun m => { m with bytes := [] })
def sLcHeld : State := { sLc with copies := [(0, {})], mem := { sLc.mem with inits := [(0, true)] } }
def descOf : Desc := parseDesc (dwBytes ((List.range 16).map (fun i => BitVec.ofNat 64 (homeValue sLc (.mem (0x2000 + 8 * i)) 8))))
def isStatus (r : Except LaunchStop (State × Desc × List Kernel)) (n : Nat) : Bool :=
  match r with
  | .error (.status k) => k == n
  | _ => false
def isHeld (r : Except LaunchStop (State × Desc × List Kernel)) : Bool :=
  match r with
  | .error .held => true
  | _ => false
def okLaunch (r : Except LaunchStop (State × Desc × List Kernel)) (f : State → Desc → List Kernel → Bool) : Bool :=
  match r with
  | .ok (s, d, ks) => f s d ks
  | _ => false
theorem witness_LaunchCheck : NextLaunch sLc 0 { hart := 0, desc := 0x2000, rd := 5 } [] ∧
    isStatus (launchChecks sLc2 0 0 0x2000) 2 = true ∧
    isHeld (launchChecks sLcHeld 0 0 0x2000) = true ∧
    okLaunch (launchChecks sLc 0 0 0x2000) (fun s d ks => splitsAgree (popped s 0 []) d && ks.length == 1 &&
      issuerWord (popped s 0 []) (hartAt s 0) d.compl == some (.win 0x10) &&
      issuerPair (popped s 0 []) (hartAt s 0) d.mbox == some (.win 0x14, .win 0x18) && decide (runningCount (popped s 0 []) 0 < 64) &&
      !issuerHeld (popped s 0 []) (hartAt s 0) d.compl && !issuerHeld (popped s 0 []) (hartAt s 0) d.mbox &&
      !issuerHeld (popped s 0 []) (hartAt s 0) (d.mbox + 4) &&
      (match loadRouters (popped s 0 []) 0 (rectTiles d.rect) with
       | (u, ok) => ok == some true && (rectTiles d.rect).all (fun t => decide (reservedOn u t + d.p ≤ freeEntries u 0 t)))) = true := by
  unfold NextLaunch; decide +kernel
/-- The LAUNCH whose read is held is indivisible from then on (06 R152). -/
theorem test_launch_begun : (hartAt (after (exec (.launchCheck 0) sLcHeld)) 0).indiv = true ∧
    (partAt (after (exec (.launchCheck 0) sLcHeld)) 0).seqQ.length = 1 := by decide +kernel
theorem test_launch_check : (hartAt (after (exec (.launchCheck 0) sLc2)) 0).getX 5 = 2 := by decide +kernel
/-- Launch 2 before and after its placement. -/
def l2 : Launch := { l1 with lid := 1, placed := false, liveWgs := 1, kernels := [{ sentry := 0x1000 }] }
def sPlace : State := { sw with launches := [(1, l1), (2, l2)], harts := [(0, { gw with run := .waitSync, wait := .placing 2 5 })] }
/-- Its easel is full, and the place of its spill ring that a push would write lies in a chunk that is being initialised. -/
def sFullEasel : State := { sPlace with parts := [(0, { part0 with spillLen := 1, spillBase := 0x100000 })],
                                        easels := [(0, { resident := List.replicate 32 { lkey := 1 } })] }
def sPlaceHeld : State := withMem sFullEasel (fun m => { m with inits := [(16, true)] })
def sAdmit : State := { sw with launches := [(2, { l2 with placed := true })], easels := [(0, { resident := [{ lkey := 2 }] })] }
theorem test_placement : let t := after (exec (.launchInitialPlacement 2) sPlace)
    (hartAt t 0).getX 5 = 0x100000000 ∧ (launchAt t 2).placed = true ∧ (easelAt t 0).resident.map EaselEntry.lkey = [2] := by decide +kernel
theorem witness_Placement : (tfind sPlace.launches 2).isSome ∧ (launchAt sPlace 2).placed = false ∧ (hartAt sPlace 0).wait = .placing 2 5 ∧
    rectTiles (launchAt sPlace 2).rect = [0] ∧ (launchAt sPlace 2).p = 1 ∧ Quiet sPlace ∧
    (placedAll sPlace 2 (launchAt sPlace 2)).isSome ∧ (placedAll sPlaceHeld 2 (launchAt sPlaceHeld 2)).isNone := by
  unfold Quiet; decide +kernel
theorem test_placement_held : (launchAt (after (exec (.launchInitialPlacement 2) sPlaceHeld)) 2).placed = false ∧
    (launchAt (after (exec (.launchInitialPlacement 2) sFullEasel)) 2).placed = true := by decide +kernel
/-- A launch with no work left, and one with a header for its mailbox word. -/
def sDone : State := { sw with harts := [(0, gw)], launches := [(1, { l1 with issuerWg := 1, liveWgs := 0 })] }
def sHead : State := { sDone with launches := [(1, { l1 with issuerWg := 1, headers := [(0, 7)] })], mem := { sDone.mem with empty := [(5, true)] } }
def sDoneHeld : State := { sDone with copies := [(0, { segs := [(0, 0, .win 0x10, 4)] })] }
/-- Another launch that shares the mailbox word has the older header. -/
def sHeadLate : State := { sHead with launches := sHead.launches ++ [(2, { l1 with issuerWg := 1, headers := [(3, 9)] })] }
theorem witness_Completion : launchFinished sDone 1 = true ∧ issuerOwns sDone (launchAt sDone 1) (launchAt sDone 1).compl = true ∧
    NoneParked sDone (launchAt sDone 1).compl ∧ heldWrite sDone 0xFFFFFE (launchAt sDone 1).compl 4 = false ∧
    heldWrite sDoneHeld 0xFFFFFE (.win 0x10) 4 = true ∧ messageBefore sHead (.win 0x14) 0 = false ∧
    messageBefore sHeadLate (.win 0x14) 5 = true ∧ (tfind sHead.launches 1).isSome ∧ (launchAt sHead 1).headers = [(0, 7)] ∧
    (launchAt sHead 1).records = [] ∧
    (launchAt sHead 1).done = false ∧ issuerOwns sHead (launchAt sHead 1) (.win 0x14) = true ∧ isFull sHead.mem (.win 0x14) = false ∧
    heldWrite sHead 0xFFFFFE (.win 0x14) 4 = false ∧ isFull sDone.mem (.win 0x14) = true ∧
    issuerOwns { sDone with bankOwner := [] } (launchAt sDone 1) (.win 0x14) = false := by
  unfold NoneParked; decide +kernel
theorem test_launch_complete : let t := after (exec (.launchComplete 1) sDone)
    isFull t.mem (.win 0x10) = true ∧ homeValue t (.win 0x10) 4 = 0 ∧ (tfind t.launches 1).isNone := by decide +kernel
theorem test_header : let t := after (exec (.mboxHeaderWrite 1) sHead); homeValue t (.win 0x14) 4 = 7 ∧
    (launchAt t 1).headers = [] := by decide +kernel
end Launching

section Workgroups
def sAdm : State := { sAdmit with wgs := [], harts := [], bankOwner := [] }
def spill (e : EaselEntry) : State := { sw with easels := [(0, { spilled := [e] })] }
/-- A spilled entry of launch 1 whose record stands in memory: the kernel, launch and argument words of its 32 bytes. -/
def lost : EaselEntry := { lkey := 1, arg := 9 }
def gEnd (w : WaitOn) : Hart := { gw with run := .waitSync, wait := w, v := [(1, 1)] }
def sEnd (w : WaitOn) : State := { sw with harts := [(0, gEnd w)], wgs := [(1, { wg1 with members := [(0, 0)] })] }
def sRel (jw : DWord) : State := { sw with harts := [(0, { gw with run := .exited, ended := 1 })],
                                           wgs := [(1, { wg1 with size := 1, members := [(0, 0)], endedPlain := 1, joinWord := jw })] }
def sJoin (b : Byte) : State := { sw with harts := [(0, { gw with run := .waitSync, wait := .join 0x2000 })], mem := { sw.mem with bytes := [(0x2000, b)] } }
def sJoin0 : State := { sJoin 1 with mem := { (sJoin 1).mem with bytes := [] } }
theorem witness_Workgroups : resumeChoice sAdm 0 = none ∧ (easelAt sAdm 0).resident.length = 1 ∧
    ((easelAt sAdm 0).resident.map (fun e => (canTake sAdm 0 e).isSome)) = [true] ∧ (easelAt s1 0).resident = [] ∧
    (easelAt (spill lost) 0).spilled = [lost] ∧ readBack (spill lost) 0 lost = false ∧ readHeld (spill lost) 0 lost = false ∧
    lost.joinWord = 0 ∧
    Quiet (sEnd (.exit false)) ∧ (hartAt (sEnd (.exit false)) 0).accFails = [] ∧ (hartAt (sEnd (.exit false)) 0).lateFaults = [] ∧
    NoTrace (sEnd (.exit false)) ∧
    (hartAt (sEnd (.exit false)) 0).wait = .exit false ∧ (wgAt (sEnd (.exit false)) 1).endedPark = 0 ∧
    (hartAt (sEnd (.exit true)) 0).wait = .exit true ∧
    (wgAt (sEnd (.exit true)) 1).members = [(0, 0)] ∧ (wgAt (sEnd (.exit true)) 1).terminated = false := by
  unfold Quiet NoTrace; decide +kernel
theorem witness_Release :
    releaseDue (sRel 0) 1 = true ∧ (wgAt (sRel 0) 1).marked = false ∧ releaseDue (sRel 0x2000) 1 = true ∧
    locate (sRel 0x2000) (launchCtx (launchAt (sRel 0x2000) 1) 0) 0 false .store .join 0x2000 8 = .ok ⟨.mem 0x2000, 0, none⟩ ∧
    walkWaits (sRel 0x2000) (launchCtx (launchAt (sRel 0x2000) 1) 0) 0 .store 0x2000 = false ∧
    Writable (sRel 0x2000) 0xFFFFFD (.mem 0x2000) 8 ∧ (hartAt (sJoin 1) 0).wait = .join 0x2000 ∧
    locate (sJoin 1) (dataCtx (hartAt (sJoin 1) 0)) 1 false .load .join 0x2000 8 = .ok ⟨.mem 0x2000, 0, none⟩ ∧
    heldRead (sJoin 1) (.mem 0x2000) 8 = false ∧ walkWaits (sJoin 1) (dataCtx (hartAt (sJoin 1) 0)) 1 .load 0x2000 = false ∧
    dropped (sJoin 1) (hartAt (sJoin 1) 0).actsFor 0 (.mem 0x2000) = false ∧ homeValue (sJoin 1) (.mem 0x2000) 8 = 1 ∧
    homeValue sJoin0 (.mem 0x2000) 8 = 0 := by
  simp only [ok_iff, writable_iff]; decide +kernel
theorem test_admission : let t := after (exec (.admissionDecision 0) sAdm)
    (wgAt t sAdm.nextWg).lkey = 2 ∧ (hartAt t 0).pc = 0x1000 ∧ (hartAt t 0).run = .fetch ∧ (hartAt t 0).vcnt = 32 ∧
    (easelAt t 0).resident = [] := by
  decide +kernel
theorem test_easel_lost : let t := after (exec (.easelRefill 0) (spill lost)); (easelAt t 0).spilled = [] ∧
    (launchAt t 1).splost = true := by decide +kernel
theorem test_exit_drain : (hartAt (after (exec (.exitDrainDone 0) (sEnd (.exit false)))) 0).run = .exited ∧
    (wgAt (after (exec (.exitDrainDone 0) (sEnd (.exit true)))) 1).parked = true ∧
    (wgAt (after (exec (.exitDrainDone 0) (sEnd (.exit true)))) 1).members = [] := by decide +kernel
theorem test_release_workgroup : let t := after (exec (.workgroupRelease 1) (sRel 0x2000))
    (tfind t.wgs 1).isNone ∧ bytes t 0x2000 8 = 2 ∧ t.harts = [] ∧ (launchAt t 1).liveWgs = 0 := by decide +kernel
theorem test_join_satisfied : (hartAt (after (exec (.joinSatisfied 0) sJoin0)) 0).pc = 0x1004 ∧
    (hartAt (after (exec (.joinSatisfied 0) (sJoin 1))) 0).wait = .join 0x2000 := by decide +kernel
end Workgroups

section HomeCores
def tk (p : Place) : Hart := { tsk with pid := 0, virt := true, lkey := 1, place := p }
def sT (p : Place) (q : Home) : State := { sw with harts := [(40000, tk p)], homes := [(0, q)], launches := [(1, { l1 with liveTasks := 1 })] }
def sMig : State := { sT (.slot 0 0) { slots := [(0, 40000)] } with harts := [(40000, { tk (.slot 0 0) with migrateTo := some 1 })] }
theorem witness_HomeCores : (hartAt (sT (.flight 0) {}) 40000).tasklet = true ∧ (hartAt (sT (.flight 0) {}) 40000).place = .flight 0 ∧
    (homeAt (sT (.flight 0) {}) 0).memQ = [] ∧ tfind (homeAt (sT (.hwQueue 0) { hwQ := [40000] }) 0).slots 3 = none ∧
    (homeAt (sT (.hwQueue 0) { hwQ := [40000] }) 0).hwQ = [40000] ∧ (homeAt (sT (.memQueue 0) { memQ := [40000] }) 0).memQ = [40000] ∧
    runHeld (sT (.memQueue 0) { memQ := [40000] }) 40000 0 0 false = false ∧
    runFault (sT (.memQueue 0) { memQ := [40000] }) 40000 0 (ringAt (sT (.memQueue 0) { memQ := [40000] }) 0 0 0) false = none ∧
    (hartAt sMig 40000).migrateTo = some 1 ∧ Quiet sMig ∧ dropped sMig 0 0 (.mem (2 ^ 31)) = false ∧ (launchAt sMig 1).records = [] ∧
    (homeAt (sT (.flight 0) { fwd := [(40001, 1, 1)] }) 0).fwd[0]? = some (40001, 1, 1) ∧ NoTrace sMig ∧
    bitAt (partAt sMig (hartAt sMig 40000).pid).hmbox 0 = false := by
  unfold Quiet NoTrace; decide +kernel
/-- A tasklet has gone to tile 1 with a load of 8 bytes outstanding here, whose granule can be read, or is being initialised. -/
def pl : PendLoad := { rd := 3, loc := .mem 0x2000, size := 8 }
def sLate (held : Bool) : State := { sT (.flight 1) { fwd := [(40000, 1, 1)] } with
  harts := [(40000, { tk (.flight 1) with tile := 1, loads := [pl] })], mem := { sw.mem with inits := if held then [(0, true)] else [] } }
theorem witness_LateReplies : (homeAt (sLate false) 0).fwd[0]? = some (40000, 1, 1) ∧ (hartAt (sLate false) 40000).loads = [pl] ∧
    pl.tile = 0 ∧
    loadReply (sLate false) pl = some 3 ∧ loadReply (sLate true) pl = none := by decide +kernel
theorem test_late_reply : let t := after (exec (.lateReplyForward 0 0) (sLate false))
    ((hartAt t 40000).loads.map PendLoad.value) = [some 3] ∧ (homeAt t 0).fwd = [] ∧
      (homeAt (after (exec (.lateReplyForward 0 0) (sLate true))) 0).fwd.length = 1 := by decide +kernel
theorem test_tasklet_arrive : (hartAt (after (exec (.taskletArrive 40000) (sT (.flight 0) {}))) 40000).place = .hwQueue 0 ∧
    (hartAt (after (exec (.rotationSlotRefill 0 3) (sT (.hwQueue 0) { hwQ := [40000] }))) 40000).place = .slot 0 3 ∧
    (hartAt (after (exec (.runQueueRefill 0) (sT (.memQueue 0) { memQ := [40000] }))) 40000).place = .hwQueue 0 := by decide +kernel
theorem test_tasklet_migrate : let t := after (exec (.taskletMigrate 40000) sMig)
    (hartAt t 40000).place = .flight 1 ∧ (homeAt t 0).slots = [] ∧ (homeAt t 0).fwd = [(40000, 1, 0)] ∧
      (homeAt (after (exec (.lateReplyForward 0 0) (sT (.flight 0) { fwd := [(40001, 1, 1)] }))) 0).fwd = [] := by decide +kernel
theorem test_tasklet_trap : let t := after (exec (.taskletTrap 40000 5 0) sMig)
    (tfind t.harts 40000).isNone ∧ (launchAt t 1).ttrap = true ∧ (launchAt t 1).headers = [(0, 0x1000003F)] := by decide +kernel
end HomeCores

section Homes
/-- One write on its way, and one remote update that travels or has arrived. -/
def req1 : Req := { loc := .mem 0x2000, size := 2, data := 0x1234 }
def sN (r : Req) : State := withMem s2 (fun m => { m with net := [r] })
def red1 (arr : Nat) : Req := { loc := .mem 0x2000, size := 4, data := 5, red := some .add, arr := arr }
theorem witness_Homes : (sN req1).mem.net[0]? = some req1 ∧ behindEarlier (sN req1).mem.net 0 req1 = false ∧
    Writable (sN req1) 0 (.mem 0x2000) 2 ∧ (sN (red1 0)).mem.net[0]? = some (red1 0) ∧
    behindEarlier (sN (red1 0)).mem.net 0 (red1 0) = false ∧
    homeTile (red1 3).loc = 0 ∧ Writable (sN (red1 3)) 0 (.mem 0x2000) 4 ∧ PlainWrite (sN req1) 0 req1 ∧
    (packetRoute (sN (red1 3)) (red1 3)).isSome = true ∧ loadsOpen (sN (red1 3)) 0 = false := by
  simp only [PlainWrite, writable_iff]; decide +kernel
theorem test_home_access : let t := after (exec (.homeAccess 0) (sN req1)); bytes t 0x2000 4 = 0x1234 ∧ t.mem.net = [] ∧
    ((after (exec (.homeAccess 0) (sN (red1 0)))).mem.net.map Req.arr) = [1] := by decide +kernel
theorem test_red_update : let t := after (exec (.redUpdateExecute 0) (sN (red1 3))); bytes t 0x2000 4 = 0x8104 ∧
    t.mem.net = [] := by decide +kernel
/-- The parked load of the second group, parked and bounced, with its limit of two. -/
def pk (b : Bool) (r since : Nat) : Park := { agent := 1, rd := 6, loc := .win 0, va := 0x40000000, since := since, bounced := b, retries := r }
def sPk (p : Park) (full : Bool) : State := { swP with
  mem := { swP.mem with parks := [p], empty := if full then [] else [(0, true)] }
  harts := [(0, gw), (1, { gw with slot := 1, rank := 1, run := .waitSync, wait := .fullEmpty, csr := [(0x5C7, 1), (0x1007, 2)] })] }
def sPkIrq : State := { sPk (pk false 0 4000) false with
  harts := [(0, gw), (1, { gw with slot := 1, rank := 1, run := .waitSync, wait := .fullEmpty, preempt := true, csr := [(0x204, 0x10000)] })] }
theorem witness_Parked : (sPk (pk false 0 500) false).mem.parks[0]? = some (pk false 0 500) ∧
    (pk false 0 500).since + 4096 ≤ (sPk (pk false 0 500) false).clk ∧
    limitOf (sPk (pk false 0 500) false) 1 = 2 ∧ PlainGroup (sPk (pk false 1 500) false) 1 ∧ NoTrace (sPk (pk false 1 500) false) ∧
    (pk true 1 4000).since + 256 ≤ (sPk (pk true 1 4000) true).clk ∧ Quiet (sPk (pk true 1 4000) true) ∧
    isFull (sPk (pk true 1 4000) true).mem (.win 0) = true ∧ heldWrite (sPk (pk true 1 4000) true) 1 (.win 0) 4 = false ∧
    isFull (sPk (pk true 1 4000) false).mem (.win 0) = false ∧ dueEnd sPkIrq (hartAt sPkIrq 1) = false ∧
    mayInterrupt sPkIrq (hartAt sPkIrq 1) = true ∧ Runs (sPk (pk true 1 4000) true) 1 ∧
    pendingIrq sPkIrq (hartAt sPkIrq 1) = some ({ cause := 16, intr := true }, .vs) ∧
    pendingIrq (sPk (pk false 0 500) false) (hartAt sw 1) = none ∧ (hartAt sw 1).lateFaults = [] := by
  simp only [Quiet, Runs, PlainGroup, NoTrace, ownsNone_iff]; decide +kernel
theorem test_fe_bounce : ((after (exec (.feBounce 0) (sPk (pk false 0 500) false))).mem.parks.map (fun p => (p.bounced, p.retries))) = [(true, 1)] ∧
    (hartAt (after (exec (.feBounce 0) (sPk (pk false 1 500) false))) 1).getC 0x342 = 30 ∧
    (hartAt (after (exec (.feBounce 0) (sPk (pk false 1 500) false))) 1).getC 0x343 = 0x40000000 := by decide +kernel
theorem test_fe_resend : let t := after (exec (.feResend 0) (sPk (pk true 1 4000) true))
    (hartAt t 1).getX 6 = 7 ∧ isFull t.mem (.win 0) = false ∧ t.mem.parks = [] ∧
      (after (exec (.feResend 0) (sPk (pk true 1 4000) false))).mem.parks.length = 1 := by decide +kernel
theorem test_fe_withdrawal : let t := after (exec (.feWithdrawal 0) sPkIrq)
    t.mem.parks = [] ∧ (hartAt t 1).wait = .nothing ∧ (hartAt t 1).getC 0x242 = 0x8000000000000010 := by decide +kernel
end Homes

section Queues
/-- The second group waits for the dword at 0x2000 that the first holds, or that no one holds. -/
def wr (since retries : Nat) : Resv := { agent := 1, addr := 0x2000, rd := 6, va := 0x2000, since := since, retries := retries }
def hr (since : Nat) : Resv := { agent := 0, addr := 0x2000, rd := 5, va := 0x2000, since := since }
def sQu (holder : Option Resv) (ws : List Resv) : State := { withMem sw (fun m => { m with resvs := [{ dword := 0x400, holder := holder, waiters := ws }] }) with
  harts := [(0, gw), (1, { gw with slot := 1, rank := 1, run := .waitSync, wait := .lrw, csr := [(0x1007, 2)] })], clk := 70000 }
def lr0 : LrRes := { hart := 0, addr := 0x2000, size := 4, clk := 4000, table := false }
def sLr0 (clk : Nat) : State := { withMem s2 (fun m => { m with lrs := [lr0], net := [{ req1 with agent := 7 }], dir := [(0x80 * 4096, 0xFFFF)] }) with clk := clk }
theorem witness_Queues : Quiet (sQu none [wr 0 0]) ∧ heldRead (sQu none [wr 0 0]) (.mem 0x2000) 4 = false ∧
    dropped (sQu none [wr 0 0]) 0 0 (.mem 0x2000) = false ∧
    (wr 61000 1).since + 4096 * 2 ≤ (sQu (some (hr 0)) [wr 61000 1]).clk ∧ (hartAt (sQu (some (hr 0)) [wr 0 0]) 1).feLimit = 2 ∧
    Runs (sQu none [wr 0 0]) 1 ∧
    PlainGroup (sQu (some (hr 0)) [wr 61000 1]) 1 ∧ NoTrace (sQu (some (hr 0)) [wr 61000 1]) ∧
    (hr 0).since + 65536 ≤ (sQu (some (hr 0)) []).clk ∧
    (sLr0 4128).mem.lrs[0]? = some lr0 ∧ lr0.clk + 128 ≤ (sLr0 4128).clk ∧ overlaps (.mem 0x2000) 2 (.mem lr0.addr) lr0.size = true ∧
    Writable (sLr0 4128) 7 (.mem 0x2000) 2 ∧ lr0.addr / 64 = 0x80 ∧
    PlainWrite (sLr0 4128) 0 { req1 with agent := 7 } := by
  simp only [Quiet, Runs, PlainGroup, PlainWrite, NoTrace, ownsNone_iff, writable_iff]; decide +kernel
theorem test_lrw_grant : let t := after (exec (.lrwGrant 0) (sQu none [wr 0 0]))
    (hartAt t 1).getX 6 = 3 ∧ (hartAt t 1).pc = 0x1004 ∧ holdsResv t.mem 1 0x2000 4 = true := by decide +kernel
theorem test_lrw_retry : let t := after (exec (.lrwWaitRetry 0 0) (sQu (some (hr 0)) [wr 61000 0]))
    (t.mem.resvs.map (fun q => q.waiters.map Resv.retries)) = [[1]] ∧
      (hartAt (after (exec (.lrwWaitRetry 0 0) (sQu (some (hr 0)) [wr 61000 1]))) 1).getC 0x342 = 30 := by decide +kernel
theorem test_revoke : (after (exec (.reservationRevoke 0) (sQu (some (hr 0)) []))).mem.resvs = [] ∧
    (after (exec (.reservationRevoke 0) (sQu (some (hr 4465)) []))).mem.resvs.length = 1 := by decide +kernel
theorem test_lr_hold : let t := after (exec (.lrHoldExpire 0) (sLr0 4128))
    bytes t 0x2000 2 = 0x1234 ∧ t.mem.lrs = [] ∧ (after (exec (.lrHoldExpire 0) (sLr0 4127))).mem.net.length = 1 := by decide +kernel
theorem test_recall : (after (exec (.recall 0x80) (sLr0 4128))).mem.dir = [] ∧ (after (exec (.recall 0x80) (sLr0 4128))).mem.lrs = [] ∧
    (after (exec (.recall 0x80) (sLr0 4100))).mem.lrs.length = 1 ∧
    (after (exec (.recall 0x80) (sLr0 4100))).mem.recalls = [0x80] := by decide +kernel
end Queues

section Leases
def stale (w : Word) (v : List (BitVec 8)) : SCopy := { holder := l1Holder 0, line := 0x80, words := w :: List.replicate 15 0, grant := 312, expiry := 376, vers := v }
def spec1 (c : SCopy) : Spec := { lines := [c], v := [(1, 4)], issued := [{ lpc := 0x2000 }] }
def sLease (c : SCopy) : State := { withMem s2 (fun m => { m with copies := [c] }) with harts := [(0, { g1 with spec := [spec1 c] })] }
/-- The line is being initialised; and a load of two lines with another instruction behind it. -/
def sLeaseIn (c : SCopy) : State := withMem (sLease c) (fun m => { m with inits := [(0, true)] })
def sLease2 (a b : SCopy) : State := { sLease a with harts := [(0, { g1 with spec := [{ spec1 a with lines := [a, b] }, { issued := [{ lpc := 0x200C }] }] })] }
def sSweep : State := { sLease { stale 0 [] with grant := 0 } with
  harts := [(0, { g1 with av := true, acqTick := 0 })], clk := 524288 }
def sWalk : State := withMem s1 (fun m => { m with walks := [{ entry := { vpage := 5 } }, { entry := { vpage := 6 }, killed := true }] })
theorem witness_Leases : (hartAt (sLease (stale 0x80FF [0, 0, 0, 0])) 0).spec = [spec1 (stale 0x80FF [0, 0, 0, 0])] ∧
    (spec1 (stale 0 [])).lines = [stale 0 []] ∧ (spec1 (stale 0 [])).mismatch = false ∧
    heldRead (sLease (stale 0x80FF [0, 0, 0, 0])) (.mem (0x80 * 64)) 64 = false ∧
    renewalMatches (sLease (stale 0x80FF [0, 0, 0, 0])).mem (stale 0x80FF [0, 0, 0, 0]) = true ∧
    renewalMatches (sLease (stale 1 [0, 0, 0, 0])).mem (stale 1 [0, 0, 0, 0]) = false ∧ sSweep.clk % 524288 = 0 ∧
    heldRead (sLeaseIn (stale 0 [])) (.mem (0x80 * 64)) 64 = true ∧
    sWalk.mem.walks[0]? = some { entry := { vpage := 5 } } ∧ (tfind sSweep.harts 0).isSome := by decide +kernel
theorem test_renewal : (hartAt (after (exec (.leaseRenewalReply 0) (sLease (stale 0x80FF [0, 0, 0, 0])))) 0).spec = [] ∧
    ((hartAt (after (exec (.leaseRenewalReply 0) (sLease (stale 1 [0, 0, 0, 0])))) 0).laneQ.map LaneEntry.lpc) = [0x2000] ∧
    (hartAt (after (exec (.leaseRenewalReply 0) (sLease (stale 1 [0, 0, 0, 0])))) 0).v = [(1, 4)] := by decide +kernel
/-- A load of two lines: the first renewal is noted; the second decides, and takes the later load back with it (14 R326). -/
theorem test_renewal_two : let c := stale 0x80FF [0, 0, 0, 0]; let b := stale 1 [0, 0, 0, 0]
    let t := after (exec (.leaseRenewalReply 0) (sLease2 b c)); let u := after (exec (.leaseRenewalReply 0) t)
    ((hartAt t 0).spec.map (fun w => (w.lines.length, w.mismatch))) = [(1, true), (0, false)] ∧ (hartAt u 0).spec = [] ∧
      ((hartAt u 0).laneQ.map LaneEntry.lpc) = [0x2000, 0x200C] := by decide +kernel
theorem test_sweep : (hartAt (after (exec (.leaseSweep 0) sSweep)) 0).av = false ∧
    (after (exec (.leaseSweep 0) sSweep)).mem.copies = [] := by decide +kernel
theorem test_walk : (after (exec (.pageWalkComplete 0) sWalk)).mem.tlbs.map Tlb.vpage = [5] ∧
    (after (exec (.pageWalkComplete 1) sWalk)).mem.tlbs = [] := by
  decide +kernel
/-- Page tables at 0x4000 to 0x7000 that map 0x5000 to 0x9000 (14 R311), which a group in user mode reads. -/
def sTables : State := withMem sH (fun m => { m with bytes := [(0x4000, 1#8), (0x4001, 0x14#8), (0x5000, 1#8), (0x5001, 0x18#8), (0x6000, 1#8),
  (0x6001, 0x1C#8), (0x7028, 0xD7#8), (0x7029, 0x24#8)] })
def tableCtx : Ctx := { satp := 0x9000000000000004 }
/-- After the walk completed, the walk cache answers for the root entry that a store has cleared since (14 R315, R317). -/
theorem test_walk_cache : let c := { tableCtx with part := (partOf sH 0).getD 0 }
    let w := ((xlate sTables c .load 0x5008).toOption.bind Xlat.entry).getD {}
    let s := after (exec (.pageWalkComplete 0) (withMem sTables (fun m => { m with walks := [w] })))
    let u := withMem s (fun m => { m with tlbs := [], bytes := m.bytes.filter (fun e => e.1 ≠ 0x4000) })
    ((xlate sTables c .load 0x5008).toOption.map Xlat.pa) = some 0x9008 ∧ s.mem.walkCache.map Tlb.lvl1 = [3, 2, 1] ∧
      ((xlate u c .load 0x5008).toOption.map Xlat.pa) = some 0x9008 ∧
      (xlate (withMem u (fun m => { m with walkCache := [] })) c .load 0x5008).toOption = none := by decide +kernel
end Leases

section Streamer
def cp : Copy := { src := 0x2000, dst := 0x3000, shape := 0x1000040, wg := 1, bar := 2, hart := 0, lkey := 1, pid := 0, started := true }
def sCp (c : Copy) : State := { withMem sw (fun m => { m with bytes := [(0x2005, 7#8)] }) with
  copies := [(0, c)],
  harts := [(0, { gw with run := .waitDep, wait := .copyOwn 0 })], wgs := [(1, { wg1 with bars := [(2, { expected := 1, arrived := 1, copies := 1 })] })] }
def cpOwned : Copy := { cp with ownRow := 1, segs := [(0, 0, .mem 0x3000, 64)] }
def cpDone : Copy := { cp with row := 1, ownRow := 1 }
def cpParked : Copy := { cp with parked := true, cause := 1, row := 0 }
def sCmd (b : Byte) : State := { sCp { cpParked with msgSent := true } with
  launches := [(1, { l1 with issuerWg := 1 })], mem := { (sCp cpParked).mem with scratch := [(0x1B, b)] } }
def sMsg : State := { sCp cpParked with
  launches := [(1, { l1 with issuerWg := 1 })], mem := { (sCp cpParked).mem with empty := [(5, true)] } }
def okPlaces (r : Except Nat (List (Nat × Loc × Nat))) (q : List (Nat × Loc × Nat)) : Bool :=
  match r with
  | .ok p => p == q
  | .error _ => false
def gPut : Hart := { gw with accState := [(3, 2)] }
def gFail : Hart := { g1 with accFails := [{ addr := 0x5000, lane := 9, kind := 2, name := 3 }] }
/-- A second copy of the launch that parked after the first. -/
def cpParked2 : Copy := { cpParked with parkSeq := 1 }
def sBefore : State := { sMsg with copies := [(0, cpParked), (1, cpParked2)] }
theorem witness_Streamer : OneRow cp 64 ∧ okPlaces (rowDest (sCp cp) cp 0) [(0, .mem 0x3000, 64)] = true ∧
    okPlaces (rowSource (withoutOwn (sCp cpOwned) 0) cpOwned 0) [(0, .mem 0x2000, 64)] = true ∧
    okPlaces (rowDest (withoutOwn (sCp cpOwned) 0) cpOwned 0) [(0, .mem 0x3000, 64)] = true ∧
    initBusy (sCp cpOwned).mem (.mem 0x2000) = false ∧ lrHolds (sCp cpOwned) 0xFFFFFB (.mem 0x3000) 64 = false ∧
    gesso (sCp cpOwned).mem 0x3000 = false ∧ partPoison (sCp cpOwned) 0x3000 64 = false ∧
    dropped (sCp cpOwned) 0 0 (.mem 0x2000) = false ∧ dropped (sCp cpOwned) 0 0 (.mem 0x3000) = false := by
  unfold OneRow; decide +kernel
theorem witness_CopyEnds :
    copyFinished (sCp cpDone) 0 cpDone = true ∧ copyFinished (sCp cpOwned) 0 cpOwned = false ∧
    issuerOwns sMsg (launchAt sMsg 1) (.win 0x14) = true ∧ issuerOwns { sMsg with bankOwner := [] } (launchAt sMsg 1) (.win 0x14) = false ∧ isFull sMsg.mem (.win 0x14) = false ∧
    heldWrite sMsg 0xFFFFFB (.win 0x14) 4 = false ∧ Commands (sCmd 0x40) 1 0x40000000 ∧ Commands (sCmd 0x80) 1 0x80000000 ∧
    namedCopy 0x40000000 = 0 ∧ accSt gPut 3 = 2 ∧ mayInterrupt (one gFail) gFail = true ∧
    RowWalks (sCp cp) cp .store ∧ RowWalks (sCp cpOwned) cpOwned .load ∧ updating (sCp cpOwned) (.mem 0x3000) 64 = false ∧
      messageBefore sMsg (.win 0x14) 0 = false ∧ messageBefore sBefore (.win 0x14) 1 = true := by
  unfold Commands NoneParked RowWalks; decide +kernel
theorem test_copy_ownership : let t := after (exec (.copyOwnership 0) (sCp cp))
    (copyAt t 0).ownRow = 1 ∧ (hartAt t 0).pc = 0x1004 ∧ (hartAt t 0).wait = .nothing := by decide +kernel
theorem test_streamer : let t := after (exec (.streamerRound 0) (sCp cpOwned)); bytes t 0x3000 8 = 0x70000000000 ∧
    (copyAt t 0).row = 1 := by decide +kernel
theorem test_copy_complete : let t := after (exec (.copyComplete 0) (sCp cpDone)); (tfind t.copies 0).isNone ∧ (barAt t 2).phase = true ∧
    (barAt t 2).copies = 0 := by decide +kernel
theorem test_copy_message : homeValue (after (exec (.copyFaultMessage 0) sMsg)) (.win 0x14) 4 = 0x90000000 := by decide +kernel
theorem test_copy_commands : (copyAt (after (exec (.copyResume 1) (sCmd 0x40))) 0).parked = false ∧
    isFull (after (exec (.copyResume 1) (sCmd 0x40))).mem (.win 0x18) = false ∧
    (launchAt (after (exec (.copyDiscard 1) (sCmd 0x80))) 1).cdisc = true := by decide +kernel
theorem test_accst_outcome : accSt (hartAt (after (exec (.accstStoresAcked 0 3) { sw with harts := [(0, gPut)] })) 0) 3 = 0 ∧
    (hartAt (after (exec (.accstStoreFault 0) (one gFail))) 0).getC 0x342 = 48 ∧
    (hartAt (after (exec (.accstStoreFault 0) (one gFail))) 0).getC 0x343 = 0x5000 := by decide +kernel
end Streamer

section Decoding
/-- Words written from 05 R121–R129, family by family. -/
theorem test_decode_lane_stream : decodeScalar 0x0080000B = .ok (.lrun 8) := rfl
theorem test_decode_masks : decodeScalar 0x0037B78B = .ok (.mand 15 15 3) ∧ decodeScalar 0x0C07B00B = .ok (.mpush 15) ∧
    decodeScalar 0x0E00378B = .ok (.mpop 15) ∧ decodeScalar 0x0001DC0B = .ok (.bmnone 3 12) := ⟨rfl, rfl, rfl, rfl⟩
theorem test_decode_sync : decodeScalar 0x008502AB = .ok (.ldfe 5 10 8) ∧ decodeScalar 0x0065B02B = .ok (.stff 11 6 0) ∧
    decodeScalar 0x00C5402B = .ok (.feclr 10 12) ∧ decodeScalar 0x000552AB = .ok (.lrwW 5 10) ∧
    decodeScalar 0x0475532B = .ok (.schW 6 10 7) ∧
    decodeScalar 0x01D0602B = .ok (.fenceS 3 5) := ⟨rfl, rfl, rfl, rfl, rfl, rfl⟩
theorem test_decode_barriers : decodeScalar 0x022072AB = .ok (.barArrive 5 2) ∧ decodeScalar 0x0422F02B = .ok (.barWait 2 5) ∧
    decodeScalar 0x081072AB = .ok (.gbarArrive 5 1) ∧ decodeScalar 0x0A12F02B = .ok (.gbarWait 1 5) := ⟨rfl, rfl, rfl, rfl⟩
theorem test_decode_work : decodeScalar 0x000502DB = .ok (.launch 5 10) ∧ decodeScalar 0x06B512DB = .ok (.fork 5 10 11 3) := ⟨rfl, rfl⟩
theorem test_decode_engines : decodeScalar 0x60B5017B = .ok (.cpy 2 10 11 12) ∧ decodeScalar 0x000510FB = .ok (.mld 1 0 10) ∧
    decodeScalar 0x0030207B = .ok (.accGet 3) ∧ decodeScalar 0x0100307B = .ok (.lbind 16) ∧
    decodeScalar 0x2A50407B = .ok (.mark 677) := ⟨rfl, rfl, rfl, rfl, rfl⟩
/-- Words of the standard encoding. -/
theorem test_decode_integer : decodeScalar 0x12345537 = .ok (.lui 10 0x12345) ∧ decodeScalar 0x010000EF = .ok (.jal 1 8) ∧
    decodeScalar 0xFE000EE3 = .ok (.beq 0 0 0xFFE) ∧ decodeScalar 0x00B53423 = .ok (.sd 10 11 8) ∧
    decodeScalar 0x40B50533 = .ok (.sub 10 10 11) ∧
    decodeScalar 0x027302BB = .ok (.mulw 5 6 7) := ⟨rfl, rfl, rfl, rfl, rfl, rfl⟩
theorem test_decode_atomics : decodeScalar 0x100522AF = .ok (.lrW 5 10 false false) ∧
    decodeScalar 0x067532AF = .ok (.amoaddD 5 10 7 true true) := ⟨rfl, rfl⟩
theorem test_decode_system : decodeScalar 0x80202573 = .ok (.csrrs 10 0 0x802) ∧ decodeScalar 0x680542F3 = .ok (.hlvW 5 10) ∧
    decodeScalar 0x6EB54073 = .ok (.hsvD 10 11) ∧ decodeScalar 0x12050073 = .ok (.sfenceVma 10 0) ∧
    decodeScalar 0x62B50073 = .ok (.hfenceGvma 10 11) ∧
    decodeScalar 0x10500073 = .ok .wfi ∧ decodeScalar 0x0100000F = .ok .pause ∧
    decodeScalar 0x8330000F = .ok (.fenceTso 0 0) := ⟨rfl, rfl, rfl, rfl, rfl, rfl, rfl, rfl⟩
/-- Compressed words, absent extensions and reserved fields are refused by name (05 R120, R122, R129, R130). -/
theorem test_decode_refused : decodeScalar 0x00000001 = .error .compressed ∧ decodeScalar 0x00000007 = .error .absentOpcode ∧
    decodeScalar 0x00002063 = .error .reservedFields ∧ decodeScalar 0x0000001F = .error .longEncoding := ⟨rfl, rfl, rfl, rfl⟩
/-- Words of 05 R136's example and of the examples of chapters 08 and 09. -/
theorem test_decode_lane_math : decodeLane 0x00007008030C005010082023 = .ok (.ffma ffmaExample) ∧
    decodeLane 0x000003E8023E000020090080 = .ok (.iaddJ iaddExample) := ⟨rfl, rfl⟩
def wl (b : LaneBase) (mod : BitVec 20) (sc : BitVec 10) : LaneL := { base := b, mod20 := mod, kc := 0, sc := sc }
def bl (fn ty : BitVec 4) (vd sa sb : BitVec 10) (ka kb : BitVec 2) (ms st : BitVec 4) : LaneBase :=
  { mod4 := 0, yl := 0, st := st, mn := 0, ms := ms, kb := kb, ka := ka, sb := sb, sa := sa, vd := vd, ty := ty, fn := fn }
theorem test_decode_lane_moves : decodeLane 0x01800000043D009014061141 = .ok (.shfl (wl (bl 1 1 6 5 9 0 1 15 8) 0x1800 0)) ∧
    decodeLane 0x00000000023C000020050043 = .ok (.lred (wl (bl 0 0 5 8 0 0 0 15 4) 0 0)) ∧
    decodeLane 0x000000000004000010521045 = .ok (.disp (wl (bl 0 1 82 4 0 0 0 1 0) 0 0)) := ⟨rfl, rfl, rfl⟩
theorem test_decode_lane_memory : decodeLane 0x00200000003F400028082050 = .ok (.laneLd (wl (bl 0 2 8 10 0 1 3 15 0) 0x200 0)) ∧
    decodeLane 0x00A00000003C000100043068 = .ok (.mma (wl (bl 0 3 4 64 0 0 0 15 0) 0xA00 0)) := ⟨rfl, rfl⟩
theorem test_decode_lane_limbs : decodeLane 0x0F500000043C0080100C1070 = .ok (.ladd (wl (bl 0 1 12 4 8 0 0 15 8) 0xF500 0)) ∧
    decodeLane 0x00000015063D009040141074 = .ok (.lmac (wl (bl 0 1 20 16 9 0 1 15 12) 0 21)) := ⟨rfl, rfl⟩
theorem test_decode_lane_refused : decodeLane 0x7F = .error .laneReserved ∧ decodeLane 0x84 = .error .laneNoJForm := ⟨rfl, rfl⟩
theorem test_encode : encode (.sd 10 11 8) = [0x00B53423] ∧ encode (.ffma ffmaExample) = [0x10082023, 0x030C0050, 0x00007008] := ⟨rfl, rfl⟩
end Decoding

section IllFormed
/-- One ill-formed term for each check of the scalar fields, all refused, beside a well-formed one. -/
noncomputable def illFormed : List Instr :=
  [.lrun 0, .lrun 65, .mand 16 0 0, .mor 0 16 0, .mxor 0 0 16, .mandn 31 0 0, .mnot 0 16, .mmov 16 0, .mpush 16, .mpop 16, .mpeek 16 0, .mpeek 0 16,
   .mpoke 16 0, .mpoke 0 16, .mcnt 0 16, .mfirst 0 16, .mgetx 0 16 0, .mgetx 0 0 2, .msetx 16 0 0, .msetx 0 0 2, .bmany 16 0, .bmnone 16 0,
   .bmall 16 0, .fenceS 0 0, .fenceS 1 7] ++
  [.barInit 16 0, .barArrive 0 16, .barWait 16 0, .barQuery 0 16, .gbarArrive 0 8, .gbarWait 8 0, .cpy 16 0 0 0, .cpyRs 16 0 0 0, .cpyPf 16 0 0,
   .mld 4 0 0, .accGet 16, .accPut 16, .accZero 16, .lbind 3, .lbind 256, .fence 8 3 3 0 0, .fence 0 1 0 0 0]
theorem test_ill_formed : illFormed.all (fun i => !i.wellFormed) = true := by decide +kernel
theorem test_well_formed : Instr.wellFormed (.lrun 64) = true ∧ Instr.wellFormed (.lbind 128) = true ∧
    Instr.wellFormed (.fenceS 2 6) = true ∧
    Instr.wellFormed (.mpeek 15 15) = true := by decide +kernel
/-- A well-formed instruction of each stream, for the statements of encoding. -/
theorem witness_Encoding : (encode (.lrun 8)).length = 1 ∧ Instr.wellFormed (.lrun 8) = true ∧
    (encode (.ffma ffmaExample)).length = 3 := ⟨rfl, rfl, rfl⟩
end IllFormed

section Stepping
/-- Group 0 has a scalar turn at a word of memory. -/
def sTurn (w : Word) (h : Hart) : State := { withMem (one h) (fun m => writeBytes m (.mem 0x1000) (leBytes 4 w.toNat)) with turns := [.scalar 0] }
/-- It has a lane turn with one entry. -/
def sLane (e : LaneEntry) : State := { one { gv with laneQ := [e], iss := {} } with turns := [.lane 0] }
def addE : LaneEntry := { word := 0x000003E8023E000020090080, lpc := 0x2000, pc := 0x1000, rem := 1 }
def fetchIs (s : State) (h : Hart) (w : Word) : Bool :=
  match fetchWord s h h.pc with
  | .ok (_, v) => v == w
  | .error _ => false
def scalarGoes (s : State) (k : Nat) (rest : List Turn) (h : Hart) : Bool :=
  let b := { s with turns := rest }
  decide (s.inputs = []) && decide (s.turns = .scalar k :: rest) && decide (tfind s.harts k = some h) && !dueEnd b h &&
    (takeIrq b k).isNone && h.loads.isEmpty && mayTry b k h && !irqFirst b h && !fetchHeld b k h h.pc
theorem scalarTurn_of {s : State} {k : Nat} {rest : List Turn} {h : Hart} (c : scalarGoes s k rest h = true) : ScalarTurn s k rest h := by
  unfold scalarGoes at c
  simp only [Bool.and_eq_true, decide_eq_true_iff, Bool.not_eq_true', Option.isNone_iff_eq_none, List.isEmpty_iff] at c
  obtain ⟨⟨⟨⟨⟨⟨⟨⟨a, b⟩, f⟩, d⟩, i⟩, l⟩, m⟩, q⟩, w⟩ := c
  exact ⟨a, b, ⟨f, d, i⟩, l, m, q, w⟩
def laneGoes (s : State) (k : Nat) (rest : List Turn) (h : Hart) (e : LaneEntry) (q : List LaneEntry) : Bool :=
  let b := { s with turns := rest }
  decide (s.inputs = [] ∧ s.turns = .lane k :: rest ∧ tfind s.harts k = some h) && !dueEnd b h && (takeIrq b k).isNone &&
    decide (h.tasklet = false ∧ h.run ≠ .empty ∧ h.run ≠ .exited ∧ h.run ≠ .stopped ∧ h.laneFe = none ∧ h.laneQ = e :: q)
theorem laneTurn_of {s : State} {k : Nat} {rest : List Turn} {h : Hart} {e : LaneEntry} {q : List LaneEntry}
    (c : laneGoes s k rest h e q = true) : LaneTurn s k rest h e q := by
  unfold laneGoes at c
  simp only [Bool.and_eq_true, decide_eq_true_iff, Bool.not_eq_true', Option.isNone_iff_eq_none] at c
  obtain ⟨⟨⟨⟨a, b, f⟩, d⟩, i⟩, g⟩ := c
  exact ⟨a, b, ⟨f, d, i⟩, g⟩
/-- The group with an entry in its lane queue, with a misaligned fetch, and waiting at a full lane queue with an interrupt pending. -/
def gQ : Hart := { g1 with laneQ := [addE] }
def gFar : Hart := { g1 with pc := 0x8300000000 }
def gWi : Hart := { gIm with run := .waitDep, wait := .place (.mem 0x2000) 4 true }
def sWi : State := { withMem (sTurn 0xFFF50513 gWi) (fun m => { m with inits := [(0, true)] }) with turns := [.scalar 0] }
def badE : LaneEntry := { addE with bad := some { cause := 1 } }
def oddE : LaneEntry := { addE with word := 0x7F }
theorem witness_StepRunsDecoded :
    ScalarTurn (sTurn 0xFFF50513 g1) 0 [] g1 ∧ fetchIs { sTurn 0xFFF50513 g1 with turns := [] } g1 0xFFF50513 = true ∧
    decodeScalar 0xFFF50513 = .ok (.addi 10 10 (-1)) ∧ ScalarTurn (sTurn 1 g1) 0 [] g1 ∧
    fetchIs { sTurn 1 g1 with turns := [] } g1 1 = true ∧ ScalarTurn (sTurn 0x0080000B gQ) 0 [] gQ ∧ AppendsBatch (.lrun 8) ∧
    ¬ AppendsBatch (.addi 10 10 (-1)) ∧ ScalarTurn (sTurn 0xFFF50513 gFar) 0 [] gFar ∧
    (fetchWord { sTurn 0xFFF50513 gFar with turns := [] } gFar gFar.pc).toOption.isNone = true ∧
    LaneTurn (sLane addE) 0 [] { gv with laneQ := [addE], iss := {} } addE [] ∧ addE.bad.isNone ∧
    decodeLane addE.word = .ok (.iaddJ iaddExample) ∧ LaneTurn (sLane badE) 0 [] { gv with laneQ := [badE], iss := {} } badE [] ∧
    (decodeLane oddE.word).toOption.isNone = true ∧ tfind sWi.harts 0 = some gWi ∧ dueEnd { sWi with turns := [] } gWi = false ∧
    (takeIrq { sWi with turns := [] } 0).isSome = true ∧ mayTry { sWi with turns := [] } 0 gWi = false := by
  refine ⟨scalarTurn_of (by decide +kernel), by decide +kernel, rfl, scalarTurn_of (by decide +kernel), by decide +kernel,
    scalarTurn_of (by decide +kernel), Or.inl ⟨8, rfl, by decide⟩, ?_, scalarTurn_of (by decide +kernel), by decide +kernel,
    laneTurn_of (by decide +kernel), rfl, rfl, laneTurn_of (by decide +kernel), by decide +kernel, rfl, by decide +kernel⟩
  rintro (⟨n, h, -⟩ | ⟨r, h⟩) <;> cases h
theorem test_step_scalar : x (after (step (sTurn 0xFFF50513 g1))) 10 = 0x1FFF ∧
    (after (step (sTurn 0xFFF50513 g1))).turns = [] := by decide +kernel
theorem test_step_illegal : (curHart (after (step (sTurn 1 g1)))).getC 0x342 = 2 ∧
    (curHart (after (step (sTurn 1 g1)))).getC 0x343 = 1 := by decide +kernel
theorem test_step_lane : word (step (sLane addE)) 9 0 = 1000 ∧ word (step (sLane addE)) 8 0 = 0 := by decide +kernel
theorem test_step_tick : (after (step (one g1))).clk = 5001 := by decide +kernel
theorem test_step_input : (hartAt (after (step { s1 with inputs := [.starvationBoost 0, .powerOn] })) 0).pc = 0x1000 := by decide +kernel
/-- From reset: the package is off, and its first clk orders its power-on (18 R397). -/
theorem test_reset : State.reset.hub.powered = false ∧ (after (step State.reset)).clk = 1 ∧
    (after (step State.reset)).inputs.length = 1 := by decide +kernel
theorem witness_MemoryForm : Memory.wf State.reset.mem = true ∧ Memory.wf s2.mem = true ∧ Memory.wf sw.mem = true := by decide +kernel
/-- A lane instruction placed for the next step (05 R136's example): every lane of v9 becomes 1000. -/
theorem test_step_lane_word : word (step (State.withFetchWord State.reset 96 0x000003E8023E000020090080)) 9 77 = 1000 := by decide +kernel
/-- A workgroup of two groups with one barrier: it starts with both expected and nothing arrived (07 R177). -/
def sLaunched : State := { launches := [(1, { pid := 15, kernels := [{ groups := 2, barriers := 1 }] })] }
theorem witness_BarReset : let w := wgAt (admitWg sLaunched 0 0 0 { lkey := 1 }) sLaunched.nextWg
    0 < w.nbars ∧ w.size = 2 ∧ tget {} w.bars 0 = { expected := 2 } := by decide +kernel
end Stepping


end Sys2Proof.Tests
end

namespace Sys2Proof.Outside
open Sys2Proof Sys2Proof.Machine Sys2Proof.Laws Sys2Proof.Claims

/-! Accesses from outside the package's harts (00 R10; 15 R353, R354; 18 R392–R396): the rules of the operations they share, in the order
of the model, and O43, which follows from them. -/

section Contents
/-- What bytes can be read of: main memory, scratchpads, mailbox words and host memory. -/
def contents (m : Mem) : List Host.Cell × List Host.Cell × Table Word × List Host.Cell := (m.bytes, m.scratch, m.mbox, m.host)
theorem readBytes_of_contents {m m' : Mem} (h : contents m = contents m') (l : Loc) (n : Nat) : readBytes m l n = readBytes m' l n := by
  simp only [contents, Prod.mk.injEq] at h
  obtain ⟨hbytes, hscratch, hmbox, hhost⟩ := h
  cases l <;> simp only [readBytes, mboxByte, hbytes, hscratch, hmbox, hhost]
theorem sameBytes_of_contents {s t : State} (h : contents t.mem = contents s.mem) : SameBytes s t :=
  readBytes_of_contents h
/-- The check of a granule changes its mark and its channel's count alone (15 R342). -/
theorem noteGranule_part {α : Type} (f : Mem → α) (hf : ∀ m p e, f { m with poison := p, tagErr := e } = f m) (s : State) (g : Nat) :
    f (noteGranule s g).mem = f s.mem := by
  unfold noteGranule
  split
  · exact hf _ _ _
  · rfl
theorem notePoison_part {α : Type} (f : Mem → α) (hf : ∀ m p e, f { m with poison := p, tagErr := e } = f m) (s : State) (l : Loc) :
    f (notePoison s l).mem = f s.mem := by
  cases l
  case mem a => exact noteGranule_part f hf s _
  all_goals rfl
end Contents

section Writes
theorem getBytes_putBytes_apart (t : Table Byte) {a b k : Nat} {bs : List Byte} (h : ranges b k a bs.length = false) :
    getBytes (putBytes t a bs) b k = getBytes t b k := by
  unfold getBytes
  refine List.map_congr_left fun i hi => ?_
  have hlt : i < k := List.mem_range.1 hi
  have hout : ¬ (a ≤ b + i ∧ b + i < a + bs.length) := by
    simp only [ranges, decide_eq_false_iff_not] at h; omega
  rw [tget_putBytes, if_neg hout]
/-- One byte of a word in which one byte was replaced. -/
theorem extractByte_insertByte (w : Word) (x : Byte) {p q : Nat} (hq : q < 4) :
    ((w &&& ~~~((0xFF : Word) <<< (p * 8))) ||| (x.setWidth 32 <<< (p * 8))).extractLsb' (q * 8) 8 =
      if p = q then x else w.extractLsb' (q * 8) 8 := by
  rw [show (0xFF : Word) = (BitVec.allOnes 8).setWidth 32 from rfl]
  refine BitVec.eq_of_getLsbD_eq fun i hi => ?_
  have hw : q * 8 + i < 32 := by omega
  simp only [BitVec.getLsbD_extractLsb', hi, decide_true, Bool.true_and, BitVec.getLsbD_or, BitVec.getLsbD_and, BitVec.getLsbD_not,
    BitVec.getLsbD_shiftLeft, hw, BitVec.getLsbD_setWidth, BitVec.getLsbD_allOnes]
  by_cases hpq : p = q
  · subst hpq
    have hi' : i < 32 := by omega
    simp [hi, hi']
  · rw [if_neg hpq]
    by_cases hlt : q * 8 + i < p * 8
    · simp [hlt, hi]
    · have hge : 8 ≤ q * 8 + i - p * 8 := by omega
      simp [hlt, hi, Nat.not_lt.2 hge, BitVec.getLsbD_of_ge x _ hge]
theorem mboxByte_mboxPut_one (m : Mem) (b c : Nat) (x : Byte) : mboxByte (mboxPut m b [x]) c = if b = c then x else mboxByte m c := by
  simp only [mboxPut, mboxByte]
  rw [tget_tset]
  by_cases hw : b / 4 = c / 4
  · have hbyte : b % 4 = c % 4 ↔ b = c := by omega
    rw [if_pos hw, hw, extractByte_insertByte _ _ (Nat.mod_lt _ (by omega))]
    simp only [hbyte]
  · have hne : b ≠ c := fun e => hw (by rw [e])
    rw [if_neg hw, if_neg hne]
theorem mboxPut_cons (m : Mem) (b : Nat) (x : Byte) (r : List Byte) : mboxPut m b (x :: r) = mboxPut (mboxPut m b [x]) (b + 1) r := rfl
/-- A byte of the mailbox words after a write: the byte written there, or what was there before. -/
theorem mboxByte_mboxPut (m : Mem) (b : Nat) (bs : List Byte) (c : Nat) :
    mboxByte (mboxPut m b bs) c = if b ≤ c ∧ c < b + bs.length then bs.getD (c - b) 0 else mboxByte m c := by
  induction bs generalizing m b with
  | nil => have : ¬ (b ≤ c ∧ c < b) := by omega
           simp [mboxPut, this]
  | cons x r ih =>
    rw [mboxPut_cons, ih, mboxByte_mboxPut_one, List.length_cons]
    by_cases hfirst : b = c
    · subst hfirst
      simp
    · by_cases hin : b ≤ c ∧ c < b + (r.length + 1)
      · have hrest : b + 1 ≤ c ∧ c < b + 1 + r.length := by omega
        have hidx : c - b = (c - (b + 1)) + 1 := by omega
        rw [if_pos hin, if_pos hrest, hidx, List.getD_cons_succ]
      · have hrest : ¬ (b + 1 ≤ c ∧ c < b + 1 + r.length) := by omega
        rw [if_neg hin, if_neg hrest, if_neg hfirst]
/-- A write of mailbox words leaves the other memories alone. -/
theorem mboxPut_rest (m : Mem) (b : Nat) (bs : List Byte) : mboxPut m b bs = { m with mbox := (mboxPut m b bs).mbox } := by
  induction bs generalizing m b with
  | nil => rfl
  | cons x r ih => exact ih _ _
theorem mboxPut_mboxFull (m : Mem) (b : Nat) (bs : List Byte) : (mboxPut m b bs).mboxFull = m.mboxFull := by rw [mboxPut_rest]
theorem mboxPut_empty (m : Mem) (b : Nat) (bs : List Byte) : (mboxPut m b bs).empty = m.empty := by rw [mboxPut_rest]
theorem readBytes_mboxPut (m : Mem) (b : Nat) (bs : List Byte) : readBytes (mboxPut m b bs) (.mbox b) bs.length = bs := by
  apply List.ext_getElem
  · simp [readBytes]
  · intro i h1 h2
    simp [readBytes, mboxByte_mboxPut, h2]
theorem readBytes_mboxPut_apart (m : Mem) (b : Nat) (bs : List Byte) (l : Loc) (k : Nat) (h : overlaps l k (.mbox b) bs.length = false) :
    readBytes (mboxPut m b bs) l k = readBytes m l k := by
  cases l
  case mbox c =>
    refine List.map_congr_left fun i hi => ?_
    have hlt : i < k := List.mem_range.1 hi
    have hout : ¬ (b ≤ c + i ∧ c + i < b + bs.length) := by
      simp only [overlaps, ranges, decide_eq_false_iff_not] at h; omega
    rw [mboxByte_mboxPut, if_neg hout]
  case mem a => rw [mboxPut_rest]; rfl
  case win a => rw [mboxPut_rest]; rfl
  case host a => rw [mboxPut_rest]; rfl
  all_goals rfl
theorem readBytes_writeMem_apart (m : Mem) (a : Nat) (bs : List Byte) (l : Loc) (k : Nat) (h : overlaps l k (.mem a) bs.length = false) :
    readBytes (writeBytes m (.mem a) bs) l k = readBytes m l k := by
  cases l
  case mem b => exact getBytes_putBytes_apart m.bytes h
  all_goals rfl
/-- What is left of memory's bytes after a write of a number at a place of main memory. -/
theorem wroteBytes_mem {s t : State} {a n v : Nat} (h : contents t.mem = contents (writeBytes s.mem (.mem a) (leBytes n v))) :
    WroteBytes s t (.mem a) n v := by
  have hlen := leBytes_length n v
  constructor
  · have hread := (readBytes_writeBytes s.mem a (leBytes n v)).1
    rw [hlen] at hread
    exact (readBytes_of_contents h _ _).trans hread
  · intro l k hl
    exact (readBytes_of_contents h l k).trans (readBytes_writeMem_apart _ _ _ _ _ (by rw [hlen]; exact hl))
/-- The same at a mailbox slot. -/
theorem wroteBytes_mbox {s t : State} {b n v : Nat} (h : contents t.mem = contents (mboxPut s.mem b (leBytes n v))) :
    WroteBytes s t (.mbox b) n v := by
  have hlen := leBytes_length n v
  constructor
  · have hread := readBytes_mboxPut s.mem b (leBytes n v)
    rw [hlen] at hread
    exact (readBytes_of_contents h _ _).trans hread
  · intro l k hl
    exact (readBytes_of_contents h l k).trans (readBytes_mboxPut_apart _ _ _ _ _ (by rw [hlen]; exact hl))
end Writes

section Counters
theorem tget_count (s : State) (cls tile unit ev n k : Nat) (h : counterKey cls tile unit ev ≠ k) :
    tget 0 (count s cls tile unit ev n).counters k = tget 0 s.counters k := by
  unfold count
  simp only [tget_tset, if_neg h]
theorem sliceCounts_count (s : State) {tile ev : Nat} (n : Nat) (ht : tile < 256) (he : ev ≤ 3) :
    SliceCounts s (count s 2 tile 0 ev n) := by
  intro k hk
  apply tget_count
  unfold counterKey
  omega
theorem sliceCounts_trans {s t u : State} (h : SliceCounts s t) (g : SliceCounts t u) : SliceCounts s u :=
  fun k hk => (g k hk).trans (h k hk)
theorem homeOf_lt (a : Nat) : homeOf a < 256 := Nat.mod_lt _ (by omega)
theorem sliceCounts_l2Count (s : State) (line : Nat) (hit : Bool) : SliceCounts s (l2Count s line hit) := by
  have ht := homeOf_lt (line * 64)
  unfold l2Count
  dsimp only
  split
  · exact sliceCounts_count s 1 ht (by omega)
  · split
    · exact sliceCounts_count s 1 ht (by omega)
    · exact sliceCounts_trans (sliceCounts_count s 1 ht (by omega)) (sliceCounts_count _ 64 ht (by omega))
theorem sliceCounts_l2Touch (s : State) (line : Nat) : SliceCounts s (l2Touch s line) := by
  have hcount := sliceCounts_l2Count s line (l2Hit s.mem (lineOwner s line) line)
  unfold l2Touch
  dsimp only
  split
  · exact hcount
  · split
    · exact hcount
    · exact hcount
/-- An access at its slices advances no counter but theirs (16 R362). -/
theorem sliceCounts_l2Span (s : State) (a n : Nat) : SliceCounts s (l2Span s a n) := by
  unfold l2Span
  generalize granulesOf a n = l
  induction l generalizing s with
  | nil => exact fun _ _ => rfl
  | cons g r ih => exact sliceCounts_trans (sliceCounts_l2Touch s g) (ih _)
end Counters

section HomeWrites
/-- A write of bytes of main memory, performed at its home. -/
def storedAt (s : State) (k a : Nat) (bs : List Byte) : State :=
  noteWrite (modMem s (fun m => tagWritten s (writeBytes m (.mem a) bs) a bs.length)) k (.mem a) bs.length
theorem homeWriteN_writable {s : State} {k a n : Nat} (v : DWord) (h : Writable s k (.mem a) n) :
    homeWriteN s k (.mem a) n v = (storedAt s k a (leBytes n v.toNat), true) := by
  obtain ⟨hheld, hopen⟩ := h
  obtain ⟨hgesso, hpoison⟩ := hopen a rfl
  unfold homeWriteN homeWrite storedAt
  simp only [leBytes_length, hheld, hgesso, hpoison, Bool.false_eq_true, if_false]
theorem contents_tagWritten (s : State) (m : Mem) (a n : Nat) : contents (tagWritten s m a n) = contents m := by
  unfold tagWritten
  generalize granulesOf a n = l
  induction l generalizing m with
  | nil => rfl
  | cons g r ih => exact ih _
theorem contents_bumpVers (m : Mem) (a n : Nat) : contents (bumpVers m a n) = contents m := by
  unfold bumpVers
  generalize List.range _ = l
  induction l generalizing m with
  | nil => rfl
  | cons i r ih => exact ih _
theorem contents_l2Span (s : State) (a n : Nat) : contents (l2Span s a n).mem = contents s.mem :=
  l2Span_part (fun t => contents t.mem) (fun _ _ => rfl) s a n
theorem contents_noteWrite (s : State) (k a n : Nat) : contents (noteWrite s k (.mem a) n).mem = contents s.mem :=
  (contents_l2Span _ a n).trans (contents_bumpVers _ a n)
theorem contents_storedAt (s : State) (k a : Nat) (bs : List Byte) :
    contents (storedAt s k a bs).mem = contents (writeBytes s.mem (.mem a) bs) :=
  (contents_noteWrite _ k a _).trans (contents_tagWritten s _ a _)
/-- A performed write changes memory and counters alone. -/
theorem storedAt_rest (s : State) (k a : Nat) (bs : List Byte) :
    storedAt s k a bs = { s with mem := (storedAt s k a bs).mem, counters := (storedAt s k a bs).counters } := by
  have hspan := fun u => l2Span_part (fun t => { t with mem := {}, counters := [] }) (fun _ _ => rfl) u a bs.length
  exact congrArg (fun t => { t with mem := (storedAt s k a bs).mem, counters := (storedAt s k a bs).counters }) (hspan _)
theorem sliceCounts_noteWrite (s : State) (k a n : Nat) : SliceCounts s (noteWrite s k (.mem a) n) := by
  unfold noteWrite
  intro j hj
  exact (sliceCounts_count _ _ (homeOf_lt a) (Nat.le_refl 3) j hj).trans (sliceCounts_l2Span _ a n j hj)
theorem sliceCounts_storedAt (s : State) (k a : Nat) (bs : List Byte) : SliceCounts s (storedAt s k a bs) :=
  sliceCounts_noteWrite (modMem s _) k a bs.length
end HomeWrites

section Travelling
/-- The state in which exactly these writes and reads are on their way. -/
def withNet (s : State) (l : List Req) : State := modMem s (fun m => { m with net := l })
@[simp] theorem withNet_net (s : State) (l : List Req) : (withNet s l).mem.net = l := rfl
theorem withNet_self {s : State} {l : List Req} (h : s.mem.net = l) : withNet s l = s := by subst h; rfl
theorem send_quiet {s : State} (hq : Quiet s) (q : Req) : modMem s (fun m => { m with net := m.net ++ [q] }) = withNet s [q] := by
  simp only [withNet, modMem, hq.1, List.nil_append]
/-- The only write on its way is performed where it passes and nothing but its home can hold it. -/
theorem flushIf_single {p : Req → Bool} {s t : State} {q : Req} (hnet : s.mem.net = [q]) (hp : p q = true) (hred : q.red = none)
    (hfull : q.full = false) (hread : q.read = false) (hdone : performReq s q = (t, true)) :
    flushIf p s = (withNet t [], true) := by
  have hbehind : behind [] q = false := rfl
  unfold flushIf
  simp only [hnet, List.foldl_cons, List.foldl_nil, flushOne, hp, hred, hfull, hread, hbehind, hdone, Option.isSome_none, Bool.not_true,
    Bool.or_self, Bool.false_eq_true, if_false]
  rfl
/-- A set-full write stays on its way until it arrives at its slot. -/
theorem flushIf_full {p : Req → Bool} {s : State} {q : Req} (hnet : s.mem.net = [q]) (hfull : q.full = true) : (flushIf p s).1 = s := by
  have hstays : (flushOne p (s, [], true) q).1 = s ∧ (flushOne p (s, [], true) q).2.1 = [q] := by
    unfold flushOne
    simp only [hfull, Bool.or_true, Bool.true_or, if_true]
    split <;> exact ⟨rfl, rfl⟩
  unfold flushIf
  simp only [hnet, List.foldl_cons, List.foldl_nil, hstays]
  exact withNet_self hnet
theorem loadsOpen_outsider {s : State} {k : Nat} (h : Outsider s k) : loadsOpen s k = false := by
  have hhart : hartAt s k = {} := by rw [hartAt, tget_eq_getD, h]; rfl
  unfold loadsOpen
  rw [hhart]; rfl
theorem poisoned_withNet (s : State) (net : List Req) (l : Loc) (n : Nat) : poisoned (withNet s net) l n = poisoned s l n := by
  cases l <;> rfl
theorem heldRead_withNet (s : State) (net : List Req) (l : Loc) (n : Nat) : heldRead (withNet s net) l n = heldRead s l n := by
  cases l <;> rfl
/-- Where nothing was on its way, a write on its way that is no remote update under way holds no write back. -/
theorem heldWrite_sent {s : State} (hq : Quiet s) (k : Nat) (l : Loc) (n : Nat) {q : Req} (hbegun : q.begun = false) :
    heldWrite (withNet s [q]) k l n = heldWrite s k l n := by
  have hsent : updating (withNet s [q]) l n = false := by simp [updating, hbegun]
  have hnone : updating s l n = false := by simp [updating, hq.1]
  unfold heldWrite
  rw [hsent, hnone, heldRead_withNet]
  cases l <;> rfl
theorem writable_sent {s : State} (hq : Quiet s) {k : Nat} {l : Loc} {n : Nat} {q : Req} (hbegun : q.begun = false)
    (h : Writable s k l n) : Writable (withNet s [q]) k l n := by
  obtain ⟨hheld, hopen⟩ := h
  refine ⟨(heldWrite_sent hq k l n hbegun).trans hheld, fun a ha => ?_⟩
  rw [poisoned_withNet]
  exact hopen a ha
/-- A plain write from the hub, to a place of main memory where nothing stops it, is performed. -/
theorem performReq_fromHub {s : State} {q : Req} {a pid : Nat} (hloc : q.loc = .mem a) (hloads : loadsOpen s q.agent = false)
    (hhub : q.hub = some pid) (hred : q.red = none) (hmode : q.mode = 2) (hw : Writable s q.agent (.mem a) q.size) :
    performReq s q = (storedAt s q.agent a (leBytes q.size q.data.toNat), true) := by
  have hroute : (packetRoute s q).isNone = false := by unfold packetRoute; rw [hhub]; rfl
  have hpoison : poisoned s (.mem a) q.size = false := (hw.2 a rfl).2
  unfold performReq
  simp only [hloads, hloc, hroute, hred, homeWriteN_writable q.data hw, hpoison, postedFault, entered, hmode, Bool.false_eq_true, if_false]
  rfl
/-- The write that the hub sends for the outside (15 R335). -/
def hubReq (k pid a n : Nat) (v : DWord) : Req :=
  { agent := k, loc := .mem a, size := n, data := v, pid := pid, mode := 2, src := 256, hub := some pid }
theorem outsideWrite_quiet {s : State} (hq : Quiet s) (k pid a n : Nat) (v : DWord) :
    outsideWrite s k pid a n v = withNet s [hubReq k pid a n v] := send_quiet hq _
/-- The state after a write from outside that was performed as it was brought home. -/
def outsideWritten (s : State) (k pid a n : Nat) (v : DWord) : State :=
  withNet (storedAt (withNet s [hubReq k pid a n v]) k a (leBytes n v.toNat)) []
theorem outsideWrite_flushed {s : State} {k pid a n : Nat} {v : DWord} {p : Req → Bool} (hq : Quiet s) (ho : Outsider s k)
    (hw : Writable s k (.mem a) n) (hp : p (hubReq k pid a n v) = true) :
    (flushIf p (outsideWrite s k pid a n v)).1 = outsideWritten s k pid a n v := by
  have hloads : loadsOpen (withNet s [hubReq k pid a n v]) k = false := loadsOpen_outsider ho
  have hperf := performReq_fromHub (q := hubReq k pid a n v) rfl hloads rfl rfl rfl (writable_sent hq rfl hw)
  rw [outsideWrite_quiet hq, flushIf_single rfl hp rfl rfl rfl hperf]
  rfl
theorem wroteBytes_outsideWritten (s : State) (k pid a n : Nat) (v : DWord) :
    WroteBytes s (outsideWritten s k pid a n v) (.mem a) n v.toNat := wroteBytes_mem (contents_storedAt _ k a _)
/-- Such a write changes nothing but memory and what slices and channels count. -/
theorem outsideWritten_rest (s : State) (k pid a n : Nat) (v : DWord) :
    let t := outsideWritten s k pid a n v
    t = { s with mem := t.mem, counters := t.counters } ∧ SliceCounts s t := by
  have hrest := storedAt_rest (withNet s [hubReq k pid a n v]) k a (leBytes n v.toNat)
  have hcounts := sliceCounts_storedAt (withNet s [hubReq k pid a n v]) k a (leBytes n v.toNat)
  unfold outsideWritten
  generalize storedAt (withNet s [hubReq k pid a n v]) k a (leBytes n v.toNat) = u at hrest hcounts
  exact ⟨congrArg (fun t => withNet t []) hrest, hcounts⟩
end Travelling

section Mailboxes
theorem mailboxOpen_iff (s : State) (f : Nat) : mailboxOpen s f = true ↔ MailboxLive s f := by
  simp [mailboxOpen, MailboxLive, and_assoc]
theorem mailboxOpen_not {s : State} {f : Nat} (h : ¬ MailboxLive s f) : mailboxOpen s f = false :=
  Bool.eq_false_iff.2 fun c => h ((mailboxOpen_iff s f).1 c)
/-- A word on which nothing is parked has nothing to serve. -/
theorem servePlace_noneParked {s : State} {l : Loc} (h : NoneParked s l) : servePlace s l = s := by
  have hnone : s.mem.parks.findIdx? (fun p => !p.bounced && p.loc == l && (feTry s.mem p.op l p.data).isSome) = none :=
    List.findIdx?_eq_none_iff.2 fun p hp => by simp [h p hp]
  unfold servePlace
  cases s.mem.parks.length
  · rfl
  · unfold serveParks; rw [hnone]
theorem contents_setFull (m : Mem) (l : Loc) (b : Bool) : contents (setFull m l b) = contents m := by cases l <;> rfl
theorem setsFull_slot {s t : State} {f k : Nat} {b : Bool} (h : t.mem.mboxFull = tset false s.mem.mboxFull ((f * 256 + 4 * k) / 4) b)
    (hempty : t.mem.empty = s.mem.empty) : SetsFull s t (slotLoc f k) b := by
  constructor
  · simp [isFull, slotLoc, h, tget_tset]
  · intro l hl
    cases l
    case mbox c =>
      have hne : ¬ (f * 256 + 4 * k) / 4 = c / 4 := fun e => by simp [sameWord, slotLoc, e] at hl
      simp [isFull, h, tget_tset, hne]
    case win o => simp [isFull, hempty]
    all_goals rfl
/-- The low 32 bits of a word sent as a dword are the word. -/
theorem word_of_sent (v : Word) : wd (bitsOf (v.setWidth 64) 0 32) = v := by
  apply BitVec.eq_of_toNat_eq
  have hlt := v.isLt
  simp only [wd, bitsOf, field, BitVec.toNat_ofNat, BitVec.toNat_setWidth]
  omega
/-- The set-full write that the host's post of a slot sends (18 R395). -/
def postReq (s : State) (f k : Nat) (v : Word) : Req :=
  { agent := fnAgent f, loc := slotLoc f k, size := 4, data := v.setWidth 64,
    pid := if f = 0 then 15 else (tget {} s.vfs f).pid, mode := 2, full := true }
/-- A post that nothing holds, of a slot on which nothing is parked, fills the slot (18 R395). -/
theorem hostPost_fills {s : State} {f k : Nat} {v : Word} (hq : Quiet s) (hheld : heldWrite s (fnAgent f) (slotLoc f k) 4 = false)
    (hpark : NoneParked s (slotLoc f k)) :
    hostPost s f k v = modMem s (fun m => setFull (writeLoc m (slotLoc f k) 4 (v.setWidth 64)) (slotLoc f k) true) := by
  have hsent : fnFlush (modMem s (fun m => { m with net := m.net ++ [postReq s f k v] })) f = withNet s [postReq s f k v] := by
    rw [send_quiet hq]; exact flushIf_full rfl rfl
  have hfree : heldWrite (withNet s [postReq s f k v]) (fnAgent f) (slotLoc f k) 4 = false := (heldWrite_sent hq _ _ _ rfl).trans hheld
  have hback : modMem (withNet s [postReq s f k v]) (fun m => { m with net := eraseAt m.net 0 }) = s := withNet_self hq.1
  have hdata : wd (bitsOf (postReq s f k v).data 0 32) = v := word_of_sent v
  have harrive : hostPost s f k v = (fun w : State => arrive w (w.mem.net.length - 1))
      (fnFlush (modMem s (fun m => { m with net := m.net ++ [postReq s f k v] })) f) := rfl
  rw [harrive, hsent]
  show fullWrite (withNet s [postReq s f k v]) 0 (postReq s f k v) = _
  unfold fullWrite setFullWrite
  rw [if_neg (by rw [Bool.not_eq_true]; exact hfree), hback, hdata]
  exact servePlace_noneParked hpark
theorem mailboxHostWrite_fills {s : State} {f k : Nat} {v : Word} (hk : k < 64) (hlive : MailboxLive s f) (hq : Quiet s)
    (hheld : heldWrite s (fnAgent f) (slotLoc f k) 4 = false) (hpark : NoneParked s (slotLoc f k)) :
    ∃ t, Goes (.mailboxHostWrite f k v) s t ∧ WroteBytes s t (slotLoc f k) 4 v.toNat ∧ SetsFull s t (slotLoc f k) true ∧
      t = { s with mem := t.mem } := by
  have hbytes : (v.setWidth 64).toNat = v.toNat := by simp; omega
  refine ⟨modMem s (fun m => setFull (writeLoc m (slotLoc f k) 4 (v.setWidth 64)) (slotLoc f k) true), ?_, ?_, ?_, ?_⟩
  · exact (if_pos (by simp [(mailboxOpen_iff s f).2 hlive, hk])).trans (congrArg _ (hostPost_fills hq hheld hpark))
  · refine wroteBytes_mbox ((contents_setFull _ _ _).trans ?_)
    rw [← hbytes]; rfl
  · exact setsFull_slot (congrArg (fun x => tset false x ((f * 256 + 4 * k) / 4) true) (mboxPut_mboxFull s.mem _ _))
      (mboxPut_empty s.mem _ _)
  · rfl
theorem mailboxHostWrite_dropped {s : State} {f : Nat} (k : Nat) (v : Word) (h : ¬ MailboxLive s f) : Idle (.mailboxHostWrite f k v) s :=
  if_neg (by simp [mailboxOpen_not h])
theorem mailboxHostTake_full {s : State} {f k : Nat} (hk : k < 64) (hlive : MailboxLive s f) (hfull : isFull s.mem (slotLoc f k) = true)
    (hpark : NoneParked s (slotLoc f k)) :
    ∃ t, Goes (.mailboxHostTake f k) s t ∧ Replied t (.value (BitVec.ofNat 64 (homeValue s (slotLoc f k) 4 + 2 ^ 32))) ∧
      SetsFull s t (slotLoc f k) false ∧ SameBytes s t := by
  have hserve : servePlace (modMem s (fun m => setFull m (slotLoc f k) false)) (slotLoc f k) =
      modMem s (fun m => setFull m (slotLoc f k) false) := servePlace_noneParked hpark
  have hvalue : readLoc s.mem (slotLoc f k) 4 + dw (2 ^ 32) = BitVec.ofNat 64 (homeValue s (slotLoc f k) 4 + 2 ^ 32) :=
    (BitVec.ofNat_add _ _).symm
  refine ⟨answer (modMem s (fun m => setFull m (slotLoc f k) false)) (.value (BitVec.ofNat 64 (homeValue s (slotLoc f k) 4 + 2 ^ 32))),
    ?_, rfl, setsFull_slot rfl rfl, sameBytes_of_contents (contents_setFull s.mem (slotLoc f k) false)⟩
  show execMailboxHostTake f k s = _
  unfold execMailboxHostTake
  rw [if_neg (by simp [(mailboxOpen_iff s f).2 hlive]), if_pos ⟨hk, hfull⟩]
  show Host.Outcome.next (answer (servePlace _ _) (.value (readLoc s.mem (slotLoc f k) 4 + dw (2 ^ 32)))) = _
  rw [hserve, hvalue]
theorem mailboxHostTake_empty {s : State} {f k : Nat} (hlive : MailboxLive s f) (hempty : isFull s.mem (slotLoc f k) = false) :
    Goes (.mailboxHostTake f k) s (answer s (.value 0)) := by
  show execMailboxHostTake f k s = _
  unfold execMailboxHostTake
  rw [if_neg (by simp [(mailboxOpen_iff s f).2 hlive]), if_neg (by simp [hempty])]
theorem mailboxHostTake_closed {s : State} {f : Nat} (k : Nat) (h : ¬ MailboxLive s f) :
    Goes (.mailboxHostTake f k) s (answer s (.value (BitVec.allOnes 64))) := if_pos (by simp [mailboxOpen_not h])
end Mailboxes

section HostMemory
theorem regionAddr_of_regionAt {s : State} {f off a : Nat} (h : RegionAt s f off a) : regionAddr s f off = some a := by
  obtain ⟨hin, t, htile, ha⟩ := h
  have hlen := (List.getElem?_eq_some_iff.1 htile).1
  have hchunk : regionChunk s (vfAt s f).pid ((vfAt s f).mbase + off / 65536) =
      t * 32768 + ((vfAt s f).mbase + off / 65536) % 32768 := by
    unfold regionChunk; rw [List.getD_eq_getElem?_getD, htile]; rfl
  unfold regionAddr
  simp only [hin, hlen, hchunk, ha, and_self, if_true]
/-- The place of an access that reaches a function's region, as the host's access finds it (15 R353, R354). -/
def reached (s : State) (f off n : Nat) : Option Nat :=
  if s.hub.ready && (vfAt s f).en && (vfAt s f).tstate == .run && !(partAt s (vfAt s f).pid).resetting &&
    decide (1 ≤ n ∧ off % 8 + n ≤ 8) then regionAddr s f off else none
theorem reached_live {s : State} {f off n a : Nat} (hn : 1 ≤ n) (hdword : off % 8 + n ≤ 8) (hlive : RegionLive s f)
    (hat : RegionAt s f off a) : reached s f off n = some a := by
  obtain ⟨hready, hen, hrun, hreset⟩ := hlive
  unfold reached
  rw [if_pos (by simp [hready, hen, hrun, hreset, hn, hdword]), regionAddr_of_regionAt hat]
theorem reached_dead {s : State} {f off : Nat} (n : Nat) (h : ¬ RegionLive s f ∨ (vfAt s f).mlen ≤ off / 65536) :
    reached s f off n = none := by
  unfold reached
  split
  · rename_i hgo
    simp only [Bool.and_eq_true, beq_iff_eq, Bool.not_eq_true'] at hgo
    obtain ⟨⟨⟨⟨hready, hen⟩, hrun⟩, hreset⟩, -⟩ := hgo
    rcases h with hdead | hbeyond
    · exact absurd ⟨hready, hen, hrun, hreset⟩ hdead
    · unfold regionAddr
      exact if_neg fun c => Nat.not_lt.2 hbeyond c.1
  · rfl
theorem hostMemAccess_write {s : State} {f off n a : Nat} (v : DWord) (h : reached s f off n = some a) :
    Goes (.hostMemAccess f off n (some v)) s (fnFlush (outsideWrite s (fnAgent f) (vfAt s f).pid a n v) f) := by
  show execHostMemAccess f off n (some v) s = _
  unfold reached at h
  unfold execHostMemAccess
  simp only [h]
theorem hostMemAccess_nowhere {s : State} {f off n : Nat} (v : DWord) (h : reached s f off n = none) :
    Idle (.hostMemAccess f off n (some v)) s ∧ Goes (.hostMemAccess f off n none) s (answer s .poison) := by
  unfold reached at h
  constructor
  · show execHostMemAccess f off n (some v) s = _
    unfold execHostMemAccess
    simp only [h]
  · show execHostMemAccess f off n none s = _
    unfold execHostMemAccess
    simp only [h]
/-- The read that the hub sends for the host (18 R394). -/
def hubRead (k pid a n : Nat) : Req :=
  { agent := k, loc := .mem a, size := n, pid := pid, mode := 2, src := 256, hub := some pid, read := true }
/-- The state in which such a read, with no reply yet, arrives at its home. -/
def readSent (s : State) (f a n : Nat) : State :=
  answer (withNet s [hubRead (fnAgent f) (vfAt s f).pid a n]) .none
theorem hostMemAccess_read {s : State} {f off n a : Nat} (hq : Quiet s) (h : reached s f off n = some a) :
    Goes (.hostMemAccess f off n none) s (hostRead (readSent s f a n) 0 (hubRead (fnAgent f) (vfAt s f).pid a n)) := by
  have hflush : flushWord s (fnAgent f) (.mem a) n = (s, true) := flushWord_none _ _ (by rw [hq.1]; simp)
  have hsend : outsideRead s (fnAgent f) (vfAt s f).pid a n = withNet s [hubRead (fnAgent f) (vfAt s f).pid a n] := send_quiet hq _
  show execHostMemAccess f off n none s = _
  unfold reached at h
  unfold execHostMemAccess
  simp only [h, hflush, hsend]
  rfl
theorem heldRead_readSent (s : State) (f a n : Nat) : heldRead (readSent s f a n) (.mem a) n = heldRead s (.mem a) n := rfl
/-- The state in which a read has left the way to its home. -/
def readArrived (s : State) (f a n : Nat) : State := withNet (readSent s f a n) []
theorem poisoned_answer (s : State) (r : Reply) (l : Loc) (n : Nat) : poisoned (answer s r) l n = poisoned s l n := by cases l <;> rfl
theorem poisoned_readArrived (s : State) (f a n : Nat) : poisoned (readArrived s f a n) (.mem a) n = poisoned s (.mem a) n := by
  rw [readArrived, poisoned_withNet, readSent, poisoned_answer, poisoned_withNet]
theorem hostRead_free {s : State} {f a n : Nat} (hfree : heldRead s (.mem a) n = false) :
    hostRead (readSent s f a n) 0 (hubRead (fnAgent f) (vfAt s f).pid a n) =
      if poisoned s (.mem a) n then answer (notePoison (readArrived s f a n) (.mem a)) .poison
      else answer (l2Span (readArrived s f a n) a n) (.value (readLoc s.mem (.mem a) n)) := by
  have hgo : ¬ ((((readSent s f a n).mem.net.take 0).any (fun q => q.agent == fnAgent f && !q.read &&
      overlaps q.loc q.size (wordSpan (.mem a) n).1 (wordSpan (.mem a) n).2) || heldRead (readSent s f a n) (.mem a) n) = true) := by
    rw [heldRead_readSent, hfree]; simp
  rw [← poisoned_readArrived s f a n]
  exact if_neg hgo
/-- An answer given in a state that holds the same bytes, with nothing on its way. -/
theorem answered {s u : State} (r : Reply) (hbytes : contents u.mem = contents s.mem) (hnet : u.mem.net = []) :
    SameBytes s (answer u r) ∧ (answer u r).mem.net = [] ∧ Replied (answer u r) r :=
  ⟨sameBytes_of_contents hbytes, hnet, rfl⟩
/-- A read that nothing holds is answered: with poison or with the bytes at the home (15 R342; 18 R394). -/
theorem hostRead_answers {s : State} {f a n : Nat} (hfree : heldRead s (.mem a) n = false) :
    ∃ t, hostRead (readSent s f a n) 0 (hubRead (fnAgent f) (vfAt s f).pid a n) = t ∧ SameBytes s t ∧ t.mem.net = [] ∧
      Replied t (if poisoned s (.mem a) n then .poison else .value (BitVec.ofNat 64 (homeValue s (.mem a) n))) := by
  have hbytes : contents (readArrived s f a n).mem = contents s.mem := rfl
  have hnet : (readArrived s f a n).mem.net = [] := rfl
  rw [hostRead_free hfree]
  refine ⟨_, rfl, ?_⟩
  split
  · exact answered .poison ((notePoison_part contents (fun _ _ _ => rfl) _ _).trans hbytes)
      ((notePoison_part Mem.net (fun _ _ _ => rfl) _ _).trans hnet)
  · exact answered _ ((contents_l2Span _ a n).trans hbytes) ((l2Span_net _ a n).trans hnet)
theorem hostRead_waits {s : State} {f a n : Nat} (hheld : heldRead s (.mem a) n = true) :
    hostRead (readSent s f a n) 0 (hubRead (fnAgent f) (vfAt s f).pid a n) = readSent s f a n := by
  unfold hostRead
  exact if_pos (by simp [hubRead, heldRead_readSent, hheld])
end HostMemory

section ScaleOut
/-- A write's span lies within the words that hold it. -/
theorem overlaps_wordSpan {a n : Nat} (hn : 1 ≤ n) :
    overlaps (.mem a) n (wordSpan (.mem a) n).1 (wordSpan (.mem a) n).2 = true := by
  show ranges a n (a / 4 * 4) ((a + n + 3) / 4 * 4 - a / 4 * 4) = true
  simp only [ranges, decide_eq_true_eq]
  omega
theorem farWriteReceive_performed {s : State} {p a n : Nat} {v : DWord} (hn : 1 ≤ n) (hn8 : n ≤ 8) (ha : a + n ≤ 2 ^ 39)
    (hin : inPart s p (homeOf a) = true) (hq : Quiet s) (ho : Outsider s 0xFFFFF9) (hw : Writable s 0xFFFFF9 (.mem a) n) :
    ∃ t, Goes (.farWriteReceive p a n v) s t ∧ Replied t (.farWrite true) ∧ WroteBytes s t (.mem a) n v.toNat := by
  have hflush : (flushWord (outsideWrite s 0xFFFFF9 p a n v) 0xFFFFF9 (.mem a) n).1 = outsideWritten s 0xFFFFF9 p a n v :=
    outsideWrite_flushed hq ho hw (by simp [hubReq, overlaps_wordSpan hn])
  have hhere : (decide (1 ≤ n ∧ n ≤ 8 ∧ a + n ≤ 2 ^ 39) && inPart s p (homeOf a)) = true := by
    rw [hin, Bool.and_true, decide_eq_true_eq]; exact ⟨hn, hn8, ha⟩
  refine ⟨answer (outsideWritten s 0xFFFFF9 p a n v) (.farWrite true), ?_, rfl, wroteBytes_outsideWritten s _ p a n v⟩
  rw [← hflush]
  exact if_pos hhere
theorem farWriteReceive_refused {s : State} {p a : Nat} (n : Nat) (v : DWord) (hin : inPart s p (homeOf a) = false) :
    Goes (.farWriteReceive p a n v) s (answer s (.farWrite false)) := if_neg (by simp [hin])
theorem farOut_notePoison (s : State) (l : Loc) : (notePoison s l).mem.farOut = s.mem.farOut :=
  notePoison_part Mem.farOut (fun _ _ _ => rfl) s l
theorem farOut_notePoisonAt (s : State) (c : Ctx) (lkey : Nat) (acc : Acc) (va : DWord) (n : Nat) :
    (notePoisonAt s c lkey acc va n).mem.farOut = s.mem.farOut := by
  unfold notePoisonAt
  split
  · rfl
  · split
    · split
      · exact farOut_notePoison _ _
      · rfl
    · unfold noteErr
      split
      · exact farOut_notePoison _ _
      · rfl
theorem farOut_note (l : Located) (s : State) : (l.note s).mem.farOut = s.mem.farOut := by
  unfold Located.note noteWalk
  split
  · rfl
  · split <;> rfl
theorem farOut_notePoisonSpan (s : State) (a n : Nat) : (notePoisonSpan s a n).mem.farOut = s.mem.farOut :=
  foldl_rest (fun t => t.mem.farOut) _ (fun t g => noteGranule_part Mem.farOut (fun _ _ _ => rfl) t g) _ s
theorem farOut_l2Span (s : State) (a n : Nat) : (l2Span s a n).mem.farOut = s.mem.farOut :=
  l2Span_part (fun t => t.mem.farOut) (fun _ _ => rfl) s a n
/-- What a copy's accesses leave behind holds no far write (14 R316; 15 R339, R342). -/
theorem farOut_copyNotes (s : State) (c : Copy) (acc : Acc) (va : DWord) (n : Nat) :
    (copyNotes s c acc va n).mem.farOut = s.mem.farOut := by
  unfold copyNotes copyTraces
  refine foldl_rest (fun t => t.mem.farOut) _ (fun t p => ?_) _ s
  dsimp only
  split
  · exact farOut_notePoisonAt _ _ _ _ _ _
  · split
    · exact (farOut_l2Span _ _ _).trans ((farOut_notePoisonSpan _ _ _).trans (farOut_note _ _))
    · exact farOut_note _ _
theorem cpyRetire_mem (s : State) (k : Nat) : (cpyRetire s k).mem = s.mem := by unfold cpyRetire; dsimp only; split <;> rfl
theorem cpyRetire_copies (s : State) (k : Nat) : (cpyRetire s k).copies = s.copies := by unfold cpyRetire; dsimp only; split <;> rfl
theorem farOut_parkCopy (s : State) (k cause : Nat) : (parkCopy s k cause).mem.farOut = s.mem.farOut := by
  unfold parkCopy
  dsimp only
  rw [cpyRetire_mem]
  exact (farOut_copyNotes _ _ _ _ _).trans (farOut_copyNotes _ _ _ _ _)
/-- A copy that parks keeps its row, and its cause is the one given (07 R184). -/
theorem copyAt_parkCopy (s : State) (k cause : Nat) :
    (copyAt (parkCopy s k cause) k).parked = true ∧ (copyAt (parkCopy s k cause) k).row = (copyAt s k).row ∧
      (copyAt (parkCopy s k cause) k).cause = cause ∧ (copyAt (parkCopy s k cause) k).msgSent = false := by
  unfold parkCopy
  dsimp only
  unfold copyAt
  rw [cpyRetire_copies]
  simp only [count, bumpSeq, setCopy, tget_tput_same, and_self]
theorem withoutRows_eq (k r : Nat) (f : FarWrite) :
    (if f.copy.any (fun x => x.1 == k && decide (r ≤ x.2)) then { f with copy := none } else f) = withoutRows k r f := by
  obtain ⟨req, port, part, copy⟩ := f
  cases copy with
  | none => rfl
  | some c =>
    simp only [withoutRows, Option.any_some, Option.filter_some, beq_eq_decide]
    cases decide (c.1 = k) && decide (r ≤ c.2) <;> rfl
theorem farWriteAcknowledgement_accepted {s : State} {i : Nat} {w : FarWrite} (h : s.mem.farOut[i]? = some w) :
    Goes (.farWriteAcknowledgement i true) s (modMem s (fun m => { m with farOut := eraseAt m.farOut i })) := by
  show execFarWriteAcknowledgement i true s = _
  unfold execFarWriteAcknowledgement
  simp only [h]
/-- What a refusal of a copy's row leaves before the copy parks: the write is gone, the later rows' are no longer the copy's, and the copy
stands at the refused row (07 R185). -/
def refusedRow (s : State) (i k r : Nat) (c : Copy) : State :=
  setCopy (forgetRows (modMem s (fun m => { m with farOut := eraseAt m.farOut i })) k r) k { c with row := min r c.row }
theorem farWriteAcknowledgement_refused {s : State} {i k r : Nat} {w : FarWrite} {c : Copy} (h : s.mem.farOut[i]? = some w)
    (hcopy : w.copy = some (k, r)) (hc : tfind s.copies k = some c) :
    Goes (.farWriteAcknowledgement i false) s
      (if c.parked then refusedRow s i k r c else parkCopy (refusedRow s i k r c) k 2) := by
  show execFarWriteAcknowledgement i false s = _
  unfold execFarWriteAcknowledgement
  simp only [h, hcopy]
  have hfind : tfind (modMem s (fun m => { m with farOut := eraseAt m.farOut i })).copies k = some c := hc
  rw [hfind]
  rfl
theorem farOut_refusedRow (s : State) (i k r : Nat) (c : Copy) :
    (refusedRow s i k r c).mem.farOut = (eraseAt s.mem.farOut i).map (withoutRows k r) :=
  List.map_congr_left fun f _ => withoutRows_eq k r f
theorem copyAt_refusedRow (s : State) (i k r : Nat) (c : Copy) : copyAt (refusedRow s i k r c) k = { c with row := min r c.row } :=
  tget_tput_same _ _ _ _
end ScaleOut

section Registers
theorem funcRead_notReady {s : State} {f : Nat} (off : Nat) (hf : 1 ≤ f) (hf' : f ≤ 192) (h : s.hub.ready = false) :
    funcRead s f off = BitVec.allOnes 64 := by
  unfold funcRead virtRead
  rw [if_neg (by omega), if_pos hf', h]
  rfl
theorem bitAt_dw (n : Nat) {i : Nat} (hi : i < 64) : bitAt (dw n) i = n.testBit i := by
  simp only [bitAt, dw, BitVec.getLsbD_ofNat, hi, decide_true, Bool.true_and]
/-- A flag above a smaller number: its own bit reads it, and the bits below do not. -/
theorem testBit_flag (b : Bool) {i low : Nat} (h : low < 2 ^ i) : ((if b then 2 ^ i else 0) + low).testBit i = b := by
  have hlow := Nat.testBit_lt_two_pow h
  cases b
  · simpa using hlow
  · rw [if_pos rfl, Nat.testBit_two_pow_add_eq, hlow]; rfl
theorem testBit_below_flag (b : Bool) {i j : Nat} (h : j < i) (low : Nat) : ((if b then 2 ^ i else 0) + low).testBit j = low.testBit j := by
  cases b
  · rw [if_neg Bool.false_ne_true, Nat.zero_add]
  · rw [if_pos rfl, Nat.testBit_two_pow_add_gt h]
theorem flag_lt (b : Bool) {i low : Nat} (h : low < 2 ^ i) : (if b then 2 ^ i else 0) + low < 2 ^ (i + 1) := by
  have hdouble := Nat.pow_succ (n := 2) (m := i)
  split <;> omega
theorem pfstat_flags {s : State} (h : s.hub.stage < 256) :
    bitAt (funcRead s 0 0) 63 = s.hub.ready ∧ bitAt (funcRead s 0 0) 62 = s.hub.recov ∧ bitAt (funcRead s 0 0) 61 = s.hub.therm := by
  have hlow : s.hub.fwerr.toNat * 2 ^ 48 + s.hub.stage * 2 ^ 32 + s.hub.imgver.toNat < 2 ^ 61 := by
    have hfwerr := s.hub.fwerr.isLt
    have hver := s.hub.imgver.isLt
    omega
  have hread : funcRead s 0 0 = dw ((if s.hub.ready then 2 ^ 63 else 0) + ((if s.hub.recov then 2 ^ 62 else 0) +
      ((if s.hub.therm then 2 ^ 61 else 0) + (s.hub.fwerr.toNat * 2 ^ 48 + s.hub.stage * 2 ^ 32 + s.hub.imgver.toNat)))) := by
    show pfstat s.hub = _
    unfold pfstat
    simp only [Nat.add_assoc]
  have htherm := flag_lt s.hub.therm hlow
  have hrecov := flag_lt s.hub.recov htherm
  rw [hread, bitAt_dw _ (by omega), bitAt_dw _ (by omega), bitAt_dw _ (by omega)]
  refine ⟨testBit_flag _ hrecov, ?_, ?_⟩
  · rw [testBit_below_flag _ (by omega)]
    exact testBit_flag _ htherm
  · rw [testBit_below_flag _ (by omega), testBit_below_flag _ (by omega)]
    exact testBit_flag _ hlow
/-- A read of a live mailbox page goes to the page (18 R392, R395). -/
theorem funcRead_page {s : State} {f : Nat} (hf : f ≤ 192) (hready : f = 0 ∨ s.hub.ready = true) {off : Nat} (h : off < 0x1000) :
    funcRead s f (0x1000 + off) = pageRead s f off := by
  have hpage : 0x1000 ≤ 0x1000 + off ∧ 0x1000 + off < 0x2000 := by omega
  unfold funcRead
  by_cases h0 : f = 0
  · subst h0
    unfold physRead
    dsimp only
    rw [if_pos rfl]
    iterate 5 rw [if_neg (by omega)]
    rw [if_pos hpage, Nat.add_sub_cancel_left]
  · have hr : s.hub.ready = true := hready.resolve_left h0
    unfold virtRead
    rw [if_neg h0, if_pos hf, if_neg (by simp [hr]), if_pos hpage, Nat.add_sub_cancel_left]
theorem pageRead_word {s : State} {f k : Nat} (hk : k < 64) (hlive : MailboxLive s f) :
    pageRead s f (4 * k) = BitVec.ofNat 64 (homeValue s (slotLoc f k) 4) := by
  have hslot : 4 * k / 4 = k := by omega
  unfold pageRead
  rw [if_neg (by simp [(mailboxOpen_iff s f).2 hlive]), if_pos (by omega), hslot]
  rfl
theorem pageRead_full {s : State} {f k : Nat} (hk : k < 64) (hlive : MailboxLive s f) :
    pageRead s f (0x100 + 4 * k) = if isFull s.mem (slotLoc f k) = true then 1 else 0 := by
  have hslot : (0x100 + 4 * k - 0x100) / 4 = k := by omega
  unfold pageRead
  rw [if_neg (by simp [(mailboxOpen_iff s f).2 hlive]), if_neg (by omega), if_pos (by omega), hslot]
  split <;> rfl
theorem bitsOf_low_byte (v : DWord) : (BitVec.ofNat 8 (bitsOf v 0 8)).toNat = bitsOf v 0 8 := by
  rw [BitVec.toNat_ofNat]
  exact Nat.mod_eq_of_lt (bitsOf_lt v 0 8)
theorem registerWrite_pkg {s : State} {v : DWord} (h : bitAt v 63 = false) :
    Goes (.registerWrite (.func 0 8) v) s (modHub s (fun u => { u with pkg := BitVec.ofNat 8 (bitsOf v 0 8) })) := by
  show Host.Outcome.next (if bitAt v 63 then _ else _) = _
  rw [h]
  rfl
theorem registerWrite_far {k : Nat} (hk : k < 256) (v : DWord) (s : State) :
    Goes (.registerWrite (.func 0 (0x40000 + 8 * k)) v) s (modHub s (fun u => { u with far := tset {} u.far k (farOf v) })) := by
  have hentry : (0x40000 + 8 * k - 0x40000) / 8 = k := by omega
  show Host.Outcome.next (physWrite s (0x40000 + 8 * k) v) = _
  unfold physWrite
  iterate 7 rw [if_neg (by omega)]
  rw [if_pos (by omega), hentry]
theorem registerWrite_lease (p : Nat) (v : DWord) (s : State) :
    Goes (.registerWrite (.ctl p 0) v) s (modPart s p (fun q => { q with lease := max 1 (bitsOf v 0 14) })) := by
  have hpage : (p * 4096 + 0) / 4096 = p := by omega
  have hfirst : (p * 4096 + 0) % 4096 = 0 := by omega
  show Host.Outcome.next (ctlStore s (p * 4096 + 0) 8 v) = _
  unfold ctlStore
  rw [if_pos (by rw [hfirst]; rfl), hpage]
end Registers

section Outside
theorem hostWrite_reaches {s : State} {f off n a : Nat} {v : DWord} (hn : 1 ≤ n) (hdword : off % 8 + n ≤ 8) (hlive : RegionLive s f)
    (hat : RegionAt s f off a) (hq : Quiet s) (ho : Outsider s (fnAgent f)) (hw : Writable s (fnAgent f) (.mem a) n) :
    ∃ t, Goes (.hostMemAccess f off n (some v)) s t ∧ WroteBytes s t (.mem a) n v.toNat ∧
      t = { s with mem := t.mem, counters := t.counters } ∧ SliceCounts s t := by
  have hflush : fnFlush (outsideWrite s (fnAgent f) (vfAt s f).pid a n v) f = outsideWritten s (fnAgent f) (vfAt s f).pid a n v :=
    outsideWrite_flushed hq ho hw (beq_self_eq_true _)
  exact ⟨_, (hostMemAccess_write v (reached_live hn hdword hlive hat)).trans (congrArg _ hflush), wroteBytes_outsideWritten s _ _ a n v,
    outsideWritten_rest s _ _ a n v⟩
theorem hostRead_reaches {s : State} {f off n a : Nat} (hn : 1 ≤ n) (hdword : off % 8 + n ≤ 8) (hlive : RegionLive s f)
    (hat : RegionAt s f off a) (hq : Quiet s) :
    (heldRead s (.mem a) n = false → ∃ t, Goes (.hostMemAccess f off n none) s t ∧ SameBytes s t ∧ t.mem.net = [] ∧
      Replied t (if poisoned s (.mem a) n then .poison else .value (BitVec.ofNat 64 (homeValue s (.mem a) n)))) ∧
    (heldRead s (.mem a) n = true → ∃ t q, Goes (.hostMemAccess f off n none) s t ∧ SameBytes s t ∧ Replied t .none ∧ t.mem.net = [q] ∧
      q.read = true ∧ q.loc = .mem a ∧ q.size = n) := by
  have hgoes := hostMemAccess_read hq (reached_live hn hdword hlive hat)
  constructor
  · intro hfree
    obtain ⟨t, ht, hsame, hnet, hreply⟩ := hostRead_answers (f := f) hfree
    exact ⟨t, hgoes.trans (congrArg _ ht), hsame, hnet, hreply⟩
  · intro hheld
    exact ⟨readSent s f a n, hubRead (fnAgent f) (vfAt s f).pid a n, hgoes.trans (congrArg _ (hostRead_waits hheld)),
      sameBytes_of_contents rfl, rfl, rfl, rfl, rfl, rfl⟩
theorem refusal_parks {s : State} {i k r : Nat} {w : FarWrite} {c : Copy} (h : s.mem.farOut[i]? = some w)
    (hcopy : w.copy = some (k, r)) (hc : tfind s.copies k = some c) :
    ∃ t, Goes (.farWriteAcknowledgement i false) s t ∧
      t.mem.farOut = (eraseAt s.mem.farOut i).map (withoutRows k r) ∧ (copyAt t k).parked = true ∧ (copyAt t k).row = min r c.row ∧
      (c.parked = false → (copyAt t k).cause = 2 ∧ (copyAt t k).msgSent = false) ∧
      (c.parked = true → (copyAt t k).cause = c.cause ∧ (copyAt t k).msgSent = c.msgSent) := by
  have hgoes := farWriteAcknowledgement_refused h hcopy hc
  have hrow := copyAt_refusedRow s i k r c
  cases hp : c.parked
  case true =>
    rw [hp, if_pos rfl] at hgoes
    refine ⟨_, hgoes, farOut_refusedRow s i k r c, ?_⟩
    simp [hrow, hp]
  case false =>
    rw [hp, if_neg Bool.false_ne_true] at hgoes
    obtain ⟨hparked, hsame, hcause, hmsg⟩ := copyAt_parkCopy (refusedRow s i k r c) k 2
    refine ⟨_, hgoes, (farOut_parkCopy _ k 2).trans (farOut_refusedRow s i k r c), hparked, ?_, fun _ => ⟨hcause, hmsg⟩, nofun⟩
    rw [hsame, hrow]
/-- Settles O43, an access at a time: a request from outside that finds nothing on its way is sent alone, and is performed, held or refused
as its place says. -/
theorem outsideAccessesReachTheirPlace : Obligations.OutsideAccessesReachTheirPlace := by
  unfold Obligations.OutsideAccessesReachTheirPlace
  refine ⟨?_, ?_, ?_, ?_, ?_, ?_, ?_, ?_, ?_, ?_⟩
  · exact fun f k v s hk => ⟨mailboxHostWrite_fills hk, mailboxHostWrite_dropped k v⟩
  · exact fun f k s hk => ⟨mailboxHostTake_full hk, fun hlive hempty => ⟨_, mailboxHostTake_empty hlive hempty, rfl, rfl⟩,
      fun hdead => ⟨_, mailboxHostTake_closed k hdead, rfl, rfl⟩⟩
  · exact fun f off n a v s hn hdword hlive hat hq =>
      ⟨hostWrite_reaches hn hdword hlive hat hq, hostRead_reaches hn hdword hlive hat hq⟩
  · exact fun f off n v s h => hostMemAccess_nowhere v (reached_dead n h)
  · exact fun s f off hf hf' h => funcRead_notReady off hf hf' h
  · intro s h
    obtain ⟨hready, hrecov, htherm⟩ := pfstat_flags h
    exact ⟨hready, hrecov, htherm, rfl, rfl, rfl⟩
  · intro s f k hk hlive hready hf
    refine ⟨(funcRead_page hf hready (by omega)).trans (pageRead_word hk hlive), ?_⟩
    rw [show 0x1100 + 4 * k = 0x1000 + (0x100 + 4 * k) by omega]
    exact (funcRead_page hf hready (by omega)).trans (pageRead_full hk hlive)
  · exact fun p a n v s hn hn8 ha => ⟨farWriteReceive_performed hn hn8 ha, farWriteReceive_refused n v⟩
  · exact fun i w s h => ⟨⟨_, farWriteAcknowledgement_accepted h, rfl, rfl, sameBytes_of_contents rfl⟩,
      fun k r c hcopy hc => refusal_parks h hcopy hc⟩
  · refine fun v s => ⟨rfl, fun h => ⟨_, registerWrite_pkg h, bitsOf_low_byte v, rfl⟩, fun k hk => ?_, fun p => ?_⟩
    · exact ⟨_, registerWrite_far hk v s, (tget_tset _ _ _ _ _).trans (if_pos rfl),
        fun j hj => (tget_tset _ _ _ _ _).trans (if_neg (Ne.symm hj))⟩
    · refine ⟨_, registerWrite_lease p v s, ?_⟩
      rw [partAt_modPart]
end Outside

end Sys2Proof.Outside

namespace Sys2Proof.Execution
open Sys2Proof Sys2Proof.Machine Sys2Proof.Laws Sys2Proof.Claims Sys2Proof.Outside
/-! The execution model: work that comes, runs and ends (01 R13-R38; 06 R154-R164; 13 R294-R302).
A section states once what an operation shared by several agents does and leaves alone (walks, filled words, ended tasklets);
the sections that settle an obligation follow the rules they use. -/

section LaneWords
/-- One lane's word of a result: register, lane, value. -/
def putWord (h : Hart) (e : Nat × Nat × Word) : Hart := h.setV e.1 e.2.1 e.2.2
/-- The words of a result in the lanes of a mask: register opVd x + i of lane l takes the i-th word computed for l. -/
def resultWords (x : LaneOp) (m : Mask) (f : Nat → List Word × Flags) : List (Nat × Nat × Word) :=
  ((lanesOf m).map (fun l => (l, f l))).flatMap
    (fun e => (List.range e.2.1.length).map (fun i => (opVd x + i, e.1, e.2.1.getD i 0)))
/-- Landing such a result writes its words, then accrues its flags (05 R137; 03 R66). -/
theorem landOne_vectorResult (x : LaneOp) (p : Plan) (lat : Option Nat) (m : Mask) (f : Nat → List Word × Flags) (h : Hart) :
    landOne h (vectorResult x p lat m f) = accrue ((resultWords x m f).foldl putWord h) (vectorResult x p lat m f).flags := rfl
theorem mem_lanesOf {m : Mask} {l : Nat} : l ∈ lanesOf m ↔ l < 128 ∧ m.getLsbD l = true := by
  simp [lanesOf]
theorem mem_resultWords {x : LaneOp} {m : Mask} {f : Nat → List Word × Flags} {e : Nat × Nat × Word} :
    e ∈ resultWords x m f ↔ ∃ l k, l < 128 ∧ m.getLsbD l = true ∧ k < (f l).1.length ∧ e = (opVd x + k, l, (f l).1.getD k 0) := by
  simp only [resultWords, List.mem_flatMap, List.mem_map, List.mem_range, mem_lanesOf]
  constructor
  · rintro ⟨_, ⟨l, ⟨hl, hm⟩, rfl⟩, k, hk, rfl⟩
    exact ⟨l, k, hl, hm, hk, rfl⟩
  · rintro ⟨l, k, hl, hm, hk, rfl⟩
    exact ⟨_, ⟨l, ⟨hl, hm⟩, rfl⟩, k, hk, rfl⟩
theorem getV_putWord (h : Hart) {e : Nat × Nat × Word} {q j : Nat} (he : e.2.1 < 128) (hj : j < 128) :
    (putWord h e).getV q j = if e.1 = q ∧ e.2.1 = j then e.2.2 else h.getV q j := by
  have hkey : e.1 * 128 + e.2.1 = q * 128 + j ↔ e.1 = q ∧ e.2.1 = j := by omega
  simp only [putWord, getV_setV, hkey]
/-- A word reads as before where no write names it. -/
theorem getV_putWords_other {ws : List (Nat × Nat × Word)} {h : Hart} {q j : Nat} (hlt : ∀ e ∈ ws, e.2.1 < 128) (hj : j < 128)
    (hne : ∀ e ∈ ws, ¬ (e.1 = q ∧ e.2.1 = j)) : (ws.foldl putWord h).getV q j = h.getV q j := by
  induction ws generalizing h with
  | nil => rfl
  | cons e ws ih =>
    obtain ⟨he, hrest⟩ := List.forall_mem_cons.1 hlt
    obtain ⟨hne, hnes⟩ := List.forall_mem_cons.1 hne
    rw [List.foldl_cons, ih hrest hnes, getV_putWord h he hj, if_neg hne]
/-- A word reads the value that every write of it gives. -/
theorem getV_putWords_same {ws : List (Nat × Nat × Word)} {h : Hart} {q j : Nat} {v : Word} (hlt : ∀ e ∈ ws, e.2.1 < 128) (hj : j < 128)
    (hall : ∀ e ∈ ws, e.1 = q → e.2.1 = j → e.2.2 = v) (hv : (q, j, v) ∈ ws ∨ h.getV q j = v) :
    (ws.foldl putWord h).getV q j = v := by
  induction ws generalizing h with
  | nil => exact hv.resolve_left List.not_mem_nil
  | cons e ws ih =>
    obtain ⟨he, hrest⟩ := List.forall_mem_cons.1 hlt
    obtain ⟨hsame, hsames⟩ := List.forall_mem_cons.1 hall
    rw [List.foldl_cons]
    refine ih hrest hsames ?_
    by_cases hmem : (q, j, v) ∈ ws
    · exact .inl hmem
    · refine .inr ?_
      rw [getV_putWord h he hj]
      split
      · exact hsame (And.left ‹_›) (And.right ‹_›)
      · rename_i hother
        rcases hv with hv | hv
        · rcases List.mem_cons.1 hv with rfl | hv
          · exact absurd ⟨rfl, rfl⟩ hother
          · exact absurd hv hmem
        · exact hv
theorem putWords_rest (ws : List (Nat × Nat × Word)) (h : Hart) : ws.foldl putWord h = { h with v := (ws.foldl putWord h).v } := by
  induction ws generalizing h with
  | nil => rfl
  | cons e ws ih => exact ih (putWord h e)
/-- Accrued flags change CSR 0x803 alone. -/
theorem accrue_rest (h : Hart) (fl : Flags) : accrue h fl = { h with csr := (accrue h fl).csr } := by unfold accrue; split <;> rfl
theorem landOne_vectorResult_rest (x : LaneOp) (p : Plan) (lat : Option Nat) (m : Mask) (f : Nat → List Word × Flags) (h : Hart) :
    let g := landOne h (vectorResult x p lat m f)
    g = { h with v := g.v, csr := g.csr } := by
  dsimp only
  rw [landOne_vectorResult, accrue_rest, putWords_rest]
theorem getV_landOne_vectorResult (x : LaneOp) (p : Plan) (lat : Option Nat) (m : Mask) (f : Nat → List Word × Flags) (h : Hart) (q l : Nat) :
    (landOne h (vectorResult x p lat m f)).getV q l = ((resultWords x m f).foldl putWord h).getV q l := by
  rw [landOne_vectorResult, accrue_rest]
  rfl
/-- Settles O34: the words of a result name its registers in its active lanes, each once with one value. -/
theorem inactiveLanesKeepTheirWords : Obligations.InactiveLanesKeepTheirWords := by
  unfold Obligations.InactiveLanesKeepTheirWords
  intro x p lat m f h
  have hlt : ∀ e ∈ resultWords x m f, e.2.1 < 128 := by
    intro e he
    obtain ⟨l, k, hl, -, -, rfl⟩ := mem_resultWords.1 he
    exact hl
  have hrest := landOne_vectorResult_rest x p lat m f h
  have hwords := getV_landOne_vectorResult x p lat m f h
  refine ⟨fun q l hl hm => ?_, fun q l hl _ hq => ?_, fun l k hm hl hk => ?_, fun q => ?_, fun q => ?_⟩
  · rw [hwords]
    refine getV_putWords_other hlt hl fun e he ⟨_, hlane⟩ => ?_
    obtain ⟨l', k, -, hactive, -, rfl⟩ := mem_resultWords.1 he
    subst hlane
    exact absurd hactive (by simp [hm])
  · rw [hwords]
    refine getV_putWords_other hlt hl fun e he ⟨hreg, hlane⟩ => ?_
    obtain ⟨l', k, -, -, hk, rfl⟩ := mem_resultWords.1 he
    subst hlane
    exact hq k hk hreg.symm
  · rw [hwords]
    refine getV_putWords_same hlt hl (fun e he hreg hlane => ?_) (.inl (mem_resultWords.2 ⟨l, k, hl, hm, hk, rfl⟩))
    obtain ⟨l', k', -, -, -, rfl⟩ := mem_resultWords.1 he
    subst hlane
    have hidx : k' = k := by simpa using hreg
    rw [hidx]
  · rw [hrest]; rfl
  · rw [hrest]; rfl
end LaneWords

section Walks
/-- Noting a walk changes the walks in flight alone. -/
theorem noteWalk_rest (s : State) (x : Xlat) : noteWalk s x = { s with mem := { s.mem with walks := (noteWalk s x).mem.walks } } := by
  unfold noteWalk
  split
  · rfl
  · split <;> rfl
theorem note_rest (l : Located) (s : State) : l.note s = { s with mem := { s.mem with walks := (l.note s).mem.walks } } := noteWalk_rest s _
theorem routeFrom_congr {s t : State} (hrouters : t.routers = s.routers) (hparts : t.parts = s.parts) (f a d : Nat) :
    routeFrom f t a d = routeFrom f s a d := by
  have hcode : ∀ a d, routerCode t a d = routerCode s a d := by
    intro a d
    unfold routerCode partOf partAt
    rw [hrouters, hparts]
  induction f generalizing a with
  | zero => rfl
  | succ f ih => simp only [routeFrom, hcode, ih]
/-- Whether a packet is dropped depends on routers and partitions alone (15 R335, R336). -/
theorem dropped_congr {s t : State} (hrouters : t.routers = s.routers) (hparts : t.parts = s.parts) (p src : Nat) (l : Loc) :
    dropped t p src l = dropped s p src l := by
  have hhub : hubChannel t p src l = hubChannel s p src l := by
    unfold hubChannel inPart partAt
    rw [hparts]
  unfold dropped packetRoute
  simp only [hhub, routeFrom_congr hrouters hparts]
theorem mustWait_quiet {s : State} (hq : Quiet s) (k : Nat) : mustWait s k = false := by
  obtain ⟨hnet, hfar⟩ := hq
  simp [mustWait, hnet, hfar]
theorem flushAgent_quiet {s : State} (hq : Quiet s) (k : Nat) : flushAgent s k = (s, true) := flushAgent_none (mustWait_quiet hq k)
end Walks

section Sending
/-- Where the target of a tasklet is found, its walk does not wait. -/
theorem taskletTarget_ok {s s' : State} {h : Hart} {va : DWord} {pa : Nat} (ht : taskletTarget s h va = .ok (s', pa)) :
    walkWaits s (dataCtx h) h.lkey .load va = false ∧ ∃ x, s' = noteWalk s x := by
  unfold taskletTarget at ht
  unfold walkWaits walkHeld
  dsimp only at ht
  split at ht
  · cases ht
  · rename_i hwin
    split at ht
    · cases ht
    · rename_i x hx
      split at ht
      · cases ht
        exact ⟨by simp [hwin, hx], x, rfl⟩
      · cases ht
/-- The state after a tasklet has left its group (01 R33; 06 R162). -/
def withTasklet (s : State) (pc arg : DWord) (reply : Option DWord) (home : Nat) : State :=
  retire (modLaunch { s with harts := tput s.harts s.nextTask (newTasklet s (curHart s) pc arg reply home), nextTask := s.nextTask + 1 }
    (curHart s).lkey (fun l => { l with liveTasks := l.liveTasks + 1 }))
/-- What sending runs where the group may send: the reply word's check, and the departure (06 R162). -/
theorem sendTasklet_runs {bits : DWord} {rs1 rs2 : Reg} {reply : Option Reg} {regs : List Reg} {s s' : State} {pa : Nat}
    (hl : InLaunch s) (ht : taskletTarget s (curHart s) (xs s rs1) = .ok (s', pa)) :
    (∀ t, reply.bind (fun r => replyCheck s' (curHart s) (xs s r)) = some t →
      sendTasklet bits rs1 rs2 reply regs s = .next (trapCur s' t)) ∧
    (reply.bind (fun r => replyCheck s' (curHart s) (xs s r)) = none → Quiet s' →
      dropped s' (curHart s).actsFor (curHart s).tile (.mem pa) = false →
      homeRoom s' (homeOf pa) (launchAt s' (curHart s).lkey).pid = true → curHart s' = curHart s →
      sendTasklet bits rs1 rs2 reply regs s = .next (withTasklet s' (xs s rs2) (xs s rs1) (reply.map (xs s)) (homeOf pa))) := by
  obtain ⟨hgroup, hlaunch⟩ := hl
  have hwalk := (taskletTarget_ok ht).1
  have hboot : (curHart s).boot = false := by simp [Hart.boot, hlaunch]
  unfold xs at ht hwalk ⊢
  unfold sendTasklet
  rw [scalar_runs (fun h => by rw [hgroup] at h; cases h)]
  simp only [hboot, hwalk, ht, Bool.false_eq_true, if_false]
  refine ⟨fun t hc => by rw [hc], fun hc hq hdrop hroom hcur => ?_⟩
  simp only [hc, flushAgent_quiet hq, hdrop, hroom, Bool.not_true, Bool.false_eq_true, if_false, withTasklet, hcur]
theorem tget_below {d : DWord} {t : Table DWord} {k : Nat} (h : ∀ e ∈ t, k < e.1) : tget d t k = d := by
  induction t with
  | nil => rfl
  | cons e t ih =>
    obtain ⟨he, ht⟩ := List.forall_mem_cons.1 h
    rw [tget, if_neg (by omega), ih ht]
/-- Leaving the zeros of a table out changes nothing that is read. -/
theorem tget_nonzero {t : Table DWord} (h : Rising t) (k : Nat) : tget 0 (t.filter (fun e => e.2 != 0)) k = tget 0 t k := by
  induction t with
  | nil => rfl
  | cons e t ih =>
    obtain ⟨hbelow, hrest⟩ := h
    by_cases hzero : e.2 = 0
    · rw [List.filter_cons_of_neg (by simp [hzero]), ih hrest, tget]
      split
      · rename_i hk
        subst hk
        rw [tget_below hbelow, hzero]
      · rfl
    · rw [List.filter_cons_of_pos (by exact bne_iff_ne.2 hzero), tget, tget, ih hrest]
theorem getX_newTasklet (s : State) (h : Hart) (pc arg : DWord) (reply : Option DWord) (home : Nat) (q : Reg) :
    (newTasklet s h pc arg reply home).getX q =
      if q = 0 then 0 else tget 0 [(1, arg), (2, h.getX 11), (3, h.getX 12), (4, h.getX 13), (5, h.getX 14)] q.toNat := by
  unfold Hart.getX
  split
  · rfl
  · exact tget_nonzero (by simp [Rising]) q.toNat
theorem isNewTasklet_newTasklet {s w : State} (hcur : curHart w = curHart s) (hlaunches : w.launches = s.launches) (pc arg : DWord)
    (reply : Option DWord) (home : Nat) : IsNewTasklet s (newTasklet w (curHart w) pc arg reply home) pc arg reply home := by
  have hx := getX_newTasklet w (curHart s) pc arg reply home
  have hpid : (newTasklet w (curHart s) pc arg reply home).pid = (myLaunch s).pid := by
    show (launchAt w (curHart s).lkey).pid = _
    rw [launchAt, hlaunches]
    rfl
  rw [hcur]
  refine ⟨rfl, rfl, rfl, rfl, rfl, rfl, rfl, hpid, hx 1, hx 2, hx 3, hx 4, hx 5, fun q hq => ?_, rfl, rfl⟩
  rw [hx]
  split
  · rfl
  · simp only [tget]
    repeat rw [if_neg (by omega)]
@[simp] theorem retireHart_lkey (h : Hart) : (retireHart h).lkey = h.lkey := rfl
theorem sends_withTasklet {i : Instr} {s w : State} {pc arg : DWord} {reply : Option DWord} {home : Nat} (hne : s.nextTask ≠ s.cur)
    (hw : w = { s with mem := { s.mem with walks := w.mem.walks } }) (hgoes : exec i s = .next (withTasklet w pc arg reply home)) :
    Sends i s pc arg reply home := by
  have hcur : curHart w = curHart s := by rw [hw]; rfl
  have hsame : SameBytes s w := by rw [hw]; exact sameBytes_of_contents rfl
  obtain ⟨hnext, hlaunches, hcurk⟩ : w.nextTask = s.nextTask ∧ w.launches = s.launches ∧ w.cur = s.cur := by
    rw [hw]; exact ⟨rfl, rfl, rfl⟩
  have hsent : hartAt (withTasklet w pc arg reply home) s.nextTask = newTasklet w (curHart w) pc arg reply home := by
    refine (hartAt_modCur_ne _ _ (by rw [← hcurk] at hne; exact hne)).trans ?_
    rw [← hnext]
    exact tget_tput_same _ _ _ _
  have hself : curHart (withTasklet w pc arg reply home) = retireHart (curHart s) := by
    refine (curHart_retire _).trans ?_
    rw [← hcur]
    exact congrArg retireHart (tget_tput_ne _ _ _ (by rw [hnext, hcurk]; exact hne))
  refine ⟨_, hgoes, ?_, congrArg (· + 1) hnext, ?_, hsame, ?_⟩
  · rw [hsent]
    exact isNewTasklet_newTasklet hcur hlaunches pc arg reply home
  · rw [hself]; rfl
  · unfold myLaunch
    rw [hself]
    rw [← hcur]
    show (tget {} (tput w.launches _ _) _).liveTasks = _
    rw [retireHart_lkey, tget_tput_same]
    show (launchAt w _).liveTasks + 1 = _
    rw [launchAt, hlaunches]
    rfl
theorem replyCheck_noteWalk (s : State) (x : Xlat) (h : Hart) (wa : DWord) : replyCheck (noteWalk s x) h wa = replyCheck s h wa := by
  rw [noteWalk_rest]; rfl
theorem taskletsAreSent : TaskletsAreSent := by
  intro rs1 rs2 rs3 s s' pa hl hq hne ht hroute hroom
  obtain ⟨x, rfl⟩ := (taskletTarget_ok ht).2
  have hrest := noteWalk_rest s x
  have hquiet : Quiet (noteWalk s x) := by rw [hrest]; exact hq
  have hdrop : dropped (noteWalk s x) (curHart s).actsFor (curHart s).tile (.mem pa) = false := by
    rw [← hroute]; exact dropped_congr (by rw [hrest]) (by rw [hrest]) _ _ _
  have hhome : homeRoom (noteWalk s x) (homeOf pa) (launchAt (noteWalk s x) (curHart s).lkey).pid = true := by
    rw [hrest]; exact hroom
  have hcur : curHart (noteWalk s x) = curHart s := by rw [hrest]; rfl
  refine ⟨?_, fun hreply => ?_, fun t hreply => ?_⟩
  · exact sends_withTasklet hne hrest ((sendTasklet_runs (reply := none) hl ht).2 rfl hquiet hdrop hhome hcur)
  · refine sends_withTasklet hne hrest ((sendTasklet_runs (reply := some rs3) hl ht).2 ?_ hquiet hdrop hhome hcur)
    exact (replyCheck_noteWalk s x _ _).trans hreply
  · refine ⟨noteWalk s x, (sendTasklet_runs (reply := some rs3) hl ht).1 t ?_, ?_⟩
    · exact (replyCheck_noteWalk s x _ _).trans hreply
    · rw [hrest]
      exact ⟨rfl, fun _ _ => rfl, fun _ _ => rfl⟩
end Sending

section FilledWords
/-- A write to a place that holds bytes stores them there, and leaves every byte beside them alone. -/
theorem readBytes_writeBytes_same {l : Loc} (hl : HoldsBytes l) (m : Mem) (bs : List Byte) : readBytes (writeBytes m l bs) l bs.length = bs := by
  cases l
  case mem a => exact getBytes_putBytes _ a bs
  case win a => exact getBytes_putBytes _ a bs
  case host a => exact getBytes_putBytes _ a bs
  case mbox b => exact readBytes_mboxPut m b bs
  all_goals exact hl.elim
theorem readBytes_writeBytes_apart (m : Mem) {l l' : Loc} {k : Nat} {bs : List Byte} (h : overlaps l' k l bs.length = false) :
    readBytes (writeBytes m l bs) l' k = readBytes m l' k := by
  cases l
  case mem a => exact readBytes_writeMem_apart m a bs l' k h
  case mbox b => exact readBytes_mboxPut_apart m b bs l' k h
  case win a =>
    cases l'
    case win b => exact getBytes_putBytes_apart m.scratch h
    all_goals rfl
  case host a =>
    cases l'
    case host b => exact getBytes_putBytes_apart m.host h
    all_goals rfl
  all_goals rfl
theorem wroteBytes_of_contents {s t : State} {l : Loc} {n v : Nat} (hl : HoldsBytes l)
    (h : contents t.mem = contents (writeBytes s.mem l (leBytes n v))) : WroteBytes s t l n v := by
  have hlen := leBytes_length n v
  constructor
  · have hread := readBytes_writeBytes_same hl s.mem (leBytes n v)
    rw [hlen] at hread
    exact (readBytes_of_contents h _ _).trans hread
  · intro l' k hout
    exact (readBytes_of_contents h l' k).trans (readBytes_writeBytes_apart s.mem (by rw [hlen]; exact hout))
/-- The words that carry a full-empty bit: of scratchpads and of mailbox slots (04 R89). -/
def FullEmptyWord : Loc → Prop
  | .win _ => True
  | .mbox _ => True
  | _ => False
theorem holdsBytes_of_fullEmptyWord {l : Loc} (h : FullEmptyWord l) : HoldsBytes l := by cases l <;> trivial
/-- The full-empty bits of a memory. -/
def fullBits (m : Mem) : Table Bool × Table Bool := (m.empty, m.mboxFull)
theorem isFull_of_fullBits {m m' : Mem} (h : fullBits m = fullBits m') (l : Loc) : isFull m l = isFull m' l := by
  simp only [fullBits, Prod.mk.injEq] at h
  cases l <;> simp only [isFull, h]
theorem fullBits_writeLoc (m : Mem) (l : Loc) (n : Nat) (v : DWord) : fullBits (writeLoc m l n v) = fullBits m := by
  cases l
  case mbox b => exact Prod.ext (mboxPut_empty m b _) (mboxPut_mboxFull m b _)
  all_goals rfl
theorem isFull_setFull_same {l : Loc} (hl : FullEmptyWord l) (m : Mem) (b : Bool) : isFull (setFull m l b) l = b := by
  cases l
  case win o => simp [isFull, setFull, tget_tset]
  case mbox o => simp [isFull, setFull, tget_tset]
  all_goals exact hl.elim
theorem isFull_setFull_apart (m : Mem) {l l' : Loc} (b : Bool) (h : sameWord l' l = false) : isFull (setFull m l b) l' = isFull m l' := by
  cases l
  case win o =>
    cases l'
    case win o' =>
      have hne : o / 4 ≠ o' / 4 := Ne.symm (by simpa only [sameWord, beq_eq_false_iff_ne] using h)
      simp only [isFull, setFull, tget_tset, if_neg hne]
    all_goals rfl
  case mbox o =>
    cases l'
    case mbox o' =>
      have hne : o / 4 ≠ o' / 4 := Ne.symm (by simpa only [sameWord, beq_eq_false_iff_ne] using h)
      simp only [isFull, setFull, tget_tset, if_neg hne]
    all_goals rfl
  all_goals rfl
theorem setsFull_of_fullBits {s t : State} {l : Loc} {b : Bool} (hl : FullEmptyWord l) (h : fullBits t.mem = fullBits (setFull s.mem l b)) :
    SetsFull s t l b :=
  ⟨(isFull_of_fullBits h l).trans (isFull_setFull_same hl _ b), fun l' hl' => (isFull_of_fullBits h l').trans (isFull_setFull_apart _ b hl')⟩
/-- The memory in which a word of data stands full at a place (04 R89). -/
def filledMem (m : Mem) (l : Loc) (w : Word) : Mem := setFull (writeLoc m l 4 (w.setWidth 64)) l true
/-- A word on which nothing is parked is filled by a set-full write, which does nothing else. -/
theorem setFullWrite_noneParked {s : State} {l : Loc} (h : NoneParked s l) (w : Word) :
    setFullWrite s l w = modMem s (fun m => filledMem m l w) := by
  refine servePlace_noneParked fun p hp => h p ?_
  have hparks : (filledMem s.mem l w).parks = s.mem.parks := by
    cases l
    case mbox b => exact (congrArg Mem.parks (mboxPut_rest s.mem b _)).trans rfl
    all_goals rfl
  rw [← hparks]
  exact hp
theorem contents_filledMem (m : Mem) (l : Loc) (w : Word) : contents (filledMem m l w) = contents (writeBytes m l (leBytes 4 w.toNat)) := by
  have hbytes : (w.setWidth 64).toNat = w.toNat := by simp; omega
  unfold filledMem writeLoc
  rw [contents_setFull, hbytes]
theorem fullBits_filledMem (m : Mem) (l : Loc) (w : Word) : fullBits (filledMem m l w) = fullBits (setFull m l true) := by
  have h := fullBits_writeLoc m l 4 (w.setWidth 64)
  simp only [fullBits, Prod.mk.injEq] at h
  cases l <;> simp only [fullBits, filledMem, setFull, h]
theorem filledWord_of_filledMem {s t : State} {l : Loc} {w : Word} (hl : FullEmptyWord l) (hcontents : contents t.mem = contents (filledMem s.mem l w))
    (hfull : fullBits t.mem = fullBits (filledMem s.mem l w)) : FilledWord s t l w :=
  ⟨wroteBytes_of_contents (holdsBytes_of_fullEmptyWord hl) (hcontents.trans (contents_filledMem _ l w)),
    setsFull_of_fullBits hl (hfull.trans (fullBits_filledMem _ l w))⟩
end FilledWords

section EndedTasklets
theorem harts_endTasklet (s : State) (k : Nat) : (endTasklet s k).harts = tdel s.harts k := by
  simp only [endTasklet, releaseResv, modLaunch_harts, modHome, modMem_harts]
theorem tfind_harts_endTasklet (s : State) (k : Nat) : tfind (endTasklet s k).harts k = none := by
  rw [harts_endTasklet, tfind_tdel, if_pos rfl]
theorem hartAt_endTasklet_ne (s : State) {k j : Nat} (h : j ≠ k) : hartAt (endTasklet s k) j = hartAt s j := by
  rw [hartAt, harts_endTasklet, tget_tdel, if_neg (Ne.symm h), hartAt]
/-- Of memory, an ended tasklet gives up reservations and parked accesses alone (01 R38). -/
theorem mem_endTasklet (s : State) (k : Nat) :
    (endTasklet s k).mem = { s.mem with resvs := (endTasklet s k).mem.resvs, parks := (endTasklet s k).mem.parks } := by
  simp only [endTasklet, releaseResv, trimQueues, modLaunch_mem, modHome_mem, modMem_mem]
theorem contents_endTasklet (s : State) (k : Nat) : contents (endTasklet s k).mem = contents s.mem := by rw [mem_endTasklet]; rfl
theorem fullBits_endTasklet (s : State) (k : Nat) : fullBits (endTasklet s k).mem = fullBits s.mem := by rw [mem_endTasklet]; rfl
theorem net_endTasklet (s : State) (k : Nat) : (endTasklet s k).mem.net = s.mem.net := by rw [mem_endTasklet]
theorem launchAt_endTasklet (s : State) (k : Nat) : launchAt (endTasklet s k) (hartAt s k).lkey =
    { launchAt s (hartAt s k).lkey with liveTasks := (launchAt s (hartAt s k).lkey).liveTasks - 1 } := by
  simp only [endTasklet, launchAt, modLaunch, modHome, releaseResv, modMem, tget_tput_same]
theorem taskletOnly_group {bits : DWord} {regs : List Reg} {s : State} {f : Hart → State} (h : IsGroup s) :
    taskletOnly bits regs s f = .next (trapCur s (illegal bits)) := by
  unfold IsGroup at h
  simp [taskletOnly, h]
theorem taskletOnly_runs {bits : DWord} {regs : List Reg} {s : State} {f : Hart → State} (ht : (curHart s).tasklet = true)
    (hr : MayRun s regs) : taskletOnly bits regs s f = .next (f (curHart s)) := by
  have hmay : taskletMay true regs = true := by
    simp only [taskletMay, Bool.true_and, List.all_eq_true, decide_eq_true_eq]
    exact hr ht
  simp [taskletOnly, ht, hmay]
theorem afterRelease_quiet {s : State} (hq : Quiet s) (f : State → State) : afterRelease s f = f s := afterRelease_none f (mustWait_quiet hq _)
/-- A REPLY whose word may be written and that nothing holds fills the word and ends its tasklet (06 R163). -/
theorem reply_runs {s : State} {rs1 : Reg} {wa : DWord} {o : Nat} (ht : (curHart s).tasklet = true) (hr : MayRun s [rs1]) (hq : Quiet s)
    (hn : NoTrace s) (hreply : (curHart s).reply = some wa) (hoff : windowOff s (curHart s).lkey wa.toNat = some o)
    (hok : windowOk s (curHart s).lkey o 4 = true) (hfree : heldWrite s s.cur (.win o) 4 = false) (hpark : NoneParked s (.win o)) :
    Goes (.reply rs1) s (endTasklet (modMem s (fun m => filledMem m (.win o) ((xs s rs1).setWidth 32))) s.cur) := by
  refine (exec_reply s).trans ((taskletOnly_runs ht hr).trans ?_)
  simp only [hreply, afterRelease_quiet hq, hoff, hok, hfree, Bool.not_true, Bool.false_eq_true, if_false]
  rw [setFullWrite_noneParked hpark, traceEvent_off (by exact hn)]
  rfl
theorem reply_ends {s : State} {rs1 : Reg} {wa : DWord} {o : Nat} (ht : (curHart s).tasklet = true) (hr : MayRun s [rs1]) (hq : Quiet s)
    (hn : NoTrace s) (hreply : (curHart s).reply = some wa) (hoff : windowOff s (curHart s).lkey wa.toNat = some o)
    (hok : windowOk s (curHart s).lkey o 4 = true) (hfree : heldWrite s s.cur (.win o) 4 = false) (hpark : NoneParked s (.win o)) :
    ∃ t, exec (.reply rs1) s = .next t ∧ tfind t.harts s.cur = none ∧ (∀ k, k ≠ s.cur → hartAt t k = hartAt s k) ∧
      WroteBytes s t (.win o) 4 ((xs s rs1).toNat % 2 ^ 32) ∧ SetsFull s t (.win o) true ∧
      (launchAt t (curHart s).lkey).liveTasks = (myLaunch s).liveTasks - 1 := by
  have hword : ((xs s rs1).setWidth 32).toNat = (xs s rs1).toNat % 2 ^ 32 := BitVec.toNat_setWidth _ _
  have hfilled := filledWord_of_filledMem (s := s) (l := .win o) (w := (xs s rs1).setWidth 32)
    (t := endTasklet (modMem s (fun m => filledMem m (.win o) ((xs s rs1).setWidth 32))) s.cur) trivial
    (contents_endTasklet _ _) (fullBits_endTasklet _ _)
  rw [FilledWord, hword] at hfilled
  exact ⟨_, reply_runs ht hr hq hn hreply hoff hok hfree hpark, tfind_harts_endTasklet _ _, fun k hk => hartAt_endTasklet_ne _ hk,
    hfilled.1, hfilled.2, congrArg Launch.liveTasks (launchAt_endTasklet (modMem s _) s.cur)⟩
theorem texit_ends {s : State} (ht : (curHart s).tasklet = true) (hn : NoTrace s) :
    ∃ t, exec .texit s = .next t ∧ tfind t.harts s.cur = none ∧ (∀ k, k ≠ s.cur → hartAt t k = hartAt s k) ∧ SameBytes s t ∧
      t.mem.net = s.mem.net ∧ (launchAt t (curHart s).lkey).liveTasks = (myLaunch s).liveTasks - 1 := by
  have hgoes : Goes .texit s (endTasklet s s.cur) := by
    refine (exec_texit s).trans ((taskletOnly_runs ht (fun _ r hr => absurd hr List.not_mem_nil)).trans ?_)
    rw [traceEvent_off hn]
  exact ⟨_, hgoes, tfind_harts_endTasklet _ _, fun k hk => hartAt_endTasklet_ne _ hk, sameBytes_of_contents (contents_endTasklet _ _),
    net_endTasklet _ _, congrArg Launch.liveTasks (launchAt_endTasklet s s.cur)⟩
theorem taskletsEnd : TaskletsEnd := by
  refine ⟨fun rs1 s rw o => reply_ends, fun s => texit_ends,
    fun rs1 s hg => ⟨(exec_reply s).trans (taskletOnly_group hg), (exec_texit s).trans (taskletOnly_group hg)⟩, ?_⟩
  intro rs1 s ht hr hreply
  refine (exec_reply s).trans ((taskletOnly_runs ht hr).trans ?_)
  rw [hreply]
end EndedTasklets

section TaskletInstructions
/-- The instructions that 05 R123 withholds from a tasklet whatever they name. -/
def forGroups : Instr → Bool
  | .lrun _ | .lrunr _ | .lpc .. => true
  | .mand .. | .mor .. | .mxor .. | .mandn .. | .mnot .. | .mmov .. | .mpush _ | .mpop _ | .mpeek .. | .mpoke .. => true
  | .mcnt .. | .mfirst .. | .mgetx .. | .msetx .. | .bmany .. | .bmnone .. | .bmall .. => true
  | .barInit .. | .barArrive .. | .barWait .. | .barQuery .. | .gbarArrive .. | .gbarWait .. => true
  | .launch .. | .fork .. | .join .. | .callat .. | .spawnat .. | .exit | .exitPark | .yield => true
  | .cpy .. | .cpyRs .. | .cpyPf .. | .mld .. | .accGet _ | .accPut _ | .accZero _ | .accQuery _ | .lbind _ => true
  | _ => false
theorem groupOnly_iff (w : Word) :
    GroupOnly w ↔ opF w = 0x0B ∨ (opF w = 0x2B ∧ f3 w = 7) ∨ (opF w = 0x5B ∧ f3 w ≠ 5) ∨ (opF w = 0x7B ∧ f3 w ≠ 4) := by
  simp only [GroupOnly, opF, f3, ← BitVec.toNat_inj, ne_eq]
  rfl
/-- The formats of 05 R121 mark exactly these instructions' words. -/
theorem forGroups_of_groupOnly {i : Instr} {w : Word} (he : encode i = [w]) (hw : GroupOnly w) : forGroups i = true := by
  rw [groupOnly_iff] at hw
  by_contra hi
  cases i
  case texit | ecall | ebreak | pause | sret | mret | wfi => cases he; exact absurd hw (by decide)
  all_goals try exact absurd rfl hi
  all_goals cases he
  all_goals simp at hw
section Refused
/-! What each shared operation answers in a tasklet that may not execute the instruction (05 R123). -/
variable {s : State} (ht : (curHart s).tasklet = true)
include ht
theorem maskOp1_stops {bits : DWord} {rd ma : Reg} {f : Mask → Mask} : maskOp1 bits rd ma s f = .next (taskletTrapOp s s.cur 24 bits) :=
  scalar_stops ht (.inl rfl)
theorem maskOp2_stops {bits : DWord} {rd ma mb : Reg} {f : Mask → Mask → Mask} : maskOp2 bits rd ma mb s f = .next (taskletTrapOp s s.cur 24 bits) :=
  scalar_stops ht (.inl rfl)
theorem maskBranch_stops {bits : DWord} {ma : Reg} {off : BitVec 12} {c : Mask → Bool} : maskBranch bits ma off s c = .next (taskletTrapOp s s.cur 24 bits) :=
  scalar_stops ht (.inl rfl)
theorem onBar_stops {bits : DWord} {n : Reg} {regs : List Reg} {f : Hart → Bar → State} : onBar bits n regs s f = .next (taskletTrapOp s s.cur 24 bits) :=
  scalar_stops ht (.inl rfl)
theorem onGbar_stops {bits : DWord} {n : Reg} {regs : List Reg} {f : Hart → Bar → State} : onGbar bits n regs s f = .next (taskletTrapOp s s.cur 24 bits) :=
  scalar_stops ht (.inl rfl)
theorem sendTasklet_stops {bits : DWord} {rs1 rs2 : Reg} {reply : Option Reg} {regs : List Reg} :
    sendTasklet bits rs1 rs2 reply regs s = .next (taskletTrapOp s s.cur 24 bits) :=
  scalar_stops ht (.inl rfl)
theorem exitOp_stops {bits : DWord} {park : Bool} : exitOp bits park s = .next (taskletTrapOp s s.cur 24 bits) :=
  scalar_stops ht (.inl rfl)
theorem cpyOp_stops {bits : DWord} {form : Nat} {bar rs1 rs2 rs3 : Reg} : cpyOp bits form bar rs1 rs2 rs3 s = .next (taskletTrapOp s s.cur 24 bits) :=
  scalar_stops ht (.inl rfl)
theorem accOp_stops {bits : DWord} {t : Reg} {f : Hart → Option Hart} : accOp bits t s f = .next (taskletTrapOp s s.cur 24 bits) :=
  scalar_stops ht (.inl rfl)
theorem aluI_stops {bits : DWord} {rd rs1 : Reg} {f : DWord → DWord} (h : ∃ r ∈ ([rd, rs1] : List Reg), ¬ r < 11) :
    aluI bits rd rs1 s f = .next (taskletTrapOp s s.cur 24 bits) := scalar_stops ht (.inr h)
theorem aluR_stops {bits : DWord} {rd rs1 rs2 : Reg} {f : DWord → DWord → DWord} (h : ∃ r ∈ ([rd, rs1, rs2] : List Reg), ¬ r < 11) :
    aluR bits rd rs1 rs2 s f = .next (taskletTrapOp s s.cur 24 bits) := scalar_stops ht (.inr h)
theorem branch_stops {bits : DWord} {rs1 rs2 : Reg} {off : BitVec 12} {c : DWord → DWord → Bool} (h : ∃ r ∈ ([rs1, rs2] : List Reg), ¬ r < 11) :
    branch bits rs1 rs2 off s c = .next (taskletTrapOp s s.cur 24 bits) := scalar_stops ht (.inr h)
theorem loadOp_stops {bits : DWord} {rd rs1 : Reg} {imm : BitVec 12} {n : Nat} {sg : Bool} (h : ∃ r ∈ ([rd, rs1] : List Reg), ¬ r < 11) :
    loadOp bits rd rs1 imm n sg s = .next (taskletTrapOp s s.cur 24 bits) := scalar_stops ht (.inr h)
theorem storeOp_stops {bits : DWord} {rs1 rs2 : Reg} {imm : BitVec 12} {n : Nat} (h : ∃ r ∈ ([rs1, rs2] : List Reg), ¬ r < 11) :
    storeOp bits rs1 rs2 imm n s = .next (taskletTrapOp s s.cur 24 bits) := scalar_stops ht (.inr h)
theorem amoOp_stops {bits : DWord} {o : Rmw} {rd rs1 rs2 : Reg} {aq rl : Bool} {n : Nat} (h : ∃ r ∈ ([rd, rs1, rs2] : List Reg), ¬ r < 11) :
    amoOp bits o rd rs1 rs2 aq rl n s = .next (taskletTrapOp s s.cur 24 bits) := scalar_stops ht (.inr h)
/-- An instruction for groups alone answers LANE_ILLEGAL, with its word in the record (05 R123). -/
theorem forGroups_stops {i : Instr} (hi : forGroups i = true) : exec i s = .next (taskletTrapOp s s.cur 24 (insnBits i)) := by
  cases i
  case mnot | mmov => unfold exec; exact maskOp1_stops ht
  case mand | mor | mxor | mandn => unfold exec; exact maskOp2_stops ht
  case bmany | bmnone | bmall => unfold exec; exact maskBranch_stops ht
  case barInit | barArrive | barWait | barQuery => unfold exec; exact onBar_stops ht
  case gbarArrive | gbarWait => unfold exec; exact onGbar_stops ht
  case callat | spawnat => unfold exec; exact sendTasklet_stops ht
  case exit | exitPark => unfold exec; exact exitOp_stops ht
  case cpy | cpyRs | cpyPf => unfold exec; exact cpyOp_stops ht
  case accGet | accPut | accZero => unfold exec; exact accOp_stops ht
  all_goals cases hi
  all_goals unfold exec; exact scalar_stops ht (.inl rfl)
/-- The instructions of a list stop. -/
def AllStop (s : State) (is : List Instr) : Prop := ∀ i ∈ is, exec i s = .next (taskletTrapOp s s.cur 24 (insnBits i))
theorem regTable_stops {rd rs1 rs2 : Reg} (h : ∃ r ∈ [rd, rs1, rs2], ¬ r < 11) : AllStop s (regTable.map (fun e => e.1 rd rs1 rs2)) := by
  simp only [AllStop, regTable, List.map_cons, List.map_nil, List.forall_mem_cons]
  constructorm* _ ∧ _
  case right => simp
  all_goals unfold exec; exact aluR_stops ht h
theorem divTable_stops {rd rs1 rs2 : Reg} (h : ∃ r ∈ [rd, rs1, rs2], ¬ r < 11) : AllStop s (divTable.map (fun e => e.1 rd rs1 rs2)) := by
  simp only [AllStop, divTable, List.map_cons, List.map_nil, List.forall_mem_cons]
  constructorm* _ ∧ _
  case right => simp
  all_goals unfold exec; exact aluR_stops ht h
theorem immTable_stops {rd rs1 : Reg} {imm : BitVec 12} (h : ∃ r ∈ [rd, rs1], ¬ r < 11) : AllStop s (immTable.map (fun e => e.1 rd rs1 imm)) := by
  simp only [AllStop, immTable, List.map_cons, List.map_nil, List.forall_mem_cons]
  constructorm* _ ∧ _
  case right => simp
  all_goals unfold exec; exact aluI_stops ht h
theorem loadTable_stops {rd rs1 : Reg} {imm : BitVec 12} (h : ∃ r ∈ [rd, rs1], ¬ r < 11) : AllStop s (loadTable.map (fun e => e.1 rd rs1 imm)) := by
  simp only [AllStop, loadTable, List.map_cons, List.map_nil, List.forall_mem_cons]
  constructorm* _ ∧ _
  case right => simp
  all_goals unfold exec; exact loadOp_stops ht h
theorem storeTable_stops {rd rs1 : Reg} {imm : BitVec 12} (h : ∃ r ∈ [rd, rs1], ¬ r < 11) : AllStop s (storeTable.map (fun e => e.1 rd rs1 imm)) := by
  simp only [AllStop, storeTable, List.map_cons, List.map_nil, List.forall_mem_cons]
  constructorm* _ ∧ _
  case right => simp
  all_goals unfold exec; exact storeOp_stops ht h
theorem branchTable_stops {rd rs1 : Reg} {imm : BitVec 12} (h : ∃ r ∈ [rd, rs1], ¬ r < 11) : AllStop s (branchTable.map (fun e => e.1 rd rs1 imm)) := by
  simp only [AllStop, branchTable, List.map_cons, List.map_nil, List.forall_mem_cons]
  constructorm* _ ∧ _
  case right => simp
  all_goals unfold exec; exact branch_stops ht h
theorem amoTable_stops {rd rs1 rs2 : Reg} {aq rl : Bool} (h : ∃ r ∈ [rd, rs1, rs2], ¬ r < 11) :
    AllStop s (amoTable.map (fun e => e.1 rd rs1 rs2 aq rl)) := by
  simp only [AllStop, amoTable, amoW, amoD, amoRows, List.zip_cons_cons, List.zip_nil_left, List.map_cons, List.map_nil,
    List.cons_append, List.nil_append, List.forall_mem_cons]
  constructorm* _ ∧ _
  case right => simp
  all_goals unfold exec; exact amoOp_stops ht h
end Refused
theorem taskletsKeepToTheirInstructions : TaskletsKeepToTheirInstructions := by
  refine ⟨fun i w s he hw ht => ?_, fun s rd rs1 rs2 ht hr => ?_, fun s rd rs1 imm ht hr => ?_⟩
  · have hbits : insnBits i = w.setWidth 64 := by unfold insnBits; rw [he]; rfl
    rw [← hbits]
    exact forGroups_stops ht (forGroups_of_groupOnly he hw)
  · have habove : ∃ r ∈ [rd, rs1, rs2], ¬ r < 11 := by
      by_contra hnone
      simp only [List.forall_mem_cons, not_exists, not_and, not_not] at hnone
      obtain ⟨hrd, hrs1, hrs2, -⟩ := hnone
      exact hr ⟨hrd, hrs1, hrs2⟩
    exact ⟨List.forall_mem_map.1 (regTable_stops ht habove), List.forall_mem_map.1 (divTable_stops ht habove),
      fun e he aq rl => List.forall_mem_map.1 (amoTable_stops ht habove) e he⟩
  · have habove : ∃ r ∈ [rd, rs1], ¬ r < 11 := by
      by_contra hnone
      simp only [List.forall_mem_cons, not_exists, not_and, not_not] at hnone
      obtain ⟨hrd, hrs1, -⟩ := hnone
      exact hr ⟨hrd, hrs1⟩
    exact ⟨List.forall_mem_map.1 (immTable_stops ht habove), List.forall_mem_map.1 (loadTable_stops ht habove),
      List.forall_mem_map.1 (storeTable_stops ht habove), List.forall_mem_map.1 (branchTable_stops ht habove)⟩
/-- Settles O60: tasklets are sent, end, and stop at an instruction that is not theirs. -/
theorem taskletsAreSentAndEnd : Obligations.TaskletsAreSentAndEnd := ⟨taskletsAreSent, taskletsEnd, taskletsKeepToTheirInstructions⟩
end TaskletInstructions

section Homes
@[simp] theorem homeAt_modHome (s : State) (t : Nat) (f : Home → Home) : homeAt (modHome s t f) t = f (homeAt s t) := tget_tput_same _ _ _ _
@[simp] theorem hartAt_modHome (s : State) (t : Nat) (f : Home → Home) (k : Nat) : hartAt (modHome s t f) k = hartAt s k := rfl
@[simp] theorem homeAt_modHart (s : State) (k : Nat) (f : Hart → Hart) (t : Nat) : homeAt (modHart s k f) t = homeAt s t := rfl
@[simp] theorem homeAt_setHart (s : State) (k : Nat) (h : Hart) (t : Nat) : homeAt (setHart s k h) t = homeAt s t := rfl
@[simp] theorem homeAt_count (s : State) (cls tile unit ev n t : Nat) : homeAt (count s cls tile unit ev n) t = homeAt s t := rfl
@[simp] theorem hartAt_count (s : State) (cls tile unit ev n k : Nat) : hartAt (count s cls tile unit ev n) k = hartAt s k := rfl
theorem onlyHart_setHart (s : State) (k : Nat) (h : Hart) : OnlyHart s (setHart s k h) k := fun _ hj => hartAt_setHart_ne s h (Ne.symm hj)
theorem onlyHart_of_harts {s t u : State} {k : Nat} (h : OnlyHart s t k) (hu : u.harts = t.harts) : OnlyHart s u k :=
  fun j hj => (congrArg (fun l => tget ({} : Hart) l j) hu).trans (h j hj)
/-- A change of one home core and one agent leaves the other agents alone. -/
theorem onlyHart_modHart {s t : State} (ht : t.harts = s.harts) (k : Nat) (f : Hart → Hart) : OnlyHart s (modHart t k f) k := by
  intro j hj
  rw [modHart, hartAt_setHart_ne t _ (Ne.symm hj), hartAt, ht, hartAt]
end Homes

section HardwareAccesses
/-- The tag checks of hardware's own reads change memory, and count failures in it, alone (15 R342). -/
theorem noteErr_rest (s u : State) (e : XErr) : withTraceOf s (noteErr u e) = withTraceOf s u := by
  cases e
  case tag pa => unfold noteErr notePoison noteGranule; exact trace_ite rfl rfl
  all_goals rfl
theorem hwNote_rest (s u : State) (l : Launch) (write : Bool) (a n : Nat) : withTraceOf s (hwNote u l write a n) = withTraceOf s u := by
  unfold hwNote
  split
  · exact noteErr_rest s u _
  · exact trace_ite (notePoisonSpan_rest s u _ n) rfl
/-- What reads neither memory nor counters nor debug blocks reads the same of states that differ in these alone. -/
theorem congr_of_trace {α : Type} (f : State → α) (hf : ∀ u m k c, f { u with mem := m, kiwiow := k, counters := c } = f u) {s u v : State}
    (h : withTraceOf s u = withTraceOf s v) : f u = f v :=
  (hf u s.mem s.kiwiow s.counters).symm.trans ((congrArg f h).trans (hf v s.mem s.kiwiow s.counters))
theorem hwNote_part {α : Type} (f : State → α) (hf : ∀ u m k c, f { u with mem := m, kiwiow := k, counters := c } = f u) (s : State)
    (l : Launch) (write : Bool) (a n : Nat) : f (hwNote s l write a n) = f s := congr_of_trace f hf (hwNote_rest s s l write a n)
theorem contents_notePoisonSpan (s : State) (a n : Nat) : contents (notePoisonSpan s a n).mem = contents s.mem :=
  foldl_rest (fun t => contents t.mem) noteGranule (fun t g => noteGranule_part contents (fun _ _ _ => rfl) t g) _ s
theorem contents_noteErr (s : State) (e : XErr) : contents (noteErr s e).mem = contents s.mem := by
  cases e
  case tag pa => exact notePoison_part contents (fun _ _ _ => rfl) s _
  all_goals rfl
theorem contents_hwNote (s : State) (l : Launch) (write : Bool) (a n : Nat) : contents (hwNote s l write a n).mem = contents s.mem := by
  unfold hwNote
  split
  · exact contents_noteErr s _
  · split
    · exact contents_notePoisonSpan s _ n
    · rfl
end HardwareAccesses

section HomeCores
theorem taskletArrive_joins {t d : Nat} {s : State} (ht : (hartAt s t).tasklet = true) (hplace : (hartAt s t).place = .flight d)
    (hmem : (homeAt s d).memQ = []) (hroom : (homeAt s d).hwQ.length < 64) :
    Goes (.taskletArrive t) s
      (modHart (modHome s d (fun q => { q with hwQ := q.hwQ ++ [t] })) t (fun h => { h with place := .hwQueue d })) := by
  refine (exec_taskletArrive s).trans ?_
  unfold execTaskletArrive joinRunQueue
  simp [ht, hplace, hmem, hroom]
/-- A tasklet as it is in a rotation slot. -/
def inSlot (tile slot : Nat) (h : Hart) : Hart := { h with place := .slot tile slot, run := .ready }
/-- A home core whose free slot has taken the head of its queue. -/
def headTaken (slot k : Nat) (rest : List Nat) (q : Home) : Home := { q with hwQ := rest, slots := tput q.slots slot k }
/-- A rotation slot has taken the head of the queue; a tasklet's first start is counted (13 R302; 16 R362). -/
def slotTaken (s : State) (tile slot k : Nat) (rest : List Nat) : State :=
  let u := modHome s tile (headTaken slot k rest)
  let u := modHart (if (hartAt u k).run == .fetch then count u 3 tile 0 0 1 else u) k (inSlot tile slot)
  { u with turns := u.turns ++ [.scalar k] }
theorem slotTaken_rest (s : State) (tile slot k : Nat) (rest : List Nat) :
    slotTaken s tile slot k rest = { modHart (modHome s tile (headTaken slot k rest)) k (inSlot tile slot) with
      turns := s.turns ++ [.scalar k], counters := (slotTaken s tile slot k rest).counters } := by
  unfold slotTaken
  dsimp only
  split <;> rfl
theorem rotationSlotRefill_takes {tile slot k : Nat} {rest : List Nat} {s : State} (hslot : slot < 16)
    (hfree : tfind (homeAt s tile).slots slot = none) (hq : (homeAt s tile).hwQ = k :: rest) :
    Goes (.rotationSlotRefill tile slot) s (slotTaken s tile slot k rest) := by
  refine (exec_rotationSlotRefill s).trans ?_
  have hgo : ¬ (16 ≤ slot ∨ (tfind (homeAt s tile).slots slot).isSome = true) := by simp [hfree]; omega
  unfold execRotationSlotRefill
  simp only [if_neg hgo, hq]
  rfl
theorem rotationSlotRefill_holds {tile slot k : Nat} {rest : List Nat} {s : State} (hslot : slot < 16)
    (hfree : tfind (homeAt s tile).slots slot = none) (hq : (homeAt s tile).hwQ = k :: rest) :
    ∃ t, Goes (.rotationSlotRefill tile slot) s t ∧ (homeAt t tile).hwQ = rest ∧ tfind (homeAt t tile).slots slot = some k ∧
      hartAt t k = inSlot tile slot (hartAt s k) ∧ t.turns = s.turns ++ [.scalar k] ∧ OnlyHart s t k ∧ t.mem = s.mem := by
  refine ⟨_, rotationSlotRefill_takes hslot hfree hq, ?_⟩
  have hhome : homeAt (slotTaken s tile slot k rest) tile = headTaken slot k rest (homeAt s tile) := by
    rw [slotTaken_rest]
    exact homeAt_modHome s tile _
  rw [hhome, slotTaken_rest]
  exact ⟨rfl, tfind_tput_same _ _ _, hartAt_modHart _ k (inSlot tile slot), rfl,
    onlyHart_of_harts (onlyHart_modHart (t := modHome s tile (headTaken slot k rest)) rfl k (inSlot tile slot)) rfl, rfl⟩
/-- The ring's head has been read back, and its tasklet has joined the hardware queue (13 R302). -/
def refilled (s : State) (tile k i : Nat) (rest : List Nat) : State :=
  let t := modHome (runNote s k tile i false) tile (fun q => { q with memQ := rest, memHead := i + 1 })
  modHart (modHome t tile (fun q => { q with hwQ := q.hwQ ++ [k] })) k (fun h => { h with place := .hwQueue tile })
theorem runQueueRefill_takes {tile k : Nat} {rest : List Nat} {s : State} (hroom : (homeAt s tile).hwQ.length < 64)
    (hq : (homeAt s tile).memQ = k :: rest) (hheld : runHeld s k tile (ringAt s tile (hartAt s k).pid 0) false = false)
    (hfault : runFault s k tile (ringAt s tile (hartAt s k).pid 0) false = none) :
    Goes (.runQueueRefill tile) s (refilled s tile k (ringAt s tile (hartAt s k).pid 0) rest) := by
  refine (exec_runQueueRefill s).trans ?_
  unfold execRunQueueRefill refilled
  simp only [if_neg (Nat.not_le.2 hroom), hq, hheld, hfault, Bool.false_eq_true, if_false]
theorem runQueueRefill_holds {tile k : Nat} {rest : List Nat} {s : State} (hroom : (homeAt s tile).hwQ.length < 64)
    (hq : (homeAt s tile).memQ = k :: rest) (hheld : runHeld s k tile (ringAt s tile (hartAt s k).pid 0) false = false)
    (hfault : runFault s k tile (ringAt s tile (hartAt s k).pid 0) false = none) :
    ∃ t, Goes (.runQueueRefill tile) s t ∧ (homeAt t tile).memQ = rest ∧ (homeAt t tile).memHead = ringAt s tile (hartAt s k).pid 0 + 1 ∧
      (homeAt t tile).hwQ = (homeAt s tile).hwQ ++ [k] ∧ hartAt t k = { hartAt s k with place := .hwQueue tile } ∧ OnlyHart s t k ∧
      SameBytes s t := by
  refine ⟨_, runQueueRefill_takes hroom hq hheld hfault, ?_⟩
  have hbytes : contents (runNote s k tile (ringAt s tile (hartAt s k).pid 0) false).mem = contents s.mem := contents_hwNote s _ _ _ _
  have hharts : (runNote s k tile (ringAt s tile (hartAt s k).pid 0) false).harts = s.harts :=
    hwNote_part State.harts (fun _ _ _ _ => rfl) s _ _ _ _
  have hhome : homeAt (runNote s k tile (ringAt s tile (hartAt s k).pid 0) false) tile = homeAt s tile :=
    hwNote_part (homeAt · tile) (fun _ _ _ _ => rfl) s _ _ _ _
  have hhart : hartAt (runNote s k tile (ringAt s tile (hartAt s k).pid 0) false) k = hartAt s k :=
    hwNote_part (hartAt · k) (fun _ _ _ _ => rfl) s _ _ _ _
  unfold refilled
  simp only [homeAt_modHart, homeAt_modHome, hartAt_modHart, hartAt_modHome, hhome, hhart, true_and]
  exact ⟨onlyHart_modHart (by exact hharts) k _, sameBytes_of_contents hbytes⟩
theorem taskletMigrate_leaves {t d : Nat} {s : State} (ht : (hartAt s t).tasklet = true) (hto : (hartAt s t).migrateTo = some d)
    (hq : Quiet s) (hrun : (hartAt s t).run ≠ .stopped) (hroom : (homeAt s (hartAt s t).tile).fwd.length < 32)
    (hroute : dropped s (hartAt s t).actsFor (hartAt s t).tile (.mem (d * 2 ^ 31)) = false) :
    Goes (.taskletMigrate t) s
      (count (setHart (modHome s (hartAt s t).tile (fun q => { q with
          slots := q.slots.filter (fun e => e.2 != t), fwd := q.fwd ++ [(t, d, (hartAt s t).loads.length)] }))
        t { hartAt s t with migrateTo := none, place := .flight d, tile := d, run := .ready }) 3 (hartAt s t).tile 0 1 1) := by
  have hmay : ((hartAt s t).tasklet && (hartAt s t).run != .stopped) = true := by rw [ht, bne_iff_ne.2 hrun]; rfl
  refine (exec_taskletMigrate s).trans ?_
  unfold execTaskletMigrate
  simp only [hmay, hto, flushAgent_quiet hq, hroute, Bool.or_false, decide_eq_true_eq, if_neg (Nat.not_le.2 hroom)]
theorem taskletMigrate_holds {t d : Nat} {s : State} (ht : (hartAt s t).tasklet = true) (hto : (hartAt s t).migrateTo = some d)
    (hq : Quiet s) (hrun : (hartAt s t).run ≠ .stopped) (hroom : (homeAt s (hartAt s t).tile).fwd.length < 32)
    (hroute : dropped s (hartAt s t).actsFor (hartAt s t).tile (.mem (d * 2 ^ 31)) = false) :
    ∃ u, Goes (.taskletMigrate t) s u ∧
      hartAt u t = { hartAt s t with migrateTo := none, place := .flight d, tile := d, run := .ready } ∧ OnlyHart s u t ∧
      (homeAt u (hartAt s t).tile).fwd = (homeAt s (hartAt s t).tile).fwd ++ [(t, d, (hartAt s t).loads.length)] ∧
      (∀ e ∈ (homeAt u (hartAt s t).tile).slots, e.2 ≠ t) ∧ SameBytes s u := by
  refine ⟨_, taskletMigrate_leaves ht hto hq hrun hroom hroute, ?_⟩
  simp only [hartAt_count, homeAt_count, hartAt_setHart, homeAt_setHart, homeAt_modHome, true_and]
  refine ⟨onlyHart_of_harts (onlyHart_setHart s t _) rfl, fun e he => ?_, sameBytes_of_contents rfl⟩
  simpa using (List.mem_filter.1 he).2
theorem modAt_getElem? {α : Type} (l : List α) (i : Nat) (f : α → α) (h : i < l.length) : (modAt l i f)[i]? = l[i]?.map f := by
  unfold modAt
  rw [List.getElem?_append_right (by simp), List.drop_eq_getElem_cons h, List.getElem?_eq_getElem h]
  simp [Nat.min_eq_left (Nat.le_of_lt h)]
/-- The n-th forwarding entry of a home core is freed, or waits for one reply less (01 R36). -/
def entryFreed (n : Nat) (q : Home) : Home := { q with fwd := eraseAt q.fwd n }
def entryCounted (n : Nat) (q : Home) : Home := { q with fwd := modAt q.fwd n (fun e => (e.1, e.2.1, e.2.2 - 1)) }
/-- The i-th outstanding load of a tasklet is answered at another tile (01 R36). -/
def loadMoved (i dest : Nat) (v : Option DWord) (h : Hart) : Hart :=
  { h with loads := modAt h.loads i (fun p => { p with tile := dest, value := v }) }
section LateReplies
variable {tile n k dest due : Nat} {s : State} (hentry : (homeAt s tile).fwd[n]? = some (k, dest, due))
include hentry
theorem lateReplyForward_frees (h : due = 0 ∨ (hartAt s k).loads = []) :
    Goes (.lateReplyForward tile n) s (modHome s tile (entryFreed n)) := by
  refine (exec_lateReplyForward s).trans ?_
  unfold execLateReplyForward
  simp only [hentry, List.isEmpty_iff, if_pos h]
  rfl
theorem lateReplyForward_moves {p : PendLoad} {rest : List PendLoad} {v : DWord} (hdue : due ≠ 0) (hloads : (hartAt s k).loads = p :: rest)
    (htile : p.tile = tile) (hv : loadReply s p = some v) :
    Goes (.lateReplyForward tile n) s
      (modHome (modHart s k (loadMoved 0 dest (some v))) tile (if due = 1 then entryFreed n else entryCounted n)) := by
  refine (exec_lateReplyForward s).trans ?_
  have hmore : ¬ (due = 0 ∨ (hartAt s k).loads = []) := by simp [hdue, hloads]
  have hfind : (hartAt s k).loads.findIdx? (fun p => p.tile == tile && (loadReply s p).isSome) = some 0 := by
    rw [hloads, List.findIdx?_cons, if_pos (by simp [htile, hv])]
  have hmoved : modHart s k (loadMoved 0 dest (some v)) =
      modHart s k (fun h => { h with loads := modAt h.loads 0 (fun p => { p with tile := dest, value := loadReply s p }) }) := by
    simp only [modHart, loadMoved, hloads, modAt, List.take_zero, List.drop_zero, hv]
  unfold execLateReplyForward
  simp only [hentry, List.isEmpty_iff, if_neg hmore, hfind]
  rw [hmoved]
  split <;> rfl
theorem lateReplyForward_waits (hdue : due ≠ 0) (hloads : (hartAt s k).loads ≠ [])
    (hnone : ∀ p ∈ (hartAt s k).loads, p.tile = tile → loadReply s p = none) : Idle (.lateReplyForward tile n) s := by
  refine (exec_lateReplyForward s).trans ?_
  have hmore : ¬ (due = 0 ∨ (hartAt s k).loads = []) := by simp [hdue, hloads]
  have hfind : (hartAt s k).loads.findIdx? (fun p => p.tile == tile && (loadReply s p).isSome) = none := by
    refine List.findIdx?_eq_none_iff.2 fun p hp => ?_
    by_cases htile : p.tile = tile
    · simp [hnone p hp htile]
    · simp [htile]
  unfold execLateReplyForward
  simp only [hentry, List.isEmpty_iff, if_neg hmore, hfind]
theorem lateReplyForward_carries {p : PendLoad} {rest : List PendLoad} {v : DWord} (hdue : due ≠ 0) (hloads : (hartAt s k).loads = p :: rest)
    (htile : p.tile = tile) (hv : loadReply s p = some v) :
    ∃ t, Goes (.lateReplyForward tile n) s t ∧ (hartAt t k).loads = { p with tile := dest, value := some v } :: rest ∧
      (due = 1 → (homeAt t tile).fwd = eraseAt (homeAt s tile).fwd n) ∧
      (due ≠ 1 → (homeAt t tile).fwd[n]? = some (k, dest, due - 1)) ∧ OnlyHart s t k ∧ SameBytes s t := by
  refine ⟨_, lateReplyForward_moves hentry hdue hloads htile hv, ?_, fun h1 => ?_, fun h1 => ?_, onlyHart_setHart s k _, fun _ _ => rfl⟩
  · rw [hartAt_modHome, hartAt_modHart, loadMoved, hloads]
    rfl
  · rw [homeAt_modHome, homeAt_modHart, if_pos h1, entryFreed]
  · have hlt : n < (homeAt s tile).fwd.length := (List.getElem?_eq_some_iff.1 hentry).1
    rw [homeAt_modHome, homeAt_modHart, if_neg h1, entryCounted, modAt_getElem? _ _ _ hlt, hentry, Option.map_some]
end LateReplies
end HomeCores

section TaskletTraps
/-- A launch in which a tasklet has trapped (01 R38), and one whose next record went nowhere, so that its header says index 63 (12 R288). -/
def trapRecorded (r : TrapRec) (l : Launch) : Launch := { l with ttrap := true, records := l.records ++ [r] }
def headerQueued (n : Nat) (rest : List TrapRec) (l : Launch) : Launch :=
  { l with records := rest, headers := l.headers ++ [(n, 0x1000003F#32)] }
/-- A record of a partition that keeps no trap buffer is dropped, and its header is queued (12 R288). -/
theorem postRecords_noBuffer {s : State} {lk : Nat} {r : TrapRec} (hrec : (launchAt s lk).records = [r])
    (hbuffer : bitAt (partAt s r.pid).hmbox 0 = false) :
    postRecords 1 s lk = modLaunch (bumpSeq s) lk (headerQueued s.seqNo []) := by
  have hpost : postRecord s lk r = some (s, 63) := by
    unfold postRecord
    simp only [hbuffer, Bool.not_false, if_true]
  simp only [postRecords, hrec, hpost]
  rfl
/-- The state in which a tasklet of such a partition has trapped, before it ends. -/
def trapNoted (s : State) (t cause : Nat) (tval : DWord) : State :=
  let lk := (hartAt s t).lkey
  modLaunch (bumpSeq (modLaunch s lk (trapRecorded (trapRecord (hartAt s t) cause tval)))) lk (headerQueued s.seqNo [])
theorem taskletTrapOp_noBuffer {t cause : Nat} {tval : DWord} {s : State} (hn : NoTrace s)
    (hbuffer : bitAt (partAt s (hartAt s t).pid).hmbox 0 = false) (hrec : (launchAt s (hartAt s t).lkey).records = []) :
    taskletTrapOp s t cause tval = endTasklet (trapNoted s t cause tval) t := by
  obtain ⟨u, hu⟩ : ∃ u, u = modLaunch s (hartAt s t).lkey (trapRecorded (trapRecord (hartAt s t) cause tval)) := ⟨_, rfl⟩
  have hone : (launchAt u (hartAt s t).lkey).records = [trapRecord (hartAt s t) cause tval] := by
    rw [hu, launchAt_modLaunch, trapRecorded, hrec]
    rfl
  have hpost : postRecords (launchAt u (hartAt s t).lkey).records.length u (hartAt s t).lkey = trapNoted s t cause tval := by
    rw [hone, List.length_singleton, postRecords_noBuffer hone (by rw [hu]; exact hbuffer), hu]
    rfl
  have hquiet : (trapNoted s t cause tval).kiwiow = [] := hn
  rw [hu] at hpost
  unfold taskletTrapOp
  refine congrArg (endTasklet · t) ?_
  calc traceEvent (traceEvent (postRecords _ _ _) t (.trap false cause tval)) t (.exit 2)
      = traceEvent (traceEvent (trapNoted s t cause tval) t (.trap false cause tval)) t (.exit 2) := by rw [← hpost]; rfl
    _ = trapNoted s t cause tval := by rw [traceEvent_off hquiet, traceEvent_off hquiet]
theorem taskletTrap_ends {t cause : Nat} {tval : DWord} {s : State} (hlisted : (tfind s.harts t).isSome) (ht : (hartAt s t).tasklet = true)
    (hn : NoTrace s) (hbuffer : bitAt (partAt s (hartAt s t).pid).hmbox 0 = false)
    (hrec : (launchAt s (hartAt s t).lkey).records = []) :
    ∃ u, Goes (.taskletTrap t cause tval) s u ∧ tfind u.harts t = none ∧ OnlyHart s u t ∧
      (launchAt u (hartAt s t).lkey).ttrap = true ∧
      (launchAt u (hartAt s t).lkey).headers = (launchAt s (hartAt s t).lkey).headers ++ [(s.seqNo, 0x1000003F#32)] ∧
      (launchAt u (hartAt s t).lkey).liveTasks = (launchAt s (hartAt s t).lkey).liveTasks - 1 ∧ SameBytes s u := by
  have hgoes : Goes (.taskletTrap t cause tval) s (endTasklet (trapNoted s t cause tval) t) := by
    refine (exec_taskletTrap s).trans ?_
    unfold execTaskletTrap
    rw [if_pos (by rw [ht, hlisted]; rfl), taskletTrapOp_noBuffer hn hbuffer hrec]
  have hlaunch := launchAt_endTasklet (trapNoted s t cause tval) t
  have hnoted : launchAt (trapNoted s t cause tval) (hartAt s t).lkey =
      headerQueued s.seqNo [] (trapRecorded (trapRecord (hartAt s t) cause tval) (launchAt s (hartAt s t).lkey)) := by
    unfold trapNoted
    dsimp only
    rw [launchAt_modLaunch]
    exact congrArg _ (launchAt_modLaunch s _ _)
  rw [show hartAt (trapNoted s t cause tval) t = hartAt s t from rfl, hnoted] at hlaunch
  refine ⟨_, hgoes, tfind_harts_endTasklet _ _, fun k hk => hartAt_endTasklet_ne _ hk, ?_, ?_, ?_,
    sameBytes_of_contents (contents_endTasklet _ _)⟩
  all_goals rw [hlaunch]; rfl
end TaskletTraps

section HomeCoresRun
/-- Settles O48: the run queue, the rotation slots, migration with its forwarding entries, and the trap, each from the rule of its operation. -/
theorem homeCoresRunTasklets : Obligations.HomeCoresRunTasklets := by
  refine ⟨fun t d s ht hplace hmem hroom => ⟨_, taskletArrive_joins ht hplace hmem hroom, ?_⟩,
    fun tile slot k rest s => rotationSlotRefill_holds, fun tile k rest s => runQueueRefill_holds, fun t d s => taskletMigrate_holds,
    fun tile n k dest due s hentry => ⟨fun h => ⟨_, lateReplyForward_frees hentry h, ?_, rfl⟩, fun p rest v => lateReplyForward_carries hentry,
      lateReplyForward_waits hentry⟩,
    fun t cause tval s => taskletTrap_ends⟩
  · refine ⟨?_, hartAt_modHart _ t _, onlyHart_setHart s t _, rfl⟩
    rw [homeAt_modHart, homeAt_modHome]
  · rw [homeAt_modHome, entryFreed]
end HomeCoresRun

section Easels
@[simp] theorem easelAt_modEasel (s : State) (t : Nat) (f : Easel → Easel) : easelAt (modEasel s t f) t = f (easelAt s t) :=
  tget_tput_same _ _ _ _
theorem joinDecrement_absent (s : State) {lkey : Nat} (tile : Nat) {va : DWord} (h : va = 0 ∨ lkey = 0) :
    joinDecrement s lkey tile va = (s, true) := by
  unfold joinDecrement
  rw [if_pos (by simpa using h)]
/-- A launch that has lost an entry of an easel (01 R29). -/
def entryLost (l : Launch) : Launch := addTerm { l with splost := true, liveWgs := l.liveWgs - 1 }
theorem loseEntry_noJoin (s : State) (tile : Nat) {e : EaselEntry} (h : e.joinWord = 0) :
    loseEntry s tile e = (modLaunch s e.lkey entryLost, true) := by
  unfold loseEntry
  rw [joinDecrement_absent s tile (.inl h)]
  rfl
section Refill
variable {tile : Nat} {e : EaselEntry} {rest : List EaselEntry} {s : State}
  (hspilled : (easelAt s tile).spilled = e :: rest) (hroom : (easelAt s tile).resident.length < 32)
include hspilled
theorem refillEasel_waits (hheld : readHeld s tile e = true) : refillEasel s tile = s := by
  unfold refillEasel
  simp only [hspilled, hheld, Bool.or_true, if_true]
include hroom
theorem refillEasel_returns (hheld : readHeld s tile e = false) (hback : readBack s tile e = true) :
    refillEasel s tile = modEasel s tile (fun q => { q with resident := q.resident ++ [e], spilled := rest }) := by
  unfold refillEasel
  simp only [hspilled, hheld, hback, Bool.or_false, ge_iff_le, decide_eq_true_eq, if_neg (Nat.not_le.2 hroom), if_true]
theorem refillEasel_loses (hheld : readHeld s tile e = false) (hback : readBack s tile e = false) (hjoin : e.joinWord = 0) :
    refillEasel s tile =
      modEasel (modLaunch (readNote s tile e) e.lkey entryLost) tile (fun q => { q with spilled := rest }) := by
  unfold refillEasel
  simp only [hspilled, hheld, hback, Bool.or_false, ge_iff_le, decide_eq_true_eq, if_neg (Nat.not_le.2 hroom), Bool.false_eq_true,
    if_false, loseEntry_noJoin _ tile hjoin]
theorem refillEasel_lost (hheld : readHeld s tile e = false) (hback : readBack s tile e = false) (hjoin : e.joinWord = 0) :
    ∃ t, Goes (.easelRefill tile) s t ∧ (easelAt t tile).spilled = rest ∧ (easelAt t tile).resident = (easelAt s tile).resident ∧
      (launchAt t e.lkey).splost = true ∧ (launchAt t e.lkey).liveWgs = (launchAt s e.lkey).liveWgs - 1 := by
  refine ⟨_, congrArg Host.Outcome.next (refillEasel_loses hspilled hroom hheld hback hjoin), ?_⟩
  have heasels : easelAt (readNote s tile e) tile = easelAt s tile := hwNote_part (easelAt · tile) (fun _ _ _ _ => rfl) s _ _ _ _
  have hlaunch : launchAt (readNote s tile e) e.lkey = launchAt s e.lkey := hwNote_part (launchAt · e.lkey) (fun _ _ _ _ => rfl) s _ _ _ _
  have hlost : launchAt (modEasel (modLaunch (readNote s tile e) e.lkey entryLost) tile (fun q => { q with spilled := rest })) e.lkey =
      entryLost (launchAt s e.lkey) := by rw [← hlaunch]; exact launchAt_modLaunch _ _ _
  rw [easelAt_modEasel, hlost]
  exact ⟨rfl, by rw [← heasels]; rfl, rfl, rfl⟩
end Refill
/-- A core without work, parked, queued or to be stolen, decides nothing (13 R297). -/
theorem admissionStep_idle {tile : Nat} {s : State} (hwgs : s.wgs = []) (hlaunches : s.launches = []) (hempty : (easelAt s tile).resident = []) :
    admissionStep s tile = s := by
  have hresume : resumeChoice s tile = none := by unfold resumeChoice; rw [hwgs]; rfl
  have harea : victims s tile = [] := by simp [victims, stealArea, rotateAfter, hlaunches]
  unfold admissionStep
  simp [hresume, hempty, harea]
end Easels

section Admissions
/-- One rank takes the lowest free slot of its sub-core that no rank before it took (01 R21). -/
def takeSlot (s : State) (tile b : Nat) (a : List (Nat × Nat)) (r : Nat) : List (Nat × Nat) :=
  match (freeSlots s tile ((b + r) % 8)).find? (fun i => !a.any (fun x => x.2 == i)) with
  | some i => a ++ [(r, i)]
  | none => a
theorem slotsFor_eq (s : State) (tile b : Nat) (ranks : List Nat) : slotsFor s tile b ranks = ranks.foldl (takeSlot s tile b) [] := rfl
theorem takeSlot_distinct {s : State} {tile b r : Nat} {a : List (Nat × Nat)} (h : (a.map Prod.snd).Nodup) :
    ((takeSlot s tile b a r).map Prod.snd).Nodup := by
  unfold takeSlot
  split
  · rename_i i hi
    have hnew := List.find?_some hi
    simp only [Bool.not_eq_true', List.any_eq_false, beq_iff_eq] at hnew
    rw [List.map_append, List.nodup_append]
    refine ⟨h, List.nodup_singleton _, fun x hx y hy hxy => ?_⟩
    obtain ⟨e, he, rfl⟩ := List.mem_map.1 hx
    exact hnew e he (hxy.trans (List.mem_singleton.1 hy))
  · exact h
/-- The members of a workgroup get slots of their own. -/
theorem slotsFor_distinct (s : State) (tile b : Nat) (ranks : List Nat) : ((slotsFor s tile b ranks).map Prod.snd).Nodup := by
  rw [slotsFor_eq]
  exact List.foldlRecOn (motive := fun (a : List (Nat × Nat)) => (a.map Prod.snd).Nodup) ranks _ List.nodup_nil (fun a ha r _ => takeSlot_distinct ha)
/-- The members of workgroup w, each in its slot. -/
def enrolled (lkey wkey : Nat) (w : Wg) (slots : List (Nat × Nat)) (s : State) : State :=
  slots.foldl (fun s x => setHart s (hartKey w.tile x.2) (freshMember s lkey wkey w x.1 x.2)) s
theorem enrolled_rest (lkey wkey : Nat) (w : Wg) (slots : List (Nat × Nat)) (s : State) :
    enrolled lkey wkey w slots s = { s with harts := (enrolled lkey wkey w slots s).harts } := by
  have h := foldl_rest (fun t => { t with harts := [] }) (fun s (x : Nat × Nat) =>
    setHart s (hartKey w.tile x.2) (freshMember s lkey wkey w x.1 x.2)) (fun _ _ => rfl) slots s
  exact congrArg (fun t : State => { t with harts := (enrolled lkey wkey w slots s).harts }) h
theorem hartAt_enrolled_other {lkey wkey : Nat} {w : Wg} {slots : List (Nat × Nat)} {s : State} {k : Nat}
    (h : ∀ x ∈ slots, hartKey w.tile x.2 ≠ k) : hartAt (enrolled lkey wkey w slots s) k = hartAt s k := by
  induction slots generalizing s with
  | nil => rfl
  | cons x slots ih =>
    obtain ⟨hx, hslots⟩ := List.forall_mem_cons.1 h
    exact (ih hslots).trans (hartAt_setHart_ne s _ hx)
theorem hartAt_enrolled {lkey wkey : Nat} {w : Wg} {slots : List (Nat × Nat)} {s : State} (hslots : (slots.map Prod.snd).Nodup)
    {x : Nat × Nat} (hx : x ∈ slots) :
    ∃ u, hartAt (enrolled lkey wkey w slots s) (hartKey w.tile x.2) = freshMember u lkey wkey w x.1 x.2 := by
  induction slots generalizing s with
  | nil => exact absurd hx List.not_mem_nil
  | cons y slots ih =>
    rw [List.map_cons, List.nodup_cons] at hslots
    obtain ⟨hy, hrest⟩ := hslots
    rcases List.mem_cons.1 hx with rfl | hx
    · refine ⟨s, (hartAt_enrolled_other (slots := slots) fun z hz hkey => hy ?_).trans (hartAt_setHart s _ _)⟩
      have hslot : z.2 = x.2 := by unfold hartKey at hkey; omega
      exact hslot ▸ List.mem_map_of_mem hz
    · exact ih hrest hx
theorem isMember_freshMember (u : State) (lkey wkey : Nat) (w : Wg) (rank slot : Nat) :
    IsMember (freshMember u lkey wkey w rank slot) w.kernel w.arg wkey rank := by
  have hx : ∀ q, (freshMember u lkey wkey w rank slot).getX q = if q = 10 then w.arg else 0 := by
    intro q
    refine (getX_setX _ 10 w.arg q).trans ?_
    by_cases hq : q = 10
    · rw [if_pos ⟨hq.symm, by decide⟩, if_pos hq]
    · rw [if_neg (fun h => hq h.1.symm), if_neg hq]
      unfold Hart.getX
      split <;> rfl
  exact ⟨rfl, rfl, rfl, (hx 10).trans (if_pos rfl), fun q hq => (hx q).trans (if_neg hq), rfl, rfl, rfl, rfl, rfl, rfl, rfl, rfl⟩
/-- The scratchpads in which the addresses from lo to hi read 0 and are full (04 R87). -/
def banksCleared (m : Mem) (lo hi : Nat) : Mem :=
  { m with scratch := tfilter (fun a => !(decide (lo ≤ a ∧ a < hi))) m.scratch,
           empty := tfilter (fun a => !(decide (lo ≤ 4 * a ∧ 4 * a < hi))) m.empty }
theorem readBytes_banksCleared {m : Mem} {lo hi a : Nat} (h : lo ≤ a ∧ a < hi) : readBytes (banksCleared m lo hi) (.win a) 1 = [0] := by
  simp [readBytes, getBytes, banksCleared, tget_tfilter, h]
theorem isFull_banksCleared {m : Mem} {lo hi a : Nat} (h : lo ≤ 4 * (a / 4) ∧ 4 * (a / 4) < hi) :
    isFull (banksCleared m lo hi) (.win a) = true := by
  simp [isFull, banksCleared, tget_tfilter, h]
/-- Bank i of a workgroup's banks is its own, with its palette (02 R54). -/
def claimBank (tile wkey first : Nat) (k : Kernel) (s : State) (i : Nat) : State :=
  { s with bankOwner := tput s.bankOwner (tile * 16 + first + i) wkey,
           pal := tset 0 s.pal (tile * 16 + first + i) (k.pal.getD i 0) }
theorem claimBanks_eq (s : State) (tile wkey first : Nat) {n : Nat} (k : Kernel) (hn : n ≠ 0) :
    claimBanks s tile wkey first n k = (List.range n).foldl (claimBank tile wkey first k)
      (modMem s (fun m => banksCleared m (windowKey tile first 0) (windowKey tile (first + n) 0))) := if_neg hn
theorem claimBanks_part {α : Type} (f : State → α) (hf : ∀ u m b p, f { u with mem := m, bankOwner := b, pal := p } = f u) (s : State)
    (tile wkey first n : Nat) (k : Kernel) : f (claimBanks s tile wkey first n k) = f s := by
  by_cases hn : n = 0
  · subst hn; rfl
  · rw [claimBanks_eq s tile wkey first k hn, foldl_rest f (claimBank tile wkey first k) (fun t i => hf t t.mem _ _)]
    exact hf s _ s.bankOwner s.pal
theorem claimBanks_mem (s : State) (tile wkey first : Nat) {n : Nat} (k : Kernel) (hn : n ≠ 0) :
    (claimBanks s tile wkey first n k).mem = banksCleared s.mem (windowKey tile first 0) (windowKey tile (first + n) 0) := by
  rw [claimBanks_eq s tile wkey first k hn, foldl_rest State.mem (claimBank tile wkey first k) (fun _ _ => rfl)]
  rfl
theorem tfind_claimBanks (s : State) (tile wkey first : Nat) {n i : Nat} (k : Kernel) (hi : i < n) :
    tfind (claimBanks s tile wkey first n k).bankOwner (tile * 16 + first + i) = some wkey := by
  have hfold : ∀ (u : State) (n : Nat), i < n →
      tfind ((List.range n).foldl (claimBank tile wkey first k) u).bankOwner (tile * 16 + first + i) = some wkey := by
    intro u n
    induction n with
    | zero => exact fun h => absurd h (Nat.not_lt_zero _)
    | succ n ih =>
      intro h
      rw [List.range_succ, List.foldl_append]
      refine (tfind_tput _ _ _ _).trans ?_
      by_cases hn : i = n
      · rw [if_pos (by rw [hn])]
      · rw [if_neg (by omega)]
        exact ih (by omega)
  rw [claimBanks_eq s tile wkey first k (by omega)]
  exact hfold _ n hi
theorem claimWslots_part {α : Type} (f : State → α) (hf : ∀ u w, f { u with wslots := w } = f u) (s : State) (tile b wkey : Nat)
    (ranks : List Nat) (k : Kernel) : f (claimWslots s tile b wkey ranks k) = f s := by
  unfold claimWslots
  refine foldl_rest f _ (fun t sc => ?_) _ s
  split
  · rfl
  · refine foldl_rest f _ (fun u w => ?_) _ t
    split
    · exact hf u _
    · rfl
/-- The workgroup that an entry of an easel becomes on a core (01 R20, R21). -/
def workgroupOf (s : State) (tile b first : Nat) (e : EaselEntry) : Wg :=
  let l := launchAt s e.lkey; let k := l.kernels.getD e.kidx {}
  { lkey := e.lkey, pid := l.pid, wgid := e.wgid, tile := tile, size := k.groups, kernel := k, arg := e.arg,
    joinWord := e.joinWord, bankFirst := if k.scratch = 0 then 0 else first, bankCount := k.scratch, nbars := k.barriers,
    bars := (List.range k.barriers).map (fun i => (i, { expected := k.groups })),
    members := (slotsFor s tile b (List.range k.groups)).map (fun x => (x.1, hartKey tile x.2)) }
/-- The state in which its weight slots and banks are claimed, and the workgroup is listed. -/
def claimed (s : State) (tile b first : Nat) (e : EaselEntry) : State :=
  let k := (launchAt s e.lkey).kernels.getD e.kidx {}
  let u := claimBanks (claimWslots s tile b s.nextWg (List.range k.groups) k) tile s.nextWg first k.scratch k
  { u with wgs := tput u.wgs s.nextWg (workgroupOf s tile b first e), nextWg := s.nextWg + 1 }
theorem admitWg_eq (s : State) (tile b first : Nat) (e : EaselEntry) :
    admitWg s tile b first e = enrolled e.lkey s.nextWg (workgroupOf s tile b first e)
      (slotsFor s tile b (List.range ((launchAt s e.lkey).kernels.getD e.kidx {}).groups)) (claimed s tile b first e) := rfl
/-- Everything but agents, banks, weight slots and the list of workgroups stays as it is. -/
theorem admitWg_part {α : Type} (f : State → α) (hf : ∀ u h w b p m g n,
      f { u with harts := h, wslots := w, bankOwner := b, pal := p, mem := m, wgs := g, nextWg := n } = f u)
    (s : State) (tile b first : Nat) (e : EaselEntry) : f (admitWg s tile b first e) = f s := by
  rw [admitWg_eq, enrolled_rest]
  refine (hf (claimed s tile b first e) _ _ _ _ _ _ _).trans ?_
  refine (hf _ _ _ _ _ _ _ _).trans ?_
  rw [claimBanks_part f (fun u m b p => hf u u.harts u.wslots b p m u.wgs u.nextWg),
    claimWslots_part f (fun u w => hf u u.harts w u.bankOwner u.pal u.mem u.wgs u.nextWg)]
theorem admissionStep_admits {tile b f : Nat} {e : EaselEntry} {rest : List EaselEntry} {s : State} (h : MayAdmit s tile e rest b f) :
    admissionStep s tile = admitWg (modEasel s tile (fun q => { q with resident := q.resident.drop 1, probe := 0 })) tile b f e := by
  obtain ⟨hresume, hbottom, htake⟩ := h
  unfold admissionStep
  simp [hresume, hbottom, htake]
theorem wgAt_admitWg (s : State) (tile b first : Nat) (e : EaselEntry) :
    wgAt (admitWg s tile b first e) s.nextWg = workgroupOf s tile b first e := by
  rw [admitWg_eq, enrolled_rest]
  exact tget_tput_same _ _ _ _
/-- The bytes of a workgroup's banks lie between the ends that an admission clears (04 R87). -/
theorem bank_within {tile f n i o : Nat} (hi : i < n) (ho : o < 2 ^ 17) :
    windowKey tile f 0 ≤ 4 * (((tile * 16 + f + i) * 2 ^ 17 + o) / 4) ∧ (tile * 16 + f + i) * 2 ^ 17 + o < windowKey tile (f + n) 0 := by
  unfold windowKey
  omega
theorem admitWg_holds {s : State} {tile b f : Nat} {e : EaselEntry} (l : Launch) (hl : launchAt s e.lkey = l) :
    let k := l.kernels.getD e.kidx {}; let t := admitWg s tile b f e; let w := wgAt t s.nextWg
    t.nextWg = s.nextWg + 1 ∧ w = workgroupOf s tile b f e ∧ (∀ m ∈ w.members, IsMember (hartAt t m.2) k e.arg s.nextWg m.1) ∧
      ∀ i < k.scratch, tfind t.bankOwner (tile * 16 + f + i) = some s.nextWg ∧ ∀ o < 2 ^ 17,
        readBytes t.mem (.win ((tile * 16 + f + i) * 2 ^ 17 + o)) 1 = [0] ∧
          isFull t.mem (.win ((tile * 16 + f + i) * 2 ^ 17 + o)) = true := by
  subst hl
  dsimp only
  rw [wgAt_admitWg, admitWg_eq]
  refine ⟨by rw [enrolled_rest]; rfl, rfl, fun m hm => ?_, fun i hi => ⟨?_, fun o ho => ?_⟩⟩
  · obtain ⟨x, hx, rfl⟩ := List.mem_map.1 hm
    obtain ⟨u, hu⟩ := hartAt_enrolled (lkey := e.lkey) (wkey := s.nextWg) (w := workgroupOf s tile b f e)
      (s := claimed s tile b f e) (slotsFor_distinct s tile b _) hx
    exact hu ▸ isMember_freshMember u _ _ (workgroupOf s tile b f e) x.1 x.2
  · rw [enrolled_rest]
    exact tfind_claimBanks _ tile s.nextWg f _ hi
  · have hmem : (claimed s tile b f e).mem = banksCleared s.mem (windowKey tile f 0)
        (windowKey tile (f + ((launchAt s e.lkey).kernels.getD e.kidx {}).scratch) 0) := by
      refine (claimBanks_mem _ tile s.nextWg f _ (by omega)).trans ?_
      rw [claimWslots_part State.mem (fun _ _ => rfl)]
    obtain ⟨hlo, hhi⟩ := bank_within (tile := tile) (f := f) hi ho
    rw [enrolled_rest]
    dsimp only
    rw [hmem]
    exact ⟨readBytes_banksCleared ⟨by omega, hhi⟩, isFull_banksCleared ⟨hlo, by omega⟩⟩
end Admissions

section Ends
/-- A group that has ended, by form 1 (EXIT) or 2 (park): its registers and quota are released (01 R22). -/
def exitedHart (form : Nat) (h : Hart) : Hart :=
  { h with
    run := .exited, ended := form, wait := .nothing, v := [], acc := [], accState := [], accFails := [], pend := [], laneQ := [],
    preempt := false, boost := none, starve := 0, yieldTo := none }
/-- Its workgroup has counted its end. -/
def endCounted (form : Nat) (w : Wg) : Wg :=
  if form = 2 then { w with endedPark := w.endedPark + 1 } else { w with endedPlain := w.endedPlain + 1 }
/-- The agents once a member has ended, which keeps no reservation (01 R22). -/
def memberStopped (s : State) (k form : Nat) : State :=
  modHart (modMem (releaseResv s k) (fun m => { m with lrs := m.lrs.filter (fun r => r.hart != k) })) k (exitedHart form)
/-- The end of a member is counted. -/
def memberLeft (s : State) (k form : Nat) : State := modWg (memberStopped s k form) (hartAt s k).wg (endCounted form)
/-- A workgroup is saved once all its members have ended and one of them parked (06 R160). -/
def parkIfDue (s : State) (g : Nat) : State :=
  if allEnded s (wgAt s g) && (wgAt s g).endedPark != 0 && !(wgAt s g).terminated then parkWg s g else s
theorem hartAt_memberStopped (s : State) (k form : Nat) : hartAt (memberStopped s k form) k = exitedHart form (hartAt s k) :=
  hartAt_modHart _ k (exitedHart form)
theorem hartAt_memberLeft (s : State) (k form : Nat) : hartAt (memberLeft s k form) k = exitedHart form (hartAt s k) :=
  hartAt_memberStopped s k form
theorem onlyHart_memberLeft (s : State) (k form : Nat) : OnlyHart s (memberLeft s k form) k :=
  onlyHart_of_harts (onlyHart_modHart (s := s) (t := modMem (releaseResv s k) _) rfl k (exitedHart form)) rfl
theorem wgAt_memberLeft (s : State) (k form : Nat) :
    wgAt (memberLeft s k form) (hartAt s k).wg = endCounted form (wgAt s (hartAt s k).wg) := wgAt_modWg _ _ _
theorem memberEnded_eq (s : State) (k form : Nat) : memberEnded s k form = parkIfDue (memberLeft s k form) (hartAt s k).wg := by
  have hwg : (hartAt (memberStopped s k form) k).wg = (hartAt s k).wg := by rw [hartAt_memberStopped]; rfl
  unfold memberLeft
  rw [← hwg]
  rfl
/-- A plain end of a group whose workgroup has no parked member (06 R159). -/
theorem memberEnded_plain {s : State} {k : Nat} (h : (wgAt s (hartAt s k).wg).endedPark = 0) : memberEnded s k 1 = memberLeft s k 1 := by
  have hpark : (wgAt (memberLeft s k 1) (hartAt s k).wg).endedPark = 0 := by rw [wgAt_memberLeft]; exact h
  rw [memberEnded_eq, parkIfDue, if_neg (by simp [hpark])]
theorem allEnded_single {s : State} {w : Wg} {r k : Nat} (hw : w.members = [(r, k)]) (h : (hartAt s k).ended ≠ 0) : allEnded s w = true := by
  simp [allEnded, hw, h]
/-- The parked end of a workgroup's only group saves the workgroup (06 R160). -/
theorem memberEnded_parks {s : State} {k r : Nat} (hmembers : (wgAt s (hartAt s k).wg).members = [(r, k)])
    (hlive : (wgAt s (hartAt s k).wg).terminated = false) : memberEnded s k 2 = parkWg (memberLeft s k 2) (hartAt s k).wg := by
  have hwg := wgAt_memberLeft s k 2
  have hall : allEnded (memberLeft s k 2) (wgAt (memberLeft s k 2) (hartAt s k).wg) = true := by
    refine allEnded_single (r := r) (k := k) (by rw [hwg]; exact hmembers) ?_
    rw [hartAt_memberLeft]
    exact (by decide : (2 : Nat) ≠ 0)
  have hdue : (endCounted 2 (wgAt s (hartAt s k).wg)).endedPark ≠ 0 := Nat.succ_ne_zero _
  rw [memberEnded_eq, parkIfDue, if_pos]
  rw [hall, hwg, bne_iff_ne.2 hdue, show (endCounted 2 (wgAt s (hartAt s k).wg)).terminated = false from hlive]
  rfl
theorem settleRequest_rest (s : State) (p : Nat) : settleRequest s p = { s with parts := (settleRequest s p).parts } := by
  unfold settleRequest
  split <;> rfl
/-- A workgroup that leaves a request is marked no longer; its partition may count it (12 R284). -/
theorem leaveRequest_unmarked {s : State} {w : Nat} (c : Bool) (h : (wgAt s w).marked = false) : leaveRequest s w c = s := by
  unfold leaveRequest
  simp [h]
theorem leaveRequest_rest (s : State) (w : Nat) (c : Bool) :
    leaveRequest s w c = { s with wgs := (leaveRequest s w c).wgs, parts := (leaveRequest s w c).parts } := by
  unfold leaveRequest
  dsimp only
  split
  · rfl
  · rw [settleRequest_rest]
    split <;> rfl
def unmarked (w : Wg) : Wg := { w with marked := false }
theorem wgAt_leaveRequest (s : State) (w : Nat) (c : Bool) : wgAt (leaveRequest s w c) w = unmarked (wgAt s w) := by
  by_cases h : (wgAt s w).marked = true
  · unfold leaveRequest
    simp only [h, Bool.not_true, Bool.false_eq_true, if_false]
    rw [settleRequest_rest]
    split <;> exact wgAt_modWg s w unmarked
  · have hfalse := eq_false_of_ne_true h
    rw [leaveRequest_unmarked c hfalse, unmarked, ← hfalse]
/-- A workgroup as it is saved (06 R160). -/
def parkedWg (n : Nat) (saved : List (Nat × Hart)) (w : Wg) : Wg := { w with parked := true, saved := saved, members := [], parkSeq := n }
theorem tget_tdels_other {α : Type} (d : α) {l : List (Nat × Nat)} {t : Table α} {k : Nat} (h : ∀ m ∈ l, m.2 ≠ k) :
    tget d (l.foldl (fun t e => tdel t e.2) t) k = tget d t k := by
  induction l generalizing t with
  | nil => rfl
  | cons m l ih =>
    obtain ⟨hm, hl⟩ := List.forall_mem_cons.1 h
    rw [List.foldl_cons, ih hl, tget_tdel, if_neg hm]
theorem tfind_tdels {α : Type} {l : List (Nat × Nat)} {t : Table α} {k : Nat} (h : tfind t k = none ∨ ∃ m ∈ l, m.2 = k) :
    tfind (l.foldl (fun t e => tdel t e.2) t) k = none := by
  induction l generalizing t with
  | nil => simpa using h
  | cons m l ih =>
    refine ih ?_
    rw [tfind_tdel]
    by_cases hk : m.2 = k
    · exact .inl (if_pos hk)
    · rw [if_neg hk]
      simpa [hk] using h
/-- A parked workgroup has no agents; it is listed with their state. -/
theorem parkWg_saves (s : State) (g : Nat) :
    (parkWg s g).harts = (wgAt s g).members.foldl (fun t e => tdel t e.2) s.harts ∧
    wgAt (parkWg s g) g = unmarked (parkedWg s.seqNo
      (((wgAt s g).members.filter (fun e => (hartAt s e.2).ended == 2)).map (fun e => (e.1, hartAt s e.2))) (wgAt s g)) := by
  unfold parkWg
  dsimp only
  rw [wgAt_leaveRequest, leaveRequest_rest]
  exact ⟨rfl, congrArg unmarked (wgAt_modWg _ g (parkedWg _ _))⟩
end Ends

section GroupEnds
theorem exitDrainDone_ends {h : Nat} {s : State} {park : Bool} {form : Nat} (hform : form = if park then 2 else 1)
    (hwait : (hartAt s h).wait = .exit park) (hq : Quiet s) (hacc : (hartAt s h).accFails = []) (hlate : (hartAt s h).lateFaults = [])
    (hn : NoTrace s) : Goes (.exitDrainDone h) s (memberEnded s h form) := by
  subst hform
  have haccTake : accFaultTake s h = none := by unfold accFaultTake; simp only [hacc]
  have hlateTake : lateFaultTake s h = none := by unfold lateFaultTake; simp only [hlate]
  refine (exec_exitDrainDone s).trans ?_
  unfold execExitDrainDone
  simp only [hwait, flushAgent_quiet hq, haccTake, hlateTake, Option.orElse_none, traceEvent_off hn]
theorem exitDrainDone_plain {h : Nat} {s : State} (hwait : (hartAt s h).wait = .exit false) (hq : Quiet s)
    (hacc : (hartAt s h).accFails = []) (hlate : (hartAt s h).lateFaults = []) (hn : NoTrace s)
    (hpark : (wgAt s (hartAt s h).wg).endedPark = 0) :
    ∃ t, Goes (.exitDrainDone h) s t ∧ hartAt t h = exitedHart 1 (hartAt s h) ∧ OnlyHart s t h ∧
      wgAt t (hartAt s h).wg = endCounted 1 (wgAt s (hartAt s h).wg) ∧ SameBytes s t := by
  refine ⟨memberLeft s h 1, ?_, hartAt_memberLeft s h 1, onlyHart_memberLeft s h 1, wgAt_memberLeft s h 1, fun _ _ => rfl⟩
  rw [← memberEnded_plain hpark]
  exact exitDrainDone_ends rfl hwait hq hacc hlate hn
theorem exitDrainDone_parks {h r : Nat} {s : State} (hwait : (hartAt s h).wait = .exit true) (hq : Quiet s)
    (hacc : (hartAt s h).accFails = []) (hlate : (hartAt s h).lateFaults = []) (hn : NoTrace s)
    (hmembers : (wgAt s (hartAt s h).wg).members = [(r, h)]) (hlive : (wgAt s (hartAt s h).wg).terminated = false) :
    ∃ t, Goes (.exitDrainDone h) s t ∧ tfind t.harts h = none ∧ OnlyHart s t h ∧ (wgAt t (hartAt s h).wg).parked = true ∧
      (wgAt t (hartAt s h).wg).members = [] ∧ (wgAt t (hartAt s h).wg).saved.map Prod.fst = [r] := by
  obtain ⟨hharts, hwg⟩ := parkWg_saves (memberLeft s h 2) (hartAt s h).wg
  have hleft : (wgAt (memberLeft s h 2) (hartAt s h).wg).members = [(r, h)] := by rw [wgAt_memberLeft]; exact hmembers
  have hended : (hartAt (memberLeft s h 2) h).ended = 2 := by rw [hartAt_memberLeft]; rfl
  refine ⟨parkWg (memberLeft s h 2) (hartAt s h).wg, ?_, ?_, fun k hk => ?_, ?_⟩
  · rw [← memberEnded_parks hmembers hlive]
    exact exitDrainDone_ends rfl hwait hq hacc hlate hn
  · rw [hharts, hleft]
    exact tfind_tdels (.inr ⟨_, List.mem_singleton_self _, rfl⟩)
  · rw [hartAt, hharts, hleft, tget_tdels_other ({} : Hart) (by simpa using Ne.symm hk)]
    exact onlyHart_memberLeft s h 2 k hk
  · rw [hwg, hleft]
    refine ⟨rfl, rfl, ?_⟩
    simp [unmarked, parkedWg, hended]
end GroupEnds

section Releases
/-- A workgroup's shared resources are free, and its launch counts it no longer (01 R22). -/
def releasedWg (s : State) (wkey : Nat) (w : Wg) : State :=
  let s := freeWslots (leaveRequest s wkey (reqOp s w.pid == 4)) wkey
  let s := { s with harts := w.members.foldl (fun t e => tdel t e.2) s.harts,
                    bankOwner := s.bankOwner.filter (fun e => e.2 != wkey), wgs := tdel s.wgs wkey }
  if w.lkey = 0 then s
  else modLaunch s w.lkey (fun l => (fun (l : Launch) => if w.terminated then addTerm l else l) { l with liveWgs := l.liveWgs - 1 })
theorem releaseWg_eq {s u : State} {w : Nat} (hdue : releaseDue s w = true)
    (hjoin : joinDecrement s (wgAt s w).lkey (wgAt s w).tile (wgAt s w).joinWord = (u, true)) :
    releaseWg s w = releasedWg u w (wgAt s w) := by
  unfold releaseWg
  simp only [hdue, hjoin, Bool.not_true, Bool.false_eq_true, if_false]
  rfl
theorem releasedWg_parts (s : State) (wkey : Nat) (w : Wg) :
    (releasedWg s wkey w).mem = s.mem ∧ (releasedWg s wkey w).wgs = tdel (leaveRequest s wkey (reqOp s w.pid == 4)).wgs wkey ∧
      (releasedWg s wkey w).harts = w.members.foldl (fun t e => tdel t e.2) s.harts ∧
      (releasedWg s wkey w).bankOwner = s.bankOwner.filter (fun e => e.2 != wkey) := by
  unfold releasedWg
  dsimp only
  rw [leaveRequest_rest]
  split <;> exact ⟨rfl, rfl, rfl, rfl⟩
theorem launchAt_releasedWg {s : State} {wkey : Nat} {w : Wg} (hl : w.lkey ≠ 0) (hlive : w.terminated = false) :
    launchAt (releasedWg s wkey w) w.lkey = { launchAt s w.lkey with liveWgs := (launchAt s w.lkey).liveWgs - 1 } := by
  unfold releasedWg
  dsimp only
  rw [if_neg hl, launchAt_modLaunch, hlive, leaveRequest_rest]
  rfl
theorem tfind_releasedWg (s : State) (wkey : Nat) (w : Wg) : tfind (releasedWg s wkey w).wgs wkey = none := by
  obtain ⟨-, hwgs, -, -⟩ := releasedWg_parts s wkey w
  rw [hwgs, tfind_tdel, if_pos rfl]
/-- A write that nothing stops stores its bytes, wherever bytes can be stored. -/
theorem homeWriteN_stores {s : State} {k n : Nat} {l : Loc} (v : DWord) (hl : HoldsBytes l) (hw : Writable s k l n) :
    ∃ u, homeWriteN s k l n v = (u, true) ∧ contents u.mem = contents (writeBytes s.mem l (leBytes n v.toNat)) := by
  cases l
  case mem a => exact ⟨_, homeWriteN_writable v hw, contents_storedAt _ _ _ _⟩
  case win a | mbox a | host a =>
    refine ⟨modMem s (fun m => writeBytes m _ (leBytes n v.toNat)), ?_, rfl⟩
    unfold homeWriteN homeWrite
    simp only [leBytes_length, hw.1, Bool.false_eq_true, if_false]
  all_goals exact hl.elim
theorem leNat_lt (l : List Byte) : leNat l < 256 ^ l.length := by
  induction l with
  | nil => exact Nat.one_pos
  | cons b l ih =>
    have hb : b.toNat < 256 := b.isLt
    rw [leNat, List.length_cons, Nat.pow_succ]
    omega
theorem length_readBytes (m : Mem) (l : Loc) (n : Nat) : (readBytes m l n).length = n := by cases l <;> simp [readBytes, getBytes]
theorem homeValue_lt (s : State) (l : Loc) (n : Nat) : homeValue s l n < 256 ^ n := by
  have h := leNat_lt (readBytes s.mem l n)
  rwa [length_readBytes] at h
theorem toNat_readLoc (s : State) (l : Loc) : (readLoc s.mem l 8).toNat = homeValue s l 8 :=
  Nat.mod_eq_of_lt (homeValue_lt s l 8)
/-- The join word's number less one, which wraps at 64 bits (06 R157). -/
theorem toNat_decremented (s : State) (l : Loc) : (readLoc s.mem l 8 - 1).toNat = (homeValue s l 8 + (2 ^ 64 - 1)) % 2 ^ 64 := by
  rw [BitVec.toNat_sub, toNat_readLoc, Nat.add_comm]
  rfl
section JoinWord
variable {s : State} {lkey tile : Nat} {va : DWord} {x : Located} (hva : va ≠ 0) (hl : lkey ≠ 0)
  (hlocate : locate s (launchCtx (launchAt s lkey) tile) 0 false .store .join va 8 = .ok x)
  (hwalk : walkWaits s (launchCtx (launchAt s lkey) tile) 0 .store va = false) (hbytes : HoldsBytes x.loc)
  (hwrite : Writable s 0xFFFFFD x.loc 8)
include hva hl hlocate hwalk hbytes hwrite
theorem joinDecrement_writes :
    ∃ u, joinDecrement s lkey tile va = (u, true) ∧ WroteBytes s u x.loc 8 ((homeValue s x.loc 8 + (2 ^ 64 - 1)) % 2 ^ 64) := by
  obtain ⟨u, hgoes, hcontents⟩ := homeWriteN_stores (readLoc s.mem x.loc 8 - 1) hbytes hwrite
  rw [toNat_decremented] at hcontents
  refine ⟨u, ?_, wroteBytes_of_contents hbytes hcontents⟩
  have hheld : heldWrite s 0xFFFFFD x.loc 8 = false := hwrite.1
  unfold joinDecrement
  rw [if_neg (by simpa using ⟨hva, hl⟩)]
  simp only [hwalk, hlocate, hheld, hgoes, Bool.false_eq_true, if_false]
end JoinWord
end Releases

section Joins
theorem readLoc_eq_zero_iff (s : State) (l : Loc) : readLoc s.mem l 8 = 0 ↔ homeValue s l 8 = 0 := by
  rw [← BitVec.toNat_inj, toNat_readLoc]
  rfl
/-- A JOIN's read that nothing holds returns the number at its word. -/
theorem joinRead_answers {s : State} {h : Nat} {l : Located} (hq : Quiet s) (hheld : heldRead s l.loc 8 = false)
    (hroute : dropped s (hartAt s h).actsFor (hartAt s h).tile l.loc = false) :
    joinRead s h l = (l.note s, some (readLoc s.mem l.loc 8)) := by
  have hrest := note_rest l s
  have hnet : (l.note s).mem.net = [] := by rw [hrest]; exact hq.1
  have hheldNote : heldRead (l.note s) l.loc 8 = false := by rw [hrest]; exact hheld
  have hhart : hartAt (l.note s) h = hartAt s h := by rw [hrest]; rfl
  have hrouteNote : dropped (l.note s) (hartAt (l.note s) h).actsFor (hartAt (l.note s) h).tile l.loc = false := by
    rw [hhart, ← hroute]
    exact dropped_congr (by rw [hrest]) (by rw [hrest]) _ _ _
  have hvalue : readLoc (l.note s).mem l.loc 8 = readLoc s.mem l.loc 8 :=
    congrArg (fun bs => dw (leNat bs)) (readBytes_of_contents (by rw [hrest]; rfl) l.loc 8)
  unfold joinRead
  rw [flushWord_none l.loc 8 (by rw [hnet]; exact fun r hr => absurd hr List.not_mem_nil)]
  simp only [hheldNote, unanswered_none h l.loc 8 hnet hrouteNote, hvalue, Bool.or_false, Bool.false_eq_true, if_false]
theorem wakeHart_running {h : Hart} (hrun : h.run ≠ .stopped) : wakeHart h = retireHart h := by
  unfold wakeHart
  rw [if_neg (by simpa using hrun)]
section Joined
variable {h : Nat} {va : DWord} {l : Located} {s : State} (hwait : (hartAt s h).wait = .join va)
  (hlocate : locate s (dataCtx (hartAt s h)) (hartAt s h).lkey false .load .join va 8 = .ok l) (hq : Quiet s)
  (hheld : heldRead s l.loc 8 = false) (hwalk : walkWaits s (dataCtx (hartAt s h)) (hartAt s h).lkey .load va = false)
  (hroute : dropped s (hartAt s h).actsFor (hartAt s h).tile l.loc = false)
include hwait hlocate hq hheld hwalk hroute
theorem joinSatisfied_reads :
    Goes (.joinSatisfied h) s
      (if homeValue s l.loc 8 = 0 then modHart (acquire (l.note s) h) h wakeHart else l.note s) := by
  have hrest := note_rest l s
  have hnet : (l.note s).mem.net = [] := by rw [hrest]; exact hq.1
  have hfar : (l.note s).mem.farOut = [] := by rw [hrest]; exact hq.2
  refine (exec_joinSatisfied s).trans ?_
  unfold execJoinSatisfied
  simp only [hwait, hwalk, hlocate, joinRead_answers hq hheld hroute, readLoc_eq_zero_iff, acquireAll_none h hnet hfar,
    Bool.false_eq_true, if_false]
  split <;> rfl
theorem joinSatisfied_retires (hrun : (hartAt s h).run ≠ .stopped) (hzero : homeValue s l.loc 8 = 0) :
    ∃ t, Goes (.joinSatisfied h) s t ∧ RetiredAs (hartAt t h) (acquired true s (hartAt s h)) ∧ OnlyHart s t h ∧ SameBytes s t := by
  have hgoes := joinSatisfied_reads hwait hlocate hq hheld hwalk hroute
  rw [if_pos hzero] at hgoes
  have hrest := note_rest l s
  have hhart : hartAt (l.note s) h = hartAt s h := by rw [hrest]; rfl
  have hharts : (l.note s).harts = s.harts := by rw [hrest]
  have hacquired : hartAt (acquire (l.note s) h) h = acquired true s (hartAt s h) := by
    rw [acquire, hartAt_modHart, hhart, hrest]
    rfl
  refine ⟨_, hgoes, ?_, ?_, sameBytes_of_contents (by rw [modHart, hrest]; rfl)⟩
  · rw [hartAt_modHart, hacquired, wakeHart_running (by exact hrun)]
    rfl
  · intro k hk
    rw [modHart, hartAt_setHart_ne _ _ (Ne.symm hk)]
    exact onlyHart_modHart hharts h _ k hk
theorem joinSatisfied_waits (hmore : homeValue s l.loc 8 ≠ 0) :
    ∃ t, Goes (.joinSatisfied h) s t ∧ t.harts = s.harts ∧ SameBytes s t := by
  have hgoes := joinSatisfied_reads hwait hlocate hq hheld hwalk hroute
  rw [if_neg hmore] at hgoes
  exact ⟨_, hgoes, by rw [note_rest], sameBytes_of_contents (by rw [note_rest]; rfl)⟩
end Joined
end Joins

section WorkgroupsCome
theorem admissionDecision_admits {tile b f : Nat} {e : EaselEntry} {rest : List EaselEntry} {s : State} (h : MayAdmit s tile e rest b f) :
    let l := launchAt s e.lkey; let k := l.kernels.getD e.kidx {}
    ∃ t, Goes (.admissionDecision tile) s t ∧ (easelAt t tile).resident = rest ∧ t.nextWg = s.nextWg + 1 ∧
      let w := wgAt t s.nextWg
      w.lkey = e.lkey ∧ w.pid = l.pid ∧ w.wgid = e.wgid ∧ w.tile = tile ∧ w.size = k.groups ∧ w.arg = e.arg ∧ w.joinWord = e.joinWord ∧
        w.nbars = k.barriers ∧ w.bankCount = k.scratch ∧
        (∀ m ∈ w.members, IsMember (hartAt t m.2) k e.arg s.nextWg m.1) ∧
        ∀ i < k.scratch, tfind t.bankOwner (tile * 16 + f + i) = some s.nextWg ∧ ∀ o < 2 ^ 17,
          readBytes t.mem (.win ((tile * 16 + f + i) * 2 ^ 17 + o)) 1 = [0] ∧
            isFull t.mem (.win ((tile * 16 + f + i) * 2 ^ 17 + o)) = true := by
  intro l k
  obtain ⟨u, hu⟩ : ∃ u, u = modEasel s tile (fun q => { q with resident := q.resident.drop 1, probe := 0 }) := ⟨_, rfl⟩
  have hlaunch : launchAt u e.lkey = l := by rw [hu]; rfl
  have hnext : u.nextWg = s.nextWg := by rw [hu]; rfl
  obtain ⟨hcount, hw, hmembers, hbanks⟩ := admitWg_holds (tile := tile) (b := b) (f := f) l hlaunch
  refine ⟨admitWg u tile b f e, ?_, ?_, hcount.trans (by rw [hnext]), ?_⟩
  · rw [hu, ← admissionStep_admits h]
    rfl
  · have heasels : easelAt (admitWg u tile b f e) tile = easelAt u tile := admitWg_part (easelAt · tile) (fun _ _ _ _ _ _ _ _ => rfl) u tile b f e
    obtain ⟨-, hbottom, -⟩ := h
    rw [heasels, hu, easelAt_modEasel, hbottom]
    rfl
  · rw [hnext] at hw hmembers hbanks
    refine ⟨?_, ?_, ?_, ?_, ?_, ?_, ?_, ?_, ?_, hmembers, hbanks⟩
    all_goals rw [hw, workgroupOf, hlaunch]
/-- Settles O47: admission, refill, end, release and JOIN, each from the rule of its operation. -/
theorem workgroupsComeAndGo : Obligations.WorkgroupsComeAndGo := by
  refine ⟨fun tile b f e rest s => admissionDecision_admits,
    fun tile s hwgs hlaunches hempty => congrArg Host.Outcome.next (admissionStep_idle hwgs hlaunches hempty),
    fun tile e rest s hspilled hroom => ⟨fun hheld => congrArg Host.Outcome.next (refillEasel_waits hspilled hheld), fun hheld =>
      ⟨fun hback => ⟨_, congrArg Host.Outcome.next (refillEasel_returns hspilled hroom hheld hback), ?_⟩,
        refillEasel_lost hspilled hroom hheld⟩⟩,
    fun h s hq hacc hlate hn => ⟨fun hwait hpark => ?_, fun r hwait => exitDrainDone_parks hwait hq hacc hlate hn⟩,
    fun w s hdue hmarked hnone => ⟨_, congrArg Host.Outcome.next (releaseWg_eq hdue (joinDecrement_absent s _ hnone)), ?_⟩,
    fun w x s hdue hjoin hl hlocate hwalk hbytes hwrite => ?_,
    fun h va l s hwait hlocate hq hheld hwalk hroute hrun => ⟨joinSatisfied_retires hwait hlocate hq hheld hwalk hroute hrun,
      joinSatisfied_waits hwait hlocate hq hheld hwalk hroute⟩⟩
  · rw [easelAt_modEasel]
    exact ⟨rfl, rfl, rfl⟩
  · obtain ⟨t, hgoes, hhart, honly, hwg, hsame⟩ := exitDrainDone_plain hwait hq hacc hlate hn hpark
    refine ⟨t, hgoes, ?_, ?_, ?_, ?_, honly, by rw [hwg]; rfl, hsame⟩
    all_goals rw [hhart]; rfl
  · obtain ⟨hmem, -, hharts, hbanks⟩ := releasedWg_parts s w (wgAt s w)
    refine ⟨tfind_releasedWg _ _ _, fun m hm => ?_, fun e he => ?_, hmem, fun hl hlive => ?_⟩
    · rw [hharts]
      exact tfind_tdels (.inr ⟨m, hm, rfl⟩)
    · rw [hbanks] at he
      simpa using (List.mem_filter.1 he).2
    · rw [launchAt_releasedWg hl hlive]
  · obtain ⟨u, hdecrement, hwrote⟩ := joinDecrement_writes hjoin hl hlocate hwalk hbytes hwrite
    obtain ⟨hmem, -, -, -⟩ := releasedWg_parts u w (wgAt s w)
    refine ⟨_, congrArg Host.Outcome.next (releaseWg_eq hdue hdecrement), ?_, tfind_releasedWg _ _ _⟩
    unfold WroteBytes at hwrote ⊢
    rw [hmem]
    exact hwrote
end WorkgroupsCome

section LaunchList
/-! The accesses that the checks of a LAUNCH make leave the list of launches alone (04 R101; 06 R154). -/
theorem launches_noteWrite (s : State) (k : Nat) (l : Loc) (n : Nat) : (noteWrite s k l n).launches = s.launches :=
  congr_of_trace State.launches (fun _ _ _ _ => rfl) (noteWrite_rest s s k l n)
theorem launches_notePoison (s : State) (l : Loc) : (notePoison s l).launches = s.launches := by
  cases l
  case mem a => unfold notePoison noteGranule; dsimp only; split <;> rfl
  all_goals rfl
theorem launches_homeWrite (s : State) (k : Nat) (l : Loc) (bs : List Byte) : (homeWrite s k l bs).1.launches = s.launches := by
  unfold homeWrite
  dsimp only
  split
  · rfl
  · cases l
    case mem a =>
      dsimp only
      split
      · rfl
      · split
        · exact launches_notePoison s _
        · exact launches_noteWrite _ k _ _
    all_goals rfl
theorem launches_imsicStore (s : State) (tile slot file ident : Nat) : (imsicStore s tile slot file ident).launches = s.launches := by
  unfold imsicStore; dsimp only; split <;> rfl
theorem launches_ctlStore (s : State) (o n : Nat) (v : DWord) : (ctlStore s o n v).launches = s.launches := by
  unfold ctlStore; split <;> rfl
theorem launches_lateFault (s : State) (k : Nat) (va : DWord) : (lateFault s k va).launches = s.launches := by
  unfold lateFault; split <;> rfl
theorem launches_entered (s : State) (r : Req) : (entered s r).launches = s.launches := by
  unfold entered dropCopies
  split
  · cases r.loc <;> rfl
  · rfl
theorem launches_landed (s : State) (r : Req) (bad : Bool) : (entered (postedFault s r bad) r).launches = s.launches := by
  rw [launches_entered, postedFault]
  split
  · exact launches_lateFault s _ _
  · rfl
theorem launches_storeReq (s : State) (r : Req) (l : Loc) (v : DWord) (bad : Bool) (f : State → State) (hf : ∀ t, (f t).launches = t.launches) :
    (match homeWriteN s r.agent l r.size v with
      | (t, true) => (f (entered (postedFault t r bad) r), true)
      | (s, false) => (s, false)).1.launches = s.launches := by
  have h : (homeWriteN s r.agent l r.size v).1.launches = s.launches := launches_homeWrite s _ l _
  split
  · rename_i t ht
    rw [ht] at h
    exact (hf _).trans ((launches_landed t r bad).trans h)
  · rename_i t ht
    rw [ht] at h
    exact h
theorem launches_performReq (s : State) (r : Req) : (performReq s r).1.launches = s.launches := by
  unfold performReq
  split
  · rfl
  · split
    · rfl
    · dsimp only
      split
      · exact launches_imsicStore s _ _ _ _
      · rfl
    · exact launches_ctlStore s _ _ _
    · split
      · rfl
      · split
        · exact launches_storeReq s r _ _ _ id (fun _ => rfl)
        · split
          · rfl
          · exact launches_storeReq s r _ _ _ (fun t => count t 3 (homeTile _) 0 2 1) (fun _ => rfl)
theorem launches_flushIf (p : Req → Bool) (s : State) : (flushIf p s).1.launches = s.launches := by
  have hone : ∀ (a : State × List Req × Bool) (r : Req), (flushOne p a r).1.launches = a.1.launches := by
    intro a r
    have h := launches_performReq a.1 r
    unfold flushOne
    split
    · rfl
    · split
      · rfl
      · split <;> (rename_i t ht; rw [ht] at h; exact h)
  have hall : ∀ (l : List Req) (a : State × List Req × Bool), (l.foldl (flushOne p) a).1.launches = a.1.launches := by
    intro l
    induction l with
    | nil => exact fun _ => rfl
    | cons r l ih => exact fun a => (ih _).trans (hone a r)
  exact hall s.mem.net (s, [], true)
theorem launches_l2Touch (s : State) (line : Nat) : (l2Touch s line).launches = s.launches := by
  have h := congrArg State.launches (l2Touch_rest s s line)
  exact h
theorem launches_fitCache (s : State) (holder keep : Nat) : (fitCache s holder keep).launches = s.launches := by
  unfold fitCache; dsimp only; split <;> rfl
theorem launches_fillCopy (s : State) (holder line : Nat) : (fillCopy s holder line).launches = s.launches :=
  (launches_fitCache _ _ _).trans (launches_l2Touch s line)
theorem launches_dirLoad (s : State) (h : Hart) (a n : Nat) : (dirLoad s h a n).launches = s.launches := by
  unfold dirLoad
  dsimp only
  split
  · rfl
  · exact (launches_fitCache _ _ _).trans (launches_l2Touch s _)
theorem launches_agentLoad (s : State) (k : Nat) (l : Loc) (mode n : Nat) : (agentLoad s k l mode n).1.launches = s.launches := by
  unfold agentLoad
  split
  · rfl
  · rename_i hforward
    have hflush : (flushWord s k l n).1.launches = s.launches := launches_flushIf _ s
    generalize flushWord s k l n = a at hflush ⊢
    obtain ⟨u, ok⟩ := a
    dsimp only at hflush ⊢
    split
    · exact hflush
    · rename_i hfree
      cases l
      case mem a =>
        dsimp only
        split
        · exact (l2Span_part State.launches (fun _ _ => rfl) u a n).trans hflush
        · split
          · split
            · split
              · exact hflush
              · exact (launches_fillCopy u _ _).trans hflush
            · exact (launches_fillCopy u _ _).trans hflush
          · exact (launches_dirLoad u _ a n).trans hflush
      all_goals exact hflush
theorem launches_note (l : Located) (s : State) : (l.note s).launches = s.launches := by rw [note_rest]
theorem launches_readDwords {k n : Nat} {s t : State} {va : DWord} {ds : List DWord} (h : readDwords k n s va = .ok (t, some ds)) :
    t.launches = s.launches := by
  induction n generalizing s va ds with
  | zero => cases h; rfl
  | succ n ih =>
    unfold readDwords at h
    dsimp only at h
    split at h
    · cases h
    · split at h
      · cases h
      · rename_i l hl
        have hload := (launches_agentLoad (l.note s) k l.loc l.mode 8).trans (launches_note l s)
        split at h
        · cases h
        · rename_i u v hu
          rw [hu] at hload
          split at h
          · cases h
          · cases h
          · rename_i w r hw
            cases h
            exact (ih hw).trans hload
theorem launches_readKernels {k l1cnt : Nat} {s t : State} {as : List DWord} {ks : List Kernel}
    (h : readKernels k l1cnt s as = .ok (t, ks)) : t.launches = s.launches := by
  induction as generalizing s ks with
  | nil => cases h; rfl
  | cons a as ih =>
    unfold readKernels at h
    split at h
    · cases h
    · split at h
      · cases h
      · cases h
      · rename_i u ds hu
        split at h
        · cases h
        · split at h
          · cases h
          · rename_i w r hw
            cases h
            exact (ih hw).trans (launches_readDwords hu)
theorem launches_launchChecks {s t : State} {k p : Nat} {desc : DWord} {d : Desc} {ks : List Kernel}
    (h : launchChecks s k p desc = .ok (t, d, ks)) : t.launches = s.launches := by
  unfold launchChecks at h
  split at h
  · cases h
  · cases h
  · rename_i u ds hu
    dsimp only at h
    split at h
    · cases h
    · split at h
      · cases h
      · split at h
        · cases h
        · split at h
          · cases h
          · cases h
          · rename_i v tab hv
            split at h
            · cases h
            · rename_i w r hw
              cases h
              exact (launches_readKernels hw).trans ((launches_readDwords hv).trans (launches_readDwords hu))
end LaunchList

section LaunchIds
/-- Routers that load change nothing else (13 R294). -/
theorem loadRouters_rest {s t : State} {p : Nat} {ts : List Nat} (h : loadRouters s p ts = (t, some true)) :
    t = { s with routers := t.routers } := by
  induction ts generalizing s with
  | nil => cases h; rfl
  | cons a ts ih =>
    unfold loadRouters at h
    split at h
    · cases h
    · split at h
      · cases h
      · split at h
        · exact (ih h).trans rfl
        · cases h
/-- The identifiers of a partition's running launches. -/
def takenIds (s : State) (p : Nat) : List Nat := (s.launches.filter (fun e => e.2.pid == p && running e.2)).map (fun e => e.2.lid)
theorem taken_iff (s : State) (p i : Nat) :
    s.launches.any (fun e => e.2.pid == p && running e.2 && e.2.lid == i) = true ↔ i ∈ takenIds s p := by
  simp only [takenIds, List.any_eq_true, List.mem_map, List.mem_filter, Bool.and_eq_true, beq_iff_eq]
  constructor
  · rintro ⟨e, he, hrun, hi⟩
    exact ⟨e, ⟨he, hrun⟩, hi⟩
  · rintro ⟨e, ⟨he, hrun⟩, hi⟩
    exact ⟨e, he, hrun, hi⟩
/-- The 65 identifiers that are tried. -/
def candidateIds (n : Nat) : List Nat := (List.range 65).map (fun i => (n + i) % 2 ^ 32)
theorem candidateIds_distinct (n : Nat) : (candidateIds n).Nodup := by
  refine (List.nodup_map_iff_inj_on List.nodup_range).2 fun i hi j hj hij => ?_
  simp only [List.mem_range] at hi hj
  omega
theorem freeLid_eq (s : State) (p : Nat) :
    freeLid s p = ((candidateIds (partAt s p).lidCtr).find? (fun i => !decide (i ∈ takenIds s p))).getD (partAt s p).lidCtr := by
  have htaken : (fun i => !s.launches.any (fun e => e.2.pid == p && running e.2 && e.2.lid == i)) = fun i => !decide (i ∈ takenIds s p) := by
    funext i
    rw [Bool.eq_iff_iff]
    simp only [Bool.not_eq_true', ← Bool.not_eq_true, taken_iff, decide_eq_true_eq]
  unfold freeLid
  dsimp only
  rw [htaken]
  rfl
/-- Fewer than 64 launches run, so that one of the 65 identifiers is free (02 R59). -/
theorem freeLid_free {s : State} {p : Nat} (h : runningCount s p < 64) : freeLid s p ∉ takenIds s p := by
  have hlen : (takenIds s p).length < 64 := by rw [takenIds, List.length_map]; exact h
  have hsome : ∃ i ∈ candidateIds (partAt s p).lidCtr, i ∉ takenIds s p := by
    by_contra hall
    push Not at hall
    have hle := (List.subperm_of_subset (candidateIds_distinct _) hall).length_le
    rw [candidateIds, List.length_map, List.length_range] at hle
    omega
  obtain ⟨i, hi, hfree⟩ := hsome
  have hfound : ((candidateIds (partAt s p).lidCtr).find? (fun i => !decide (i ∈ takenIds s p))).isSome = true :=
    List.find?_isSome.2 ⟨i, hi, by simpa using hfree⟩
  obtain ⟨j, hj⟩ := Option.isSome_iff_exists.1 hfound
  have hfree := List.find?_some hj
  rw [freeLid_eq, hj]
  simpa using hfree
theorem freeLid_first {s : State} {p : Nat} (hfree : (partAt s p).lidCtr ∉ takenIds s p) (hlt : (partAt s p).lidCtr < 2 ^ 32) :
    freeLid s p = (partAt s p).lidCtr := by
  have hmod : ((partAt s p).lidCtr + 0) % 2 ^ 32 = (partAt s p).lidCtr := Nat.mod_eq_of_lt hlt
  rw [freeLid_eq, candidateIds, List.range_succ_eq_map, List.map_cons, hmod, List.find?_cons_of_pos (by simpa using hfree)]
  rfl
end LaunchIds

section LaunchChecks
/-- A retirement that writes a register is what WroteX says of the agent. -/
theorem wroteX_retireHart (h : Hart) (rd : Reg) (v : DWord) : WroteX h (retireHart (h.setX rd v)) rd v (h.pc + 4) := by
  refine ⟨fun q => ?_, ?_⟩
  · rw [retireHart_getX, getX_setX]
  · unfold Hart.setX
    split <;> rfl
theorem wroteX_launchAnswer (s : State) (k : Nat) (rd : Reg) (v : DWord) :
    WroteX (hartAt s k) (hartAt (launchAnswer s k rd v) k) rd v ((hartAt s k).pc + 4) := by
  rw [launchAnswer, hartAt_modHart]
  exact wroteX_retireHart _ rd v
theorem seqQ_popped (s : State) (p : Nat) (rest : List SeqEntry) : (partAt (popped s p rest) p).seqQ = rest := by
  rw [popped, partAt_modPart]
section Sequencer
variable {s : State} {p : Nat} {e : SeqEntry} {rest : List SeqEntry} (hnext : NextLaunch s p e rest)
include hnext
theorem nextLaunch_placed : s.launches.any (fun e => e.2.pid == p && !e.2.placed) = false := by
  simp only [List.any_eq_false, Bool.and_eq_true, beq_iff_eq, Bool.not_eq_true', not_and, Bool.not_eq_false]
  exact hnext.1
theorem launchCheck_status {n : Nat} (h : launchChecks s e.hart p e.desc = .error (.status n)) :
    launchCheck s p = launchAnswer (popped s p rest) e.hart e.rd (dw n) := by
  unfold launchCheck
  simp only [nextLaunch_placed hnext, hnext.2, h, Bool.false_eq_true, if_false]
  rfl
theorem launchCheck_held (h : launchChecks s e.hart p e.desc = .error .held) : launchCheck s p = launchBegun s e.hart := by
  unfold launchCheck
  simp only [nextLaunch_placed hnext, hnext.2, h, Bool.false_eq_true, if_false]
theorem launchCheck_passed {t : State} {d : Desc} {ks : List Kernel} (h : launchChecks s e.hart p e.desc = .ok (t, d, ks)) :
    launchCheck s p = (launchFinish (popped t p rest) e.hart p e.rd d ks).getD (launchBegun s e.hart) := by
  unfold launchCheck
  simp only [nextLaunch_placed hnext, hnext.2, h, Bool.false_eq_true, if_false]
  rfl
end Sequencer
theorem launchFinish_splits {s : State} (k p : Nat) (rd : Reg) {d : Desc} (ks : List Kernel) (h : splitsAgree s d = false) :
    launchFinish s k p rd d ks = some (launchAnswer s k rd 5) := by
  unfold launchFinish
  simp only [h, Bool.not_false, if_true]
  rfl
/-- A hart whose LAUNCH waits for its placement. -/
def placing (l : Nat) (rd : Reg) (h : Hart) : Hart := { h with wait := .placing l rd }
theorem launchFinish_passes {s t : State} {k p : Nat} {rd : Reg} {d : Desc} {ks : List Kernel} {c m w : Loc}
    (h : ChecksPass s (hartAt s k) p d c m w t) :
    launchFinish s k p rd d ks =
      some (modHart (addLaunch t p (freeLid t p) (newLaunch (hartAt s k) p (freeLid t p) d ks c m w)) k (placing t.nextLaunch rd)) := by
  obtain ⟨hsplits, hword, hpair, hcount, hheld, hheldM, hheldW, hrouters, hfree⟩ := h
  have hroom : (rectTiles d.rect).any (fun u => decide (freeEntries t p u < reservedOn t u + d.p)) = false := by
    simpa using hfree
  unfold launchFinish
  simp only [hsplits, hword, hpair, hheld, hheldM, hheldW, hrouters, hroom, if_neg (Nat.not_le.2 hcount), Bool.not_true, Bool.or_false,
    Bool.false_eq_true, if_false]
  rfl
/-- A partition whose next identifier follows one that is taken (02 R59). -/
def idTaken (lid : Nat) (q : Part) : Part := { q with lidCtr := (lid + 1) % 2 ^ 32 }
/-- A new launch is listed, and its partition's next identifier follows its own (02 R59). -/
def listedLaunch (s : State) (p lid : Nat) (r : Launch) : State :=
  { modPart s p (idTaken lid) with
    launches := tput s.launches s.nextLaunch r, nextLaunch := s.nextLaunch + 1 }
/-- What does not read memory does not see the L1s of a launch's cores change. -/
theorem addLaunch_part {α : Type} (f : State → α) (hf : ∀ u m, f { u with mem := m } = f u) (s : State) (p lid : Nat) (r : Launch) :
    f (addLaunch s p lid r) = f (listedLaunch s p lid r) := by
  refine foldl_rest f _ (fun u t => ?_) (rectTiles r.rect) (listedLaunch s p lid r)
  unfold fitCache
  dsimp only
  split <;> exact hf _ _
theorem launchCheck_begins {s s' t : State} {p : Nat} {e : SeqEntry} {rest : List SeqEntry} {d : Desc} {ks : List Kernel} {c m w : Loc}
    (hnext : NextLaunch s p e rest) (hchecks : launchChecks s e.hart p e.desc = .ok (s', d, ks))
    (hpass : ChecksPass (popped s' p rest) (hartAt (popped s' p rest) e.hart) p d c m w t) :
    ∃ u, Goes (.launchCheck p) s u ∧ u.nextLaunch = t.nextLaunch + 1 ∧ hartAt u e.hart = placing t.nextLaunch e.rd (hartAt t e.hart) ∧
      launchAt u t.nextLaunch = newLaunch (hartAt t e.hart) p (freeLid t p) d ks c m w ∧
      (partAt u p).lidCtr = (freeLid t p + 1) % 2 ^ 32 := by
  obtain ⟨-, -, -, -, -, -, -, hrouters, -⟩ := id hpass
  have hrest := loadRouters_rest hrouters
  have hhart : hartAt (popped s' p rest) e.hart = hartAt t e.hart := by rw [hrest]; rfl
  have hgoes : launchCheck s p =
      modHart (addLaunch t p (freeLid t p) (newLaunch (hartAt t e.hart) p (freeLid t p) d ks c m w)) e.hart (placing t.nextLaunch e.rd) := by
    rw [launchCheck_passed hnext hchecks, launchFinish_passes hpass, Option.getD_some, hhart]
  refine ⟨_, congrArg Host.Outcome.next hgoes, ?_⟩
  rw [hartAt_modHart]
  refine ⟨addLaunch_part State.nextLaunch (fun _ _ => rfl) _ _ _ _, ?_, ?_, ?_⟩
  · rw [addLaunch_part (hartAt · e.hart) (fun _ _ => rfl)]
    rfl
  · refine (addLaunch_part (launchAt · t.nextLaunch) (fun _ _ => rfl) _ _ _ _).trans ?_
    exact tget_tput_same _ _ _ _
  · refine (addLaunch_part (fun u => (partAt u p).lidCtr) (fun _ _ => rfl) _ _ _ _).trans ?_
    exact congrArg Part.lidCtr (partAt_modPart t p (idTaken _))
/-- No running launch of the partition has the identifier that a new one takes. -/
theorem freeLid_unused {s s' t : State} {p : Nat} {e : SeqEntry} {rest : List SeqEntry} {d : Desc} {ks : List Kernel} {c m w : Loc} {h : Hart}
    (hchecks : launchChecks s e.hart p e.desc = .ok (s', d, ks)) (hpass : ChecksPass (popped s' p rest) h p d c m w t) :
    freeLid t p ∉ takenIds s p ∧ ((partAt t p).lidCtr ∉ takenIds s p → (partAt t p).lidCtr < 2 ^ 32 → freeLid t p = (partAt t p).lidCtr) := by
  obtain ⟨-, -, -, hcount, -, -, -, hrouters, -⟩ := id hpass
  have hrest := loadRouters_rest hrouters
  have hlaunches : t.launches = s.launches := by
    have hchecked : s'.launches = s.launches := launches_launchChecks hchecks
    rw [hrest]
    exact hchecked
  have hids : takenIds t p = takenIds s p := by rw [takenIds, hlaunches, takenIds]
  have hcountT : runningCount t p < 64 := by rw [hrest]; exact hcount
  rw [← hids]
  exact ⟨freeLid_free hcountT, freeLid_first⟩
theorem mem_takenIds {s : State} {p i : Nat} : i ∈ takenIds s p ↔ ∃ j ∈ s.launches, j.2.pid = p ∧ running j.2 = true ∧ j.2.lid = i := by
  simp [takenIds, and_assoc]
end LaunchChecks

section Placement
theorem foldl_bind_none {α : Type} (g : State → α → Option State) (l : List α) : l.foldl (fun a x => a.bind (fun s => g s x)) none = none := by
  induction l with
  | nil => rfl
  | cons a l ih => exact ih
/-- What each step that answers keeps, all of them together keep. -/
theorem foldl_bind_keeps {α β : Type} (f : State → β) {g : State → α → Option State} (hg : ∀ s a t, g s a = some t → f t = f s) {l : List α}
    {s t : State} (h : l.foldl (fun a x => a.bind (fun s => g s x)) (some s) = some t) : f t = f s := by
  induction l generalizing s with
  | nil => cases h; rfl
  | cons a l ih =>
    rw [List.foldl_cons, Option.bind_some] at h
    cases ha : g s a with
    | none => rw [ha, foldl_bind_none] at h; cases h
    | some u =>
      rw [ha] at h
      exact (ih h).trans (hg s a u ha)
theorem harts_spillNote (s : State) (t : Nat) : (spillNote s t).harts = s.harts := by
  unfold spillNote
  dsimp only
  split
  · rfl
  · split
    · rfl
    · split
      · exact hwNote_part State.harts (fun _ _ _ _ => rfl) s _ _ _ _
      · rfl
theorem harts_hwWrite (s : State) (k : Nat) (l : Loc) (bs : List Byte) : (hwWrite s k l bs).harts = s.harts :=
  congr_of_trace State.harts (fun _ _ _ _ => rfl) (hwWrite_rest s s k l bs)
theorem harts_pushEasel {s u : State} {t : Nat} {e : EaselEntry} (h : pushEasel s t e = some u) : u.harts = s.harts := by
  unfold pushEasel at h
  dsimp only at h
  split at h
  · cases h; rfl
  · split at h
    · split at h
      · cases h
      · cases h
        exact harts_hwWrite s _ _ _
    · cases h
/-- The n-th initial workgroup of a launch on a tile (01 R25; 13 R295). -/
def initialEntry (lk : Nat) (l : Launch) (t n : Nat) : EaselEntry :=
  { lkey := lk, kidx := l.kidx, arg := l.arg, joinWord := 0,
    wgid := ((tileRow t - l.rowo) * l.width + (tileCol t - l.colo)) * l.p + n }
def placeOne (lk : Nat) (l : Launch) (t : Nat) (s : State) (n : Nat) : Option State :=
  if (pushHeld s t (initialEntry lk l t n)).isSome then none
  else some ((pushEasel (spillNote s t) t (initialEntry lk l t n)).getD (loseEntry (spillNote s t) t (initialEntry lk l t n)).1)
theorem placeTile_eq (s : State) (lk : Nat) (l : Launch) (t : Nat) :
    placeTile s lk l t = (List.range l.p).foldl (fun a n => a.bind (fun s => placeOne lk l t s n)) (some s) := rfl
theorem harts_placeOne {lk : Nat} {l : Launch} {t n : Nat} {s u : State} (h : placeOne lk l t s n = some u) : u.harts = s.harts := by
  unfold placeOne at h
  split at h
  · cases h
  · have hu := Option.some.inj h
    have hnote := harts_spillNote s t
    cases hpush : pushEasel (spillNote s t) t (initialEntry lk l t n) with
    | some v =>
      rw [hpush] at hu
      exact hu ▸ (harts_pushEasel hpush).trans hnote
    | none =>
      rw [hpush, Option.getD_none, loseEntry_noJoin _ t rfl] at hu
      exact hu ▸ hnote
/-- The placement of a launch leaves every agent alone. -/
theorem harts_placedAll {s u : State} {l : Nat} {r : Launch} (h : placedAll s l r = some u) : u.harts = s.harts :=
  foldl_bind_keeps State.harts (fun s t v hv => by
    rw [placeTile_eq] at hv
    exact foldl_bind_keeps State.harts (fun _ _ _ => harts_placeOne) hv) h
/-- An easel with room takes an entry at its bottom, and nothing spills (01 R29). -/
theorem placeOne_fits {lk : Nat} {l : Launch} {t n : Nat} {s : State} (hroom : (easelAt s t).resident.length < 32) :
    placeOne lk l t s n = some (modEasel s t (fun q => { q with resident := initialEntry lk l t n :: q.resident })) := by
  have hheld : pushHeld s t (initialEntry lk l t n) = none := by unfold pushHeld; simp only [if_pos hroom]
  have hnote : spillNote s t = s := by unfold spillNote; simp only [if_pos hroom]; split <;> rfl
  have hpush : pushEasel s t (initialEntry lk l t n) =
      some (modEasel s t (fun q => { q with resident := initialEntry lk l t n :: q.resident })) := if_pos hroom
  unfold placeOne
  rw [hheld, hnote, hpush]
  rfl
theorem placedAll_single {s u : State} {l T : Nat} {r : Launch} (h : placedAll s l r = some u) (hrect : rectTiles r.rect = [T]) (hp : r.p = 1)
    (hroom : (easelAt s T).resident.length < 32) : (easelAt u T).resident = initialEntry l r T 0 :: (easelAt s T).resident := by
  have hone : placeTile s l r T = some u := by
    unfold placedAll at h
    rwa [hrect] at h
  rw [placeTile_eq, hp] at hone
  have hu := (placeOne_fits hroom).symm.trans hone
  rw [← Option.some.inj hu, easelAt_modEasel]
/-- The only agent whose LAUNCH waits for a launch's placement is found, with its register. -/
theorem placer_eq {s : State} {l h : Nat} {k : Hart} {rd : Reg} (hk : tfind s.harts h = some k) (hwait : k.wait = .placing l rd)
    (honly : ∀ e ∈ s.harts, (∃ q, e.2.wait = .placing l q) → e.1 = h) : placer s l = some (h, rd) := by
  unfold placer
  generalize s.harts = t at hk honly ⊢
  induction t with
  | nil => cases hk
  | cons e t ih =>
    obtain ⟨j, a⟩ := e
    obtain ⟨hfirst, hrest⟩ := List.forall_mem_cons.1 honly
    rw [tfind] at hk
    by_cases hj : j = h
    · rw [if_pos hj] at hk
      cases hk
      simp [hwait, hj]
    · rw [if_neg hj] at hk
      rw [List.findSome?_cons_of_isNone]
      · exact ih hk hrest
      · split
        · rename_i i q hq
          rw [if_neg]
          · rfl
          · simp only [beq_iff_eq]
            rintro rfl
            exact hj (hfirst ⟨q, hq⟩)
        · rfl
section Placing
variable {l h : Nat} {k : Hart} {rd : Reg} {r : Launch} {s : State} (hr : tfind s.launches l = some r) (hplaced : r.placed = false)
  (hq : Quiet s) (hk : tfind s.harts h = some k) (hwait : k.wait = .placing l rd)
  (honly : ∀ e ∈ s.harts, (∃ q, e.2.wait = .placing l q) → e.1 = h)
include hq hk hwait honly
theorem launchMessage_quiet : launchMessage s l r = (s, true) := by
  unfold launchMessage
  rw [placer_eq hk hwait honly]
  exact flushIf_none (by rw [hq.1]; exact fun r hr => absurd hr List.not_mem_nil)
include hr hplaced
theorem initialPlacement_waits (hnone : placedAll s l r = none) : Idle (.launchInitialPlacement l) s := by
  have hmessage := launchMessage_quiet (r := r) hq hk hwait honly
  refine (exec_launchInitialPlacement s).trans ?_
  unfold placedAll at hnone
  unfold execLaunchInitialPlacement
  simp only [hr, hplaced, hmessage, hnone, Bool.false_eq_true, if_false]
/-- A launch whose initial workgroups are placed. -/
def launchPlaced (l : Launch) : Launch := { l with placed := true }
theorem initialPlacement_answers {u : State} (hu : placedAll s l r = some u) :
    Goes (.launchInitialPlacement l) s (launchAnswer (modLaunch u l launchPlaced) h rd (dw (r.lid * 2 ^ 32))) := by
  have hmessage := launchMessage_quiet (r := r) hq hk hwait honly
  have hharts : (modLaunch u l launchPlaced).harts = s.harts := (modLaunch_harts u l launchPlaced).trans (harts_placedAll hu)
  have hplacer : placer (modLaunch u l launchPlaced) l = some (h, rd) :=
    placer_eq (by rw [hharts]; exact hk) hwait (by rw [hharts]; exact honly)
  refine (exec_launchInitialPlacement s).trans ?_
  unfold placedAll at hu
  unfold execLaunchInitialPlacement
  simp only [hr, hplaced, hmessage, hu, Bool.false_eq_true, if_false]
  unfold launchPlaced at hplacer ⊢
  rw [hplacer]
end Placing
theorem initialPlacement_retires {l h : Nat} {k : Hart} {rd : Reg} {r : Launch} {s u : State} (hr : tfind s.launches l = some r)
    (hplaced : r.placed = false) (hq : Quiet s) (hk : tfind s.harts h = some k) (hwait : k.wait = .placing l rd)
    (honly : ∀ e ∈ s.harts, (∃ q, e.2.wait = .placing l q) → e.1 = h) (hu : placedAll s l r = some u) :
    ∃ t, Goes (.launchInitialPlacement l) s t ∧ (launchAt t l).placed = true ∧
      WroteX k (hartAt t h) rd (BitVec.ofNat 64 (r.lid * 2 ^ 32)) (k.pc + 4) ∧ OnlyHart s t h ∧
      ∀ T, rectTiles r.rect = [T] → r.p = 1 → (easelAt s T).resident.length < 32 →
        (easelAt t T).resident = initialEntry l r T 0 :: (easelAt s T).resident := by
  have hharts : (modLaunch u l launchPlaced).harts = s.harts := (modLaunch_harts u l launchPlaced).trans (harts_placedAll hu)
  have hhart : hartAt (modLaunch u l launchPlaced) h = k := by rw [hartAt, hharts, tget_eq_getD, hk]; rfl
  refine ⟨_, initialPlacement_answers hr hplaced hq hk hwait honly hu, ?_, ?_, onlyHart_modHart hharts h _, ?_⟩
  · exact congrArg Launch.placed (launchAt_modLaunch u l launchPlaced)
  · rw [← hhart]
    exact wroteX_launchAnswer _ h rd _
  · intro T hrect hp hroom
    rw [← placedAll_single hu hrect hp hroom]
    rfl
end Placement

section Completion
theorem fullEmptyWord_of_owned {s : State} {r : Launch} {l : Loc} (h : issuerOwns s r l = true) : FullEmptyWord l := by
  cases l
  case win _ | mbox _ => trivial
  all_goals cases h
theorem dropLaunch_rest (s : State) (l : Nat) : dropLaunch s l = { s with launches := (dropLaunch s l).launches } := by
  unfold dropLaunch
  dsimp only
  split <;> rfl
/-- A launch that runs, or whose headers wait, stays listed (12 R288). -/
theorem dropLaunch_kept {s : State} {l : Nat} (h : (launchAt s l).done = false) : dropLaunch s l = s := by
  unfold dropLaunch
  simp [h]
theorem dropLaunch_dropped {s : State} {l : Nat} (hdone : (launchAt s l).done = true) (hheaders : (launchAt s l).headers = []) :
    tfind (dropLaunch s l).launches l = none := by
  unfold dropLaunch
  simp [hdone, hheaders, tfind_tdel]
/-- A launch that is complete (01 R26). -/
def launchDone (l : Launch) : Launch := { l with done := true }
theorem completeLaunch_waits {l : Nat} {s : State} (howned : issuerOwns s (launchAt s l) (launchAt s l).compl = true)
    (hheld : heldWrite s 0xFFFFFE (launchAt s l).compl 4 = true) : completeLaunch s l = s := by
  unfold completeLaunch
  simp [howned, hheld]
section Complete
variable {l : Nat} {s : State} (hfinished : launchFinished s l = true)
include hfinished
theorem completeLaunch_owned (howned : issuerOwns s (launchAt s l) (launchAt s l).compl = true)
    (hfree : heldWrite s 0xFFFFFE (launchAt s l).compl 4 = false) :
    completeLaunch s l = dropLaunch (modLaunch (setFullWrite s (launchAt s l).compl (statusWord (launchAt s l))) l launchDone) l := by
  unfold completeLaunch
  simp only [hfinished, howned, hfree, Bool.not_true, Bool.and_false, Bool.or_self, Bool.false_eq_true, if_false, if_true]
  rfl
theorem completeLaunch_left (hleft : issuerOwns s (launchAt s l) (launchAt s l).compl = false) :
    completeLaunch s l = dropLaunch (modLaunch s l launchDone) l := by
  unfold completeLaunch
  simp only [hfinished, hleft, Bool.not_true, Bool.false_and, Bool.or_self, Bool.false_eq_true, if_false]
  rfl
theorem launchComplete_writes (howned : issuerOwns s (launchAt s l) (launchAt s l).compl = true)
    (hpark : NoneParked s (launchAt s l).compl) (hfree : heldWrite s 0xFFFFFE (launchAt s l).compl 4 = false) :
    ∃ t, Goes (.launchComplete l) s t ∧ FilledWord s t (launchAt s l).compl (statusWord (launchAt s l)) ∧ t.harts = s.harts ∧
      ((launchAt s l).headers = [] → tfind t.launches l = none) := by
  refine ⟨_, congrArg Host.Outcome.next (completeLaunch_owned hfinished howned hfree), ?_⟩
  rw [setFullWrite_noneParked hpark]
  refine ⟨?_, by rw [dropLaunch_rest]; rfl, fun hheaders => ?_⟩
  · refine filledWord_of_filledMem (fullEmptyWord_of_owned howned) ?_ ?_ <;> rw [dropLaunch_rest] <;> rfl
  · have hlaunch := launchAt_modLaunch (modMem s (fun m => filledMem m (launchAt s l).compl (statusWord (launchAt s l)))) l launchDone
    exact dropLaunch_dropped (by rw [hlaunch]; rfl) (by rw [hlaunch]; exact hheaders)
end Complete
/-- A launch whose oldest header has gone (12 R288). -/
def headerGone (rest : List (Nat × Word)) (l : Launch) : Launch := { l with headers := rest }
section Headers
variable {l n : Nat} {w : Word} {rest : List (Nat × Word)} {s : State} (hlisted : (tfind s.launches l).isSome)
  (hheaders : (launchAt s l).headers = (n, w) :: rest) (hrec : (launchAt s l).records = [])
include hlisted hheaders hrec
theorem mboxHeaderWrite_eq : exec (.mboxHeaderWrite l) s = .next
    (if issuerOwns s (launchAt s l) (launchAt s l).mbox = false then dropLaunch (modLaunch s l (headerGone rest)) l
     else if (isFull s.mem (launchAt s l).mbox || heldWrite s 0xFFFFFE (launchAt s l).mbox 4 || messageBefore s (launchAt s l).mbox n) = true
     then s else dropLaunch (modLaunch (setFullWrite s (launchAt s l).mbox w) l (headerGone rest)) l) := by
  have hfind : tfind s.launches l = some (launchAt s l) := by
    obtain ⟨r, hr⟩ := Option.isSome_iff_exists.1 hlisted
    rw [launchAt, tget_eq_getD, hr]
    rfl
  refine (exec_mboxHeaderWrite s).trans ?_
  unfold execMboxHeaderWrite
  simp only [hrec, List.length_nil, postRecords, hfind, hheaders, Bool.not_eq_true']
  split
  · rfl
  · split <;> rfl
theorem mboxHeaderWrite_waits (howned : issuerOwns s (launchAt s l) (launchAt s l).mbox = true)
    (hbusy : isFull s.mem (launchAt s l).mbox = true ∨ messageBefore s (launchAt s l).mbox n = true) : Idle (.mboxHeaderWrite l) s := by
  refine (mboxHeaderWrite_eq hlisted hheaders hrec).trans ?_
  rw [if_neg (by simp [howned]), if_pos]
  rcases hbusy with h | h <;> simp [h]
section Running
variable (hdone : (launchAt s l).done = false)
include hdone
theorem mboxHeaderWrite_writes (howned : issuerOwns s (launchAt s l) (launchAt s l).mbox = true)
    (hempty : isFull s.mem (launchAt s l).mbox = false) (hfree : heldWrite s 0xFFFFFE (launchAt s l).mbox 4 = false)
    (hpark : NoneParked s (launchAt s l).mbox) (hfirst : messageBefore s (launchAt s l).mbox n = false) :
    ∃ t, Goes (.mboxHeaderWrite l) s t ∧ FilledWord s t (launchAt s l).mbox w ∧ (launchAt t l).headers = rest := by
  have hgoes := mboxHeaderWrite_eq hlisted hheaders hrec
  rw [if_neg (by simp [howned]), if_neg (by simp [hempty, hfree, hfirst]), setFullWrite_noneParked hpark] at hgoes
  have hlaunch := launchAt_modLaunch (modMem s (fun m => filledMem m (launchAt s l).mbox w)) l (headerGone rest)
  rw [dropLaunch_kept (by rw [hlaunch]; exact hdone)] at hgoes
  exact ⟨_, hgoes, filledWord_of_filledMem (fullEmptyWord_of_owned howned) rfl rfl, by rw [hlaunch]; rfl⟩
theorem mboxHeaderWrite_left (hleft : issuerOwns s (launchAt s l) (launchAt s l).mbox = false) :
    ∃ t, Goes (.mboxHeaderWrite l) s t ∧ (launchAt t l).headers = rest ∧ t.mem = s.mem := by
  have hgoes := mboxHeaderWrite_eq hlisted hheaders hrec
  have hlaunch := launchAt_modLaunch s l (headerGone rest)
  rw [if_pos hleft, dropLaunch_kept (by rw [hlaunch]; exact hdone)] at hgoes
  exact ⟨_, hgoes, by rw [hlaunch]; rfl, rfl⟩
end Running
end Headers
end Completion

section LaunchesRun
/-- Settles O46: the checks, the placement, the completion and the headers, each from the rule of its operation. -/
theorem launchesRunTheirCourse : Obligations.LaunchesRunTheirCourse := by
  refine ⟨fun p e rest s hnext => ⟨fun n h => ?_, fun h => ?_, fun s' d ks h => ⟨fun hsplits => ?_, fun c m w t hpass => ?_⟩⟩,
    fun l h k rd r s hr hplaced hq hk hwait honly => ⟨initialPlacement_waits hr hplaced hq hk hwait honly, fun hsome => ?_⟩,
    fun l s hfinished => ⟨launchComplete_writes hfinished,
      fun howned hheld => congrArg Host.Outcome.next (completeLaunch_waits howned hheld), fun hleft => ?_⟩,
    fun l n w rest s hlisted hheaders hrec hdone => ⟨mboxHeaderWrite_writes hlisted hheaders hrec hdone,
      mboxHeaderWrite_waits hlisted hheaders hrec, mboxHeaderWrite_left hlisted hheaders hrec hdone⟩⟩
  · refine ⟨_, congrArg Host.Outcome.next (launchCheck_status hnext h), ?_, wroteX_launchAnswer _ e.hart e.rd _,
      onlyHart_modHart rfl e.hart _, fun _ _ => rfl⟩
    exact seqQ_popped s p rest
  · exact ⟨_, congrArg Host.Outcome.next (launchCheck_held hnext h), rfl, hartAt_modHart s e.hart _, onlyHart_modHart rfl e.hart _⟩
  · refine ⟨_, congrArg Host.Outcome.next ((launchCheck_passed hnext h).trans ?_), wroteX_launchAnswer _ e.hart e.rd 5⟩
    rw [launchFinish_splits e.hart p e.rd ks hsplits]
    rfl
  · obtain ⟨u, hgoes, hnextLaunch, hhart, hlaunch, hids⟩ := launchCheck_begins hnext h hpass
    obtain ⟨hunused, hfirst⟩ := freeLid_unused h hpass
    have hlid : (launchAt u t.nextLaunch).lid = freeLid t p := by rw [hlaunch]; rfl
    refine ⟨u, hgoes, hnextLaunch, hhart, ?_⟩
    dsimp only
    rw [hlid]
    refine ⟨fun j hj hpid hrun hsame => hunused (mem_takenIds.2 ⟨j, hj, hpid, hrun, hsame⟩), hids, fun hnone hlt => ?_, ?_⟩
    · refine hfirst (fun htaken => ?_) hlt
      obtain ⟨j, hj, hpid, hrun, hsame⟩ := mem_takenIds.1 htaken
      exact hnone j hj hpid hrun hsame
    · rw [hlaunch]
      exact ⟨rfl, rfl, rfl, rfl, rfl, rfl, rfl, rfl⟩
  · obtain ⟨u, hu⟩ := Option.isSome_iff_exists.1 hsome
    obtain ⟨t, hgoes, hdone, hwrote, hothers, heasel⟩ := initialPlacement_retires hr hplaced hq hk hwait honly hu
    refine ⟨t, hgoes, hdone, hwrote, hothers, fun T hrect hp hroom => ?_⟩
    rw [heasel T hrect hp hroom, initialEntry, hp]
    rfl
  · refine ⟨_, congrArg Host.Outcome.next (completeLaunch_left hfinished hleft), ?_⟩
    rw [dropLaunch_rest]
    rfl
end LaunchesRun
end Sys2Proof.Execution

namespace Sys2Proof.Csrs
open Sys2Proof Sys2Proof.Machine Sys2Proof.Laws Sys2Proof.Claims

/-! Zicsr in a group (02 R47, R54–R62; 05 R129): the common frame, the gates that forbid, and the writes of LFRM and MSP. -/

section CommonFrame
variable {bits : DWord} {o : CsrOp} {rd : Reg} {regs : List Reg} {csr : BitVec 12} {src : Hart → DWord} {write : Bool} {s : State} {m : Nat}

/-- A group's CSR instruction whose gate refuses it. -/
theorem csrOp_illegal (hgroup : IsGroup s) (hgate : csrGate (curHart s) csr.toNat write = .illegal) :
    csrOp bits o rd regs csr src write s = .next (trapCur s (illegal bits)) := by
  have htask : (curHart s).tasklet = false := hgroup
  unfold csrOp
  rw [scalar_runs (fun h => by rw [htask] at h; cases h)]
  simp only [htask, hgate, Bool.false_eq_true, if_false]
/-- One whose gate admits it, and whose value its register takes. -/
theorem csrOp_pass (hgroup : IsGroup s) (hgate : csrGate (curHart s) csr.toNat write = .pass m)
    (hvalue : write = true → csrBad s (curHart s) m (csrNew o (csrOld s (curHart s) m) (src (curHart s))) = false) :
    csrOp bits o rd regs csr src write s = .next (csrDone s rd m (csrRead s (curHart s) m)
      (if write then some (csrNew o (csrOld s (curHart s) m) (src (curHart s))) else none)) := by
  have htask : (curHart s).tasklet = false := hgroup
  unfold csrOp
  rw [scalar_runs (fun h => by rw [htask] at h; cases h)]
  cases write
  · simp only [htask, hgate, Bool.false_and, Bool.false_eq_true, if_false]
  · simp only [htask, hgate, hvalue rfl, Bool.and_false, Bool.false_eq_true, if_false]
/-- One whose gate admits it, and whose value its register refuses. -/
theorem csrOp_bad (hgroup : IsGroup s) (hgate : csrGate (curHart s) csr.toNat true = .pass m)
    (hvalue : csrBad s (curHart s) m (csrNew o (csrOld s (curHart s) m) (src (curHart s))) = true) :
    csrOp bits o rd regs csr src true s = .next (trapCur s (illegal bits)) := by
  have htask : (curHart s).tasklet = false := hgroup
  unfold csrOp
  rw [scalar_runs (fun h => by rw [htask] at h; cases h)]
  simp only [htask, hgate, hvalue, Bool.and_true, Bool.false_eq_true, if_false, if_true]
end CommonFrame

section Tables
theorem bne_zero_eq_decide {n : Nat} (a : BitVec n) : (a != 0) = decide (a ≠ 0) := by rw [Bool.eq_iff_iff]; simp
/-- Every form with a register operand runs the common frame with its own operation. -/
theorem exec_csrTable {e : (Reg → Reg → BitVec 12 → Instr) × (DWord → DWord → DWord) × Bool} (he : e ∈ csrTable) :
    ∃ o, csrNew o = e.2.1 ∧ ∀ rd rs1 csr s, exec (e.1 rd rs1 csr) s =
      csrOp (insnBits (e.1 rd rs1 csr)) o rd [rd, rs1] csr (fun h => h.getX rs1) (e.2.2 || decide (rs1 ≠ 0)) s := by
  simp only [csrTable, List.mem_cons, List.not_mem_nil, or_false] at he
  obtain rfl | rfl | rfl := he
  · exact ⟨.rw, rfl, fun _ _ _ _ => rfl⟩
  · refine ⟨.rs, rfl, fun rd rs1 csr s => ?_⟩
    rw [exec_csrrs, execCsrrs, bne_zero_eq_decide, Bool.false_or]
  · refine ⟨.rc, rfl, fun rd rs1 csr s => ?_⟩
    rw [exec_csrrc, execCsrrc, bne_zero_eq_decide, Bool.false_or]
/-- So does every form with an immediate operand. -/
theorem exec_csriTable {e : (Reg → BitVec 5 → BitVec 12 → Instr) × (DWord → DWord → DWord) × Bool} (he : e ∈ csriTable) :
    ∃ o, csrNew o = e.2.1 ∧ ∀ rd u csr s, exec (e.1 rd u csr) s =
      csrOp (insnBits (e.1 rd u csr)) o rd [rd] csr (fun _ => u.setWidth 64) (e.2.2 || decide (u ≠ 0)) s := by
  simp only [csriTable, List.mem_cons, List.not_mem_nil, or_false] at he
  obtain rfl | rfl | rfl := he
  · exact ⟨.rw, rfl, fun _ _ _ _ => rfl⟩
  · refine ⟨.rs, rfl, fun rd u csr s => ?_⟩
    rw [exec_csrrsi, execCsrrsi, bne_zero_eq_decide, Bool.false_or]
  · refine ⟨.rc, rfl, fun rd u csr s => ?_⟩
    rw [exec_csrrci, execCsrrci, bne_zero_eq_decide, Bool.false_or]
end Tables

section Completion
/-- A retirement that writes x[rd] is the whole effect of an access that only reads. -/
theorem retires_retireX {i : Instr} {s : State} {rd : Reg} {v : DWord} (hexec : exec i s = .next (retireX s rd v)) :
    Retires i s s rd v (pcOf s + 4) := by
  refine ⟨_, hexec, ⟨rfl, fun k hk => hartAt_modCur_ne s _ hk, fun _ _ => rfl⟩, fun q => getX_retireX s rd v q, ?_⟩
  rw [curHart_retireX]
  unfold Hart.setX
  split <;> rfl
/-- What the common frame makes of an access that its gate admits (02 R55–R62). -/
theorem csrCompletes_csrOp {i : Instr} {o : CsrOp} {s : State} {rd : Reg} {regs : List Reg} {csr : BitVec 12} {src : Hart → DWord}
    {write : Bool} (hgroup : IsGroup s) (hexec : exec i s = csrOp (insnBits i) o rd regs csr src write s) :
    CsrCompletes i s rd csr write (fun old => csrNew o old (src (curHart s))) := by
  intro m hgate
  refine ⟨fun hread => ?_, fun hwrite hok => ?_, fun hwrite hbad => ?_⟩
  · subst hread
    exact retires_retireX (hexec.trans (csrOp_pass hgroup hgate (fun h => by cases h)))
  · subst hwrite
    exact hexec.trans (csrOp_pass hgroup hgate (fun _ => hok))
  · subst hwrite
    exact hexec.trans (csrOp_bad hgroup hgate hbad)
theorem csrAccessesComplete : CsrAccessesComplete := by
  refine ⟨fun e he rd rs1 csr s hgroup => ?_, fun e he rd u csr s hgroup => ?_⟩
  · obtain ⟨o, hnew, hexec⟩ := exec_csrTable he
    rw [← hnew]
    exact csrCompletes_csrOp hgroup (hexec rd rs1 csr s)
  · obtain ⟨o, hnew, hexec⟩ := exec_csriTable he
    rw [← hnew]
    exact csrCompletes_csrOp hgroup (hexec rd u csr s)
end Completion

section Forbidden
/-- PW, 0x808, is a tasklet's register alone (02 R60), so no group reaches an unassigned number. -/
theorem solGate_unassigned (h : Hart) {n : Nat} (hn : ¬ assignedCsr n) : solGate h n = .illegal := by
  unfold assignedCsr at hn
  have huser : solUser n = true → n = 0x808 := by simp only [solUser, Bool.or_eq_true, decide_eq_true_eq]; omega
  have hsup : solSup n = false := by simp only [solSup, decide_eq_false_iff_not]; omega
  have hhyp : solHyp n = false := by simp only [solHyp, decide_eq_false_iff_not]; omega
  have hmach : solMach n = false := by simp only [solMach, decide_eq_false_iff_not]; omega
  unfold solGate
  split
  · rw [if_pos (huser ‹_›)]
  · simp only [hsup, hhyp, hmach, Bool.false_eq_true, if_false]
theorem solGate_belowMachine {h : Hart} {n : Nat} (hn : 0x7C0 ≤ n ∧ n ≤ 0x7FF) (hpriv : h.priv ≠ .m) : solGate h n = .illegal := by
  have huser : solUser n = false := by simp only [solUser, Bool.or_eq_false_iff, decide_eq_false_iff_not]; omega
  have hsup : solSup n = false := by simp only [solSup, decide_eq_false_iff_not]; omega
  have hhyp : solHyp n = false := by simp only [solHyp, decide_eq_false_iff_not]; omega
  unfold solGate
  simp [huser, hsup, hhyp, hpriv]
theorem solGate_fromUser {h : Hart} {n : Nat} (hn : (0x5C0 ≤ n ∧ n ≤ 0x5FF) ∨ (0x6C0 ≤ n ∧ n ≤ 0x6FF)) (hpriv : h.priv = .u) :
    solGate h n = .illegal := by
  have huser : solUser n = false := by simp only [solUser, Bool.or_eq_false_iff, decide_eq_false_iff_not]; omega
  have hmach : solMach n = false := by simp only [solMach, decide_eq_false_iff_not]; omega
  unfold solGate
  simp [huser, hmach, hpriv]
theorem solRange_of_solingCsr {n : Nat} (h : solingCsr n) : solRange n = true := by
  unfold solingCsr at h
  simp only [solRange, Bool.or_eq_true, decide_eq_true_eq]
  omega
/-- A gate of the Soling ranges that refuses an access refuses it for reading and for writing. -/
theorem csrGate_of_solGate {h : Hart} {n : Nat} (hrange : solingCsr n) (hgate : solGate h n = .illegal) (write : Bool) :
    csrGate h n write = .illegal := by
  unfold csrGate
  rw [solRange_of_solingCsr hrange, hgate]
  split <;> rfl
theorem csrGate_forbidden {s : State} {n : Nat} (h : CsrForbidden s n) (write : Bool) : csrGate (curHart s) n write = .illegal := by
  obtain ⟨hrange, hn⟩ | ⟨hlow, hhigh, hpriv⟩ | ⟨hn, hpriv⟩ := h
  · exact csrGate_of_solGate hrange (solGate_unassigned _ hn) write
  · exact csrGate_of_solGate (by unfold solingCsr; omega) (solGate_belowMachine ⟨hlow, hhigh⟩ hpriv) write
  · exact csrGate_of_solGate (by unfold solingCsr; omega) (solGate_fromUser hn hpriv) write
/-- Numbers whose bits 11:10 are 3 are read-only (02 R56). -/
theorem csrGate_readOnly (h : Hart) {n : Nat} (hn : 0xCC0 ≤ n ∧ n ≤ 0xCFF) : csrGate h n true = .illegal := by
  have hro : n / 0x400 = 3 := by omega
  simp [csrGate, hro]
theorem csrGate_refuses {s : State} {n : Nat} {write : Bool}
    (h : CsrForbidden s n ∨ (0xCC0 ≤ n ∧ n ≤ 0xCFF ∧ write = true)) : csrGate (curHart s) n write = .illegal := by
  obtain hforbidden | ⟨hlow, hhigh, rfl⟩ := h
  · exact csrGate_forbidden hforbidden write
  · exact csrGate_readOnly _ ⟨hlow, hhigh⟩
theorem forbiddenCsrAccessesTrap : ForbiddenCsrAccessesTrap := by
  refine ⟨fun e he rd rs1 csr s hgroup h => ?_, fun e he rd u csr s hgroup h => ?_⟩
  · obtain ⟨o, -, hexec⟩ := exec_csrTable he
    exact (hexec rd rs1 csr s).trans (csrOp_illegal hgroup (csrGate_refuses (by simpa using h)))
  · obtain ⟨o, -, hexec⟩ := exec_csriTable he
    exact (hexec rd u csr s).trans (csrOp_illegal hgroup (csrGate_refuses (by simpa using h)))
end Forbidden

section LaneRegisters
theorem setX_mstk (h : Hart) (r : Reg) (v : DWord) : (h.setX r v).mstk = h.mstk := by unfold Hart.setX; split <;> rfl
/-- A new depth clears the mask stack from it upward (02 R47). -/
theorem getS_setMsp (h : Hart) (d e : Nat) : (setMsp h d).getS e = if e < d then h.getS e else 0 := by
  unfold Hart.getS setMsp
  simp only [tget_tfilter, decide_eq_true_eq]
theorem csrWrite_msp (s : State) (k : Nat) (v : DWord) : csrWrite s k 0x801 v = modHart s k (fun h => setMsp h (bitsOf v 0 5)) := rfl
theorem csrWrite_lfrm (s : State) (k : Nat) (v : DWord) : csrWrite s k 0x802 v = modHart s k (fun h => h.setC 0x802 (v &&& 7)) := rfl
theorem csrBad_msp (s : State) (h : Hart) (v : DWord) : csrBad s h 0x801 v = decide (16 < v.toNat % 32) := by
  simp [csrBad, bitsOf, field]
theorem csrBad_lfrm (s : State) (h : Hart) (v : DWord) : csrBad s h 0x802 v = decide (4 < v.toNat % 8) := by
  simp [csrBad, bitsOf, field]
theorem csrGate_msp (h : Hart) : csrGate h (0x801#12).toNat true = .pass 0x801 := rfl
theorem csrGate_lfrm (h : Hart) : csrGate h (0x802#12).toNat true = .pass 0x802 := rfl
theorem bitsOf_msp (v : DWord) : bitsOf v 0 5 = v.toNat % 32 := by simp [bitsOf, field]
theorem low3_eq (v : DWord) : v &&& 7 = BitVec.ofNat 64 (v.toNat % 8) := by
  apply BitVec.eq_of_toNat_eq
  have hmask := Nat.and_two_pow_sub_one_eq_mod v.toNat 3
  have hlt : v.toNat % 8 < 2 ^ 64 := by omega
  rw [BitVec.toNat_and, BitVec.toNat_ofNat, Nat.mod_eq_of_lt hlt]
  exact hmask

variable {s : State} {rd rs1 : Reg}
/-- A CSRRW whose value its register takes leaves the group as the write of that register makes it, after its retirement. -/
theorem csrrw_writes {csr : BitVec 12} {m : Nat} {f : Hart → Hart} (hgroup : IsGroup s)
    (hgate : csrGate (curHart s) csr.toNat true = .pass m) (hok : csrBad s (curHart s) m (xs s rs1) = false) (hpc : m ≠ 0x800)
    (hwrite : ∀ t : State, csrWrite t s.cur m (xs s rs1) = modHart t s.cur f) :
    ∃ t v, exec (.csrrw rd rs1 csr) s = .next t ∧ curHart t = f (retireHart ((curHart s).setX rd v)) := by
  refine ⟨_, csrRead s (curHart s) m, (exec_csrrw s).trans (csrOp_pass hgroup hgate (fun _ => hok)), ?_⟩
  have htrace : csrTrace s m (xs s rs1) = s := if_neg hpc
  show curHart (csrWrite (retireX (csrTrace s m (xs s rs1)) rd _) s.cur m (xs s rs1)) = _
  rw [htrace, hwrite]
  exact (curHart_modCur (retireX s rd _) f).trans (congrArg f (curHart_retireX s rd _))
/-- One whose value its register refuses does nothing but trap. -/
theorem csrrw_refused {csr : BitVec 12} {m : Nat} (hgroup : IsGroup s) (hgate : csrGate (curHart s) csr.toNat true = .pass m)
    (hbad : csrBad s (curHart s) m (xs s rs1) = true) :
    exec (.csrrw rd rs1 csr) s = .next (trapCur s (illegal (insnBits (.csrrw rd rs1 csr)))) :=
  (exec_csrrw s).trans (csrOp_bad hgroup hgate hbad)
/-- MSP_WRITE of a depth that MSP may hold, and of another (02 R47). -/
theorem execMspWrite_ok (hgroup : IsGroup s) {w : DWord} (hok : w.toNat % 32 ≤ 16) :
    execMspWrite w s = .next (modCur s (fun h => setMsp h (w.toNat % 32))) := by
  have htask : (curHart s).tasklet = false := hgroup
  have hvalue : csrBad s (curHart s) 0x801 w = false := by rw [csrBad_msp]; simpa using hok
  simp only [execMspWrite, htask, hvalue, csrWrite_msp, bitsOf_msp, Bool.false_eq_true, if_false]
  rfl
theorem execMspWrite_bad (hgroup : IsGroup s) {w : DWord} (hbad : 16 < w.toNat % 32) :
    execMspWrite w s = .next (trapCur s (illegal (insnAt s (curHart s)))) := by
  have htask : (curHart s).tasklet = false := hgroup
  have hvalue : csrBad s (curHart s) 0x801 w = true := by rw [csrBad_msp]; simpa using hbad
  simp only [execMspWrite, htask, hvalue, Bool.false_eq_true, if_false, if_true]
theorem laneCsrWritesAreChecked : LaneCsrWritesAreChecked := by
  intro rd rs1 s hgroup
  refine ⟨fun hok => ?lfrm, fun hbad => ?lfrmBad, fun hok => ?msp, fun hbad => ?mspBad, fun w => ⟨fun hok => ?op, fun hbad => ?opBad⟩⟩
  case lfrm =>
    obtain ⟨t, v, hexec, hhart⟩ := csrrw_writes (rd := rd) (rs1 := rs1) hgroup (csrGate_lfrm _)
      (by rw [csrBad_lfrm]; simpa using hok) (by decide) (fun t => csrWrite_lfrm t _ _)
    have hkeeps : ∀ n, (retireHart ((curHart s).setX rd v)).getC n = (curHart s).getC n := fun n => by
      rw [retireHart_getC, Hart.getC, setX_csr, Hart.getC]
    refine ⟨t, hexec, ?_, fun n hn => ?_⟩
    · rw [hhart, getC_setC, if_pos rfl, low3_eq]
    · rw [hhart, getC_setC, if_neg (Ne.symm hn), hkeeps]
  case lfrmBad => exact csrrw_refused hgroup (csrGate_lfrm _) (by rw [csrBad_lfrm]; simpa using hbad)
  case msp =>
    obtain ⟨t, v, hexec, hhart⟩ := csrrw_writes (rd := rd) (rs1 := rs1) hgroup (csrGate_msp _)
      (by rw [csrBad_msp]; simpa using hok) (by decide) (fun t => csrWrite_msp t _ _)
    have hkeeps : ∀ e, (retireHart ((curHart s).setX rd v)).getS e = (curHart s).getS e := fun e =>
      congrArg (tget 0 · e) (setX_mstk (curHart s) rd v)
    rw [bitsOf_msp] at hhart
    refine ⟨t, hexec, by rw [hhart]; rfl, fun e => ?_⟩
    rw [hhart, getS_setMsp, hkeeps]
  case mspBad => exact csrrw_refused hgroup (csrGate_msp _) (by rw [csrBad_msp]; simpa using hbad)
  case op =>
    refine ⟨_, execMspWrite_ok hgroup hok, ?_⟩
    rw [curHart_modCur]
    exact ⟨rfl, rfl, fun e => getS_setMsp _ _ e⟩
  case opBad => exact execMspWrite_bad hgroup hbad
end LaneRegisters

/-- Settles O9: the common frame of Zicsr under its gates, and the writes of LFRM and MSP that it and MSP_WRITE perform. -/
theorem csrAccessesFollowTheirRules : Obligations.CsrAccessesFollowTheirRules :=
  ⟨csrAccessesComplete, forbiddenCsrAccessesTrap, laneCsrWritesAreChecked⟩

end Sys2Proof.Csrs

namespace Sys2Proof.Copies
open Sys2Proof Sys2Proof.Machine Sys2Proof.Laws Sys2Proof.Claims

/-! The end of a streamer copy (07 R176, R186): what it does to bytes of memory where writes are on their way. -/

section ReleasedWaiters
/-- What COPY_COMPLETE answers for a finished copy (07 R186). -/
theorem execCopyComplete_finished {s : State} {k : Nat} {c : Copy} (hc : tfind s.copies k = some c) (hdone : copyFinished s k c = true) :
    execCopyComplete k s = .next (count (detachCopy s k) 4 (k / 64) 0 1 1) := by
  simp only [execCopyComplete, hc, hdone, if_true]
/-- A copy of one row that is written whole and counts in the phase of barrier 0 of workgroup 1. -/
def writtenCopy : Copy :=
  { src := 0x2000, dst := 0x3000, shape := 0x1000040, wg := 1, lkey := 1, started := true, ownRow := 1, row := 1 }
/-- Groups 0 and 1 of tile 0 have arrived at a barrier whose phase lacks the end of one copy alone (07 R176). Group 0 waits; group 1 went on,
stored a word of the scratchpad and released that store at core scope: it still travels, and group 0 has yet to acquire it (04 R97, R99). -/
def lastCopyState : State :=
  { harts := [(0, { run := .waitSync, wait := .bar 0 false, wg := 1, lkey := 1 }), (1, { run := .ready, slot := 1, rank := 1, wg := 1, lkey := 1 })],
    wgs := [(1, { lkey := 1, size := 2, bankCount := 1, nbars := 1, bars := [(0, { expected := 2, arrived := 2, copies := 1 })],
                  members := [(0, 0), (1, 1)] })],
    launches := [(1, { placed := true, liveWgs := 1 })], bankOwner := [(0, 1)], copies := [(0, writtenCopy)],
    mem := { open_ := [(0, true)], net := [{ agent := 1, loc := .win 0, data := 1, lkey := 1, mode := 2, released := true }] } }
/-- The end of the copy releases group 0, whose wait is an acquire: the store that it obtains is performed. -/
theorem lastCopy_performsReleasedStore :
    readBytes lastCopyState.mem (.win 0) 1 = [0] ∧ readBytes (detachCopy lastCopyState 0).mem (.win 0) 1 = [1] := by decide +kernel
/-- Refutes O52: COPY_COMPLETE does not keep every byte as it was where writes are on their way. In `lastCopyState` the copy's end completes
its barrier's phase, and the acquire of the waiter that this releases brings another group's released store into home order. The statement
asks that nothing is on its way (`Quiet`) for the waiters' retirement alone, and not for its claim on bytes. -/
theorem not_copiesMoveAndEnd : ¬ Obligations.CopiesMoveAndEnd := by
  intro h
  obtain ⟨-, -, -, -, hcomplete, -⟩ := h
  have hfinished : copyFinished lastCopyState 0 writtenCopy = true := by decide +kernel
  obtain ⟨t, hgoes, -, -, hsame⟩ := (hcomplete 0 writtenCopy lastCopyState rfl).1 hfinished rfl
  have ht : t = count (detachCopy lastCopyState 0) 4 (0 / 64) 0 1 1 :=
    (Host.Outcome.next.inj ((execCopyComplete_finished rfl hfinished).symm.trans hgoes)).symm
  obtain ⟨hbefore, hafter⟩ := lastCopy_performsReleasedStore
  have hbytes := hsame (.win 0) 1
  rw [ht, count_mem, hbefore, hafter] at hbytes
  exact absurd hbytes (by decide)
end ReleasedWaiters

end Sys2Proof.Copies

namespace Sys2Proof.Control
open Sys2Proof Sys2Proof.Machine Sys2Proof.Laws Sys2Proof.Claims

/-! Scalar control (06 R143–R161): masks and the mask stack, the batches that join the lane queue, and the work that a group starts. -/

section Frame
/-- The scalar frame runs whatever a group executes. -/
theorem scalar_group {bits : DWord} {allowed : Bool} {regs : List Reg} {s : State} {f : Hart → State} (hg : IsGroup s) :
    scalar bits allowed regs s f = .next (f (curHart s)) :=
  scalar_runs fun h => Bool.noConfusion (h.symm.trans hg)
/-- A retirement changes the current agent alone. -/
theorem onlyCur_retireCur (s : State) (h : Hart) : OnlyCur s (retireCur s h) :=
  ⟨rfl, fun _ hk => hartAt_setCur_ne s _ hk, fun _ _ => rfl⟩
/-- Outside CSRs, the lane pc, the mode and the pc a group's trap changes nothing, where it stops no lane full-empty instruction and no
CPY (12 R274, R275). -/
theorem trapKeeps_trapCur {s : State} (hp : Plain s) (t : Trap) : TrapKeeps (curHart s) (curHart (trapCur s t)) := by
  obtain ⟨hgroup, hfe, hcopy⟩ := hp
  intro hpend
  have hentered := enterTrap_rest (curHart s) t (excTarget (curHart s) t.cause) none
  have hafter : curHart (trapCur s t) = { enterTrap (curHart s) t (excTarget (curHart s) t.cause) none with
      laneQ := [], laneWait := .nothing, iss := {}, wait := .nothing, run := .ready, pauseTo := 0, bounces := 0, indiv := false } := by
    rw [trapCur_group hgroup, takeTrap, curHart, takeTrapAt_cur _ _ _ hcopy, takeTrapAt_hart _ _ _ hpend hfe hcopy]
    rfl
  rw [hafter]
  exact ⟨fun q => (congrArg (fun g => Hart.getX g q) hentered :), (congrArg Hart.v hentered :), (congrArg Hart.em hentered :),
    (congrArg Hart.m hentered :), (congrArg Hart.mstk hentered :), (congrArg Hart.msp hentered :), (congrArg Hart.limbs hentered :),
    (congrArg Hart.instret hentered :)⟩
end Frame

section MaskRegisters
theorem getS_setS (h : Hart) (e : Nat) (v : Mask) (q : Nat) : (h.setS e v).getS q = if e = q then v else h.getS q :=
  tget_tset 0 _ e v q
@[simp] theorem setM_mstk (h : Hart) (n : Nat) (v : Mask) : (h.setM n v).mstk = h.mstk := by unfold Hart.setM; split <;> rfl
@[simp] theorem setM_msp (h : Hart) (n : Nat) (v : Mask) : (h.setM n v).msp = h.msp := by unfold Hart.setM; split <;> rfl
/-- The mask stack after an MPOP of entry e into a mask. -/
theorem getS_popped (h : Hart) (e n : Nat) (v : Mask) (q : Nat) :
    (retireHart ({ h.setS e 0 with msp := e }.setM n v)).getS q = if e = q then 0 else h.getS q := by
  have hstack : (retireHart ({ h.setS e 0 with msp := e }.setM n v)).mstk = (h.setS e 0).mstk := setM_mstk _ _ _
  exact (congrArg (fun t => tget 0 t q) hstack).trans (getS_setS h e 0 q)
/-- A retirement that writes one mask, and one that writes one entry of the mask stack with MSP. -/
theorem wroteM_retireHart (h : Hart) (n : Nat) (v : Mask) : WroteM h (retireHart (h.setM n v)) n v := by
  refine ⟨fun q => ?_, ?_⟩
  · simp only [eq_comm (a := q)]
    exact getM_setM h n v q
  · unfold Hart.setM
    split <;> rfl
theorem wroteS_retireHart (h : Hart) (e : Nat) (v : Mask) (d : Nat) : WroteS h (retireHart { h.setS e v with msp := d }) e v d := by
  refine ⟨fun q => ?_, rfl⟩
  simp only [eq_comm (a := q)]
  exact getS_setS h e v q
end MaskRegisters

section Segments
/-- How many bits of segment j are 1. -/
def segOnes (limbs : Nat) (m : Mask) (j : Nat) : Nat := ((List.range limbs).filter (fun i => m.getLsbD (j * limbs + i))).length
/-- A segment is partly active where it has ones and zeros (06 R150). -/
theorem mixed_iff (limbs : Nat) (m : Mask) (j : Nat) : Mixed limbs m j ↔ segOnes limbs m j ≠ 0 ∧ segOnes limbs m j ≠ limbs := by
  have hone : segOnes limbs m j ≠ 0 ↔ ∃ i < limbs, m.getLsbD (j * limbs + i) = true := by
    simp [segOnes, List.filter_eq_nil_iff]
  have hzero : segOnes limbs m j ≠ limbs ↔ ∃ i < limbs, m.getLsbD (j * limbs + i) = false := by
    have hall := List.length_filter_eq_length_iff (p := fun i => m.getLsbD (j * limbs + i)) (l := List.range limbs)
    rw [List.length_range] at hall
    rw [Ne, segOnes, hall]
    simp
  rw [hone, hzero, Mixed]
theorem partialSeg_eq {limbs : Nat} (hl : limbs ≠ 0) (m : Mask) :
    partialSeg limbs m = (List.range (128 / limbs)).find? (fun j => segOnes limbs m j != 0 && segOnes limbs m j != limbs) :=
  if_neg hl
theorem partialSeg_whole {limbs : Nat} {m : Mask} (h : Whole limbs m) : partialSeg limbs m = none := by
  by_cases hl : limbs = 0
  · exact if_pos hl
  · rw [partialSeg_eq hl, List.find?_eq_none]
    intro j hj hmixed
    refine h.resolve_left hl j (List.mem_range.1 hj) ((mixed_iff limbs m j).2 ?_)
    simpa using hmixed
/-- The segment that a check of EM names is the lowest one that is partly active. -/
theorem partialSeg_lowest {limbs : Nat} {m : Mask} {j : Nat} (hl : limbs ≠ 0) (hj : j < 128 / limbs) (hmixed : Mixed limbs m j)
    (hlow : ∀ k < j, ¬ Mixed limbs m k) : partialSeg limbs m = some j := by
  rw [partialSeg_eq hl, List.find?_range_eq_some]
  refine ⟨by simpa using (mixed_iff limbs m j).1 hmixed, List.mem_range.2 hj, fun k hk => ?_⟩
  have hwhole := mt (mixed_iff limbs m k).2 (hlow k hk)
  simpa [Classical.or_iff_not_imp_left] using hwhole
end Segments

section MaskWrites
theorem reg15_iff (md : Reg) : md.toNat = 15 ↔ md = 15 := by
  rw [← BitVec.toNat_inj]
  rfl
/-- A mask write that R150's check admits: the mask, and the packet of a write of EM. -/
theorem writeMask_whole {s : State} {g : Hart} {md : Reg} {v : Mask} (h : md = 15 → Whole g.limbs v) :
    writeMask s g md v = retireCur (maskTraced s md v) (g.setM md.toNat v) := by
  unfold writeMask maskTraced
  simp only [reg15_iff]
  by_cases hmd : md = 15
  · simp only [if_pos hmd, partialSeg_whole (h hmd)]
  · simp only [if_neg hmd]
/-- One that it refuses. -/
theorem writeMask_mixed {s : State} {g : Hart} {v : Mask} {j : Nat} (h : partialSeg g.limbs v = some j) :
    writeMask s g 15 v = trapCur s { cause := 27, tval := BitVec.ofNat 64 j, detail := some 0 } := by
  unfold writeMask
  simp only [show (15 : Reg).toNat = 15 from rfl, if_true, h]
  rfl
theorem maskOp2_group {bits : DWord} {md ma mb : Reg} {s : State} {f : Mask → Mask → Mask} (hg : IsGroup s) :
    maskOp2 bits md ma mb s f = .next (writeMask s (curHart s) md (f (ms s ma) (ms s mb))) := scalar_group hg
theorem maskOp1_group {bits : DWord} {md ma : Reg} {s : State} {f : Mask → Mask} (hg : IsGroup s) :
    maskOp1 bits md ma s f = .next (writeMask s (curHart s) md (f (ms s ma))) := scalar_group hg
variable {s : State} {md : Reg} {i : Instr} {v : Mask} {g : Hart} (hg : IsGroup s) (hw : MaskWrite s md i v g)
include hw
/-- Every instruction of `MaskWrite` leaves the bound limbs as they are. -/
theorem maskWrite_limbs : g.limbs = (curHart s).limbs := by cases hw <;> rfl
include hg
/-- Every instruction of `MaskWrite` is one write of its mask (06 R149). -/
theorem exec_maskWrite : exec i s = .next (writeMask s g md v) := by
  cases hw with
  | two he ma mb =>
    simp only [maskTable2, List.mem_cons, List.not_mem_nil, or_false] at he
    obtain rfl | rfl | rfl | rfl := he
    exacts [(exec_mand s).trans (maskOp2_group hg), (exec_mor s).trans (maskOp2_group hg), (exec_mxor s).trans (maskOp2_group hg),
      (exec_mandn s).trans (maskOp2_group hg)]
  | one he ma =>
    simp only [maskTable1, List.mem_cons, List.not_mem_nil, or_false] at he
    obtain rfl | rfl := he
    exacts [(exec_mnot s).trans (maskOp1_group hg), (exec_mmov s).trans (maskOp1_group hg)]
  | setLow rs1 =>
    rw [exec_msetx, execMsetx, scalar_group hg]
    rfl
  | setHigh rs1 =>
    rw [exec_msetx, execMsetx, scalar_group hg]
    rfl
  | pop hmsp =>
    rw [exec_mpop, execMpop, scalar_group hg]
    simp only [hmsp, if_false]
  | peek e he =>
    rw [exec_mpeek, execMpeek, scalar_group hg]
    simp only [Nat.not_le.2 he, if_false]
theorem exec_maskWrite_whole (hwhole : md = 15 → Whole (curHart s).limbs v) :
    exec i s = .next (retireCur (maskTraced s md v) (g.setM md.toNat v)) := by
  rw [exec_maskWrite hg hw, writeMask_whole (by rwa [maskWrite_limbs hw])]
end MaskWrites

theorem maskOperationsWriteTheirMask : MaskOperationsWriteTheirMask := by
  intro s md i v g hgroup _ hwrite hwhole
  refine ⟨_, exec_maskWrite_whole hgroup hwrite hwhole, onlyCur_retireCur _ _, ?_⟩
  rw [curHart_retireCur]
  exact wroteM_retireHart g md.toNat v
theorem partialEmTraps : PartialEmTraps := by
  intro s i v g j hgroup _ hwrite hl hj hmixed hlow
  have htrap : exec i s = .next (trapCur s { cause := 27, tval := BitVec.ofNat 64 j, detail := some 0 }) := by
    rw [exec_maskWrite hgroup hwrite, writeMask_mixed]
    rw [maskWrite_limbs hwrite]
    exact partialSeg_lowest hl hj hmixed hlow
  refine ⟨htrap, fun hplain t ht => ?_⟩
  rw [← Host.Outcome.next.inj (htrap.symm.trans ht)]
  exact trapKeeps_trapCur hplain _

section MaskStack
/-- The state after an MPUSH with room. -/
def pushed (s : State) (m : Reg) : State :=
  retireCur s { (curHart s).setS (curHart s).msp (ms s m) with msp := (curHart s).msp + 1 }
theorem curHart_pushed (s : State) (m : Reg) :
    curHart (pushed s m) = retireHart { (curHart s).setS (curHart s).msp (ms s m) with msp := (curHart s).msp + 1 } :=
  curHart_retireCur _ _
variable {s : State} (hg : IsGroup s)
include hg
theorem exec_mpush_room (ma : Reg) (hroom : (curHart s).msp < 16) : exec (.mpush ma) s = .next (pushed s ma) := by
  rw [exec_mpush, execMpush, scalar_group hg]
  exact congrArg Host.Outcome.next (if_neg (Nat.not_le.2 hroom))
theorem exec_mpoke_held {e : Reg} (ma : Reg) (he : e.toNat < (curHart s).msp) :
    exec (.mpoke e ma) s = .next (retireCur s ((curHart s).setS e.toNat (ms s ma))) := by
  rw [exec_mpoke, execMpoke, scalar_group hg]
  exact congrArg Host.Outcome.next (if_neg (Nat.not_le.2 he))
theorem exec_mpush_full (ma : Reg) (hfull : 16 ≤ (curHart s).msp) : exec (.mpush ma) s = .next (trapCur s (stackTrap s)) := by
  rw [exec_mpush, execMpush, scalar_group hg]
  exact congrArg Host.Outcome.next (if_pos hfull)
theorem exec_mpop_empty (md : Reg) (hempty : (curHart s).msp = 0) : exec (.mpop md) s = .next (trapCur s (stackTrap s)) := by
  rw [exec_mpop, execMpop, scalar_group hg]
  exact congrArg Host.Outcome.next (if_pos hempty)
theorem exec_mpeek_above (md : Reg) {e : Reg} (habove : (curHart s).msp ≤ e.toNat) :
    exec (.mpeek md e) s = .next (trapCur s (stackTrap s)) := by
  rw [exec_mpeek, execMpeek, scalar_group hg]
  exact congrArg Host.Outcome.next (if_pos habove)
theorem exec_mpoke_above {e : Reg} (ma : Reg) (habove : (curHart s).msp ≤ e.toNat) :
    exec (.mpoke e ma) s = .next (trapCur s (stackTrap s)) := by
  rw [exec_mpoke, execMpoke, scalar_group hg]
  exact congrArg Host.Outcome.next (if_pos habove)
/-- An MPOP of the entry that an MPUSH wrote restores its mask and clears the entry. -/
theorem exec_mpop_pushed {m : Reg} (hwhole : m = 15 → Whole (curHart s).limbs (curHart s).em) :
    exec (.mpop m) (pushed s m) = .next (retireCur (maskTraced (pushed s m) m (ms s m))
      ({ (curHart (pushed s m)).setS (curHart s).msp 0 with msp := (curHart s).msp }.setM m.toNat (ms s m))) := by
  have hgroup : IsGroup (pushed s m) := by rw [IsGroup, curHart_pushed]; exact hg
  have hpop := MaskWrite.pop (s := pushed s m) (md := m) (by rw [curHart_pushed]; exact Nat.succ_ne_zero _)
  have hmsp : (curHart (pushed s m)).msp - 1 = (curHart s).msp := by rw [curHart_pushed]; rfl
  have htop : (curHart (pushed s m)).getS (curHart s).msp = ms s m := by
    rw [curHart_pushed]
    exact (getS_setS _ _ _ _).trans (if_pos rfl)
  rw [hmsp, htop] at hpop
  refine exec_maskWrite_whole hgroup hpop fun hm => ?_
  subst hm
  rw [curHart_pushed]
  exact hwhole rfl
end MaskStack

theorem maskStackIsChecked : MaskStackIsChecked := by
  refine ⟨fun s ma hg _ hroom => ⟨_, exec_mpush_room hg ma hroom, onlyCur_retireCur _ _, ?_⟩,
    fun s e ma hg _ he => ⟨_, exec_mpoke_held hg ma he, onlyCur_retireCur _ _, ?_⟩,
    fun s ma hg _ hfull => exec_mpush_full hg ma hfull, fun s md hg _ hempty => exec_mpop_empty hg md hempty,
    fun s md e ma hg habove => ⟨fun _ => exec_mpeek_above hg md habove, fun _ => exec_mpoke_above hg ma habove⟩⟩
  · rw [curHart_pushed]
    exact wroteS_retireHart _ _ _ _
  · rw [curHart_retireCur]
    exact wroteS_retireHart (curHart s) e.toNat (ms s ma) (curHart s).msp
theorem pushThenPopIsExact : PushThenPopIsExact := by
  intro s m hg _ hroom hwhole
  refine ⟨_, _, exec_mpush_room hg m hroom, exec_mpop_pushed hg hwhole, ?_⟩
  rw [pcOf, curHart_retireCur, curHart_pushed]
  refine ⟨fun q => ?_, setM_msp _ _ _, ?_, fun e he => ?_, ?_⟩
  · refine (getM_setM _ _ _ _).trans ?_
    split
    · exact congrArg (curHart s).getM ‹_›
    · rfl
  · refine (getS_popped _ _ _ _ _).trans (if_pos rfl)
  · refine (getS_popped _ _ _ _ _).trans ((if_neg (Ne.symm he)).trans ?_)
    exact (getS_setS _ _ _ _).trans (if_neg (Ne.symm he))
  · rw [retireHart_pc, setM_pc]
    exact BitVec.add_assoc _ 4 4
/-- Settles O13: R150's check finds the lowest partly active segment, and a popped entry is the one that was pushed. -/
theorem maskStackAndEmAreChecked : Obligations.MaskStackAndEmAreChecked := ⟨partialEmTraps, maskStackIsChecked, pushThenPopIsExact⟩

section MaskReads
theorem foldl_countOnes (m : Mask) (l : List Nat) (n : Nat) :
    l.foldl (fun n i => if m.getLsbD i then n + 1 else n) n = n + (l.filter (fun i => m.getLsbD i)).length := by
  induction l generalizing n with
  | nil => rfl
  | cons i l ih =>
    rw [List.foldl_cons, ih, List.filter_cons]
    split
    · rw [List.length_cons]
      omega
    · rfl
theorem countOnes_eq (m : Mask) : countOnes m = ((List.range 128).filter (fun i => m.getLsbD i)).length :=
  (foldl_countOnes m _ 0).trans (Nat.zero_add _)
theorem lowestOne_eq {m : Mask} {k : Nat} (hk : k < 128) (hone : m.getLsbD k = true) (hlow : ∀ l < k, m.getLsbD l = false) :
    lowestOne m = some k := by
  rw [lowestOne, List.find?_range_eq_some]
  exact ⟨hone, List.mem_range.2 hk, fun l hl => by rw [hlow l hl]; rfl⟩
theorem lowestOne_zero : lowestOne 0 = none := by
  rw [lowestOne, List.find?_eq_none]
  intro l _
  simp
end MaskReads
theorem maskReadsReachRegisters : MaskReadsReachRegisters := by
  intro s rd ma half hg _
  have hmfirst : exec (.mfirst rd ma) s = .next (retireX s rd (dw ((lowestOne (ms s ma)).getD 128))) :=
    (exec_mfirst s).trans (scalar_group hg)
  refine ⟨Csrs.retires_retireX ?_, fun k hk hone hlow => Csrs.retires_retireX ?_, fun hzero => Csrs.retires_retireX ?_,
    Csrs.retires_retireX ((exec_mgetx s).trans (scalar_group hg))⟩
  · rw [← countOnes_eq]
    exact (exec_mcnt s).trans (scalar_group hg)
  · rw [hmfirst, lowestOne_eq hk hone hlow]
    rfl
  · rw [hmfirst, hzero, lowestOne_zero]
    rfl

/-- Settles O14: each mask operation is one checked write of its mask, or a retirement that writes its register. -/
theorem maskOperationsComplete : Obligations.MaskOperationsComplete := ⟨maskOperationsWriteTheirMask, maskReadsReachRegisters⟩

section LaneFetches
theorem fetchesOnly_refl (s : State) : FetchesOnly s s := ⟨rfl, fun _ _ => rfl, fun _ _ => rfl⟩
theorem fetchesOnly_trans {s t u : State} (h : FetchesOnly s t) (g : FetchesOnly t u) : FetchesOnly s u := by
  obtain ⟨ht, hcounts, hharts⟩ := h
  obtain ⟨hu, gcounts, gharts⟩ := g
  have hcur : t.cur = s.cur := by rw [ht]
  refine ⟨hu.trans (by rw [ht]), Outside.sliceCounts_trans hcounts gcounts, fun k hk => ?_⟩
  exact (gharts k (by rwa [hcur])).trans (hharts k hk)
/-- What differs from a state only in what slices keep. -/
theorem eq_of_withSlicesOf {s t : State} (h : withSlicesOf s t = s) :
    ∃ lines recalls counters, t = { s with mem := { s.mem with l2 := lines, recalls := recalls }, counters := counters } :=
  ⟨_, _, _, (congrArg (withSlicesOf t) h :)⟩
/-- An access at a line's slice (15 R339, R340). -/
theorem fetchesOnly_l2Touch (s : State) (line : Nat) : FetchesOnly s (l2Touch s line) := by
  obtain ⟨lines, recalls, counters, htouch⟩ := eq_of_withSlicesOf (l2Touch_rest s s line)
  have hcounts := Outside.sliceCounts_l2Touch s line
  rw [htouch] at hcounts ⊢
  exact ⟨rfl, hcounts, fun _ _ => rfl⟩
/-- A tag check of a granule that is read (15 R342). -/
theorem fetchesOnly_noteGranule (s : State) (g : Nat) : FetchesOnly s (noteGranule s g) := by
  unfold noteGranule
  split
  · exact ⟨rfl, fun _ _ => rfl, fun _ _ => rfl⟩
  · exact fetchesOnly_refl s
theorem fetchesOnly_notePoison (s : State) (l : Loc) : FetchesOnly s (notePoison s l) := by
  cases l
  case mem a => exact fetchesOnly_noteGranule s _
  all_goals exact fetchesOnly_refl s
theorem fetchesOnly_noteErr (s : State) (e : XErr) : FetchesOnly s (noteErr s e) := by
  cases e
  case tag pa => exact fetchesOnly_notePoison s (.mem pa)
  all_goals exact fetchesOnly_refl s
theorem fetchesOnly_notePoisonAt (s : State) (c : Ctx) (lkey : Nat) (acc : Acc) (va : DWord) (n : Nat) :
    FetchesOnly s (notePoisonAt s c lkey acc va n) := by
  unfold notePoisonAt
  split
  · exact fetchesOnly_refl s
  · split
    · split
      · exact fetchesOnly_notePoison s _
      · exact fetchesOnly_refl s
    · exact fetchesOnly_noteErr s _
theorem fetchesOnly_note (l : Located) (s : State) : FetchesOnly s (l.note s) := by
  rw [Execution.note_rest]
  exact ⟨rfl, fun _ _ => rfl, fun _ _ => rfl⟩
theorem fetchesOnly_noteFetch (s : State) (h : Hart) (lane : Bool) (l : Located) : FetchesOnly s (noteFetch s h lane l) := by
  unfold noteFetch
  split
  · dsimp only
    split
    · exact fetchesOnly_l2Touch s _
    · split
      · exact fetchesOnly_refl s
      · exact fetchesOnly_trans (fetchesOnly_l2Touch s _) ⟨rfl, fun _ _ => rfl, fun _ _ => rfl⟩
  · exact fetchesOnly_refl s
theorem fetchesOnly_fetchNote (s : State) (h : Hart) (lane : Bool) (a : DWord) : FetchesOnly s (fetchNote s h lane a) := by
  unfold fetchNote
  split
  · exact fetchesOnly_trans (fetchesOnly_note _ s) (fetchesOnly_noteFetch _ h lane _)
  · exact fetchesOnly_notePoisonAt s _ _ _ _ _
/-- What the fetch of a batch leaves behind (06 R145). -/
theorem fetchesOnly_batchNotes (s : State) (h : Hart) (n : Nat) (a : DWord) : FetchesOnly s (batchNotes s h n a) := by
  unfold batchNotes
  dsimp only
  generalize List.take _ _ = words
  induction words generalizing s with
  | nil => exact fetchesOnly_refl s
  | cons b words ih => exact fetchesOnly_trans (fetchesOnly_fetchNote s h true b) (ih _)
theorem fetchesOnly_setCur {s t : State} (h : FetchesOnly s t) (g : Hart) : FetchesOnly s (setCur t g) :=
  fetchesOnly_trans h ⟨rfl, fun _ _ => rfl, fun _ hk => hartAt_setCur_ne t g hk⟩
end LaneFetches

section Batches
variable {s : State} {n : Nat} (hg : IsGroup s) (hroom : (curHart s).laneQ.length + n ≤ 64) (hfree : BatchFree s n)
include hroom hfree
/-- An LRUN whose batch has room and waits for nothing appends it (06 R144). -/
theorem appends_appendBatch {i : Instr} {c : Option Nat} (hexec : exec i s = .next (appendBatch s (curHart s) n c)) : Appends i s n c := by
  obtain ⟨hcapture, hheld⟩ := hfree
  have hwaits : batchWaits s (curHart s) n = false := by
    unfold batchWaits
    rw [decide_eq_false (Nat.not_lt.2 hroom)]
    exact hcapture
  unfold appendBatch at hexec
  simp only [hwaits, hheld, Bool.false_eq_true, if_false] at hexec
  exact ⟨_, hexec, fetchesOnly_setCur (fetchesOnly_batchNotes s _ _ _) _, curHart_setCur _ _⟩
include hg
theorem lrunr_appends {rs1 : Reg} (hcount : (xs s rs1).toNat = n) (hpos : 1 ≤ n) (hreg : regQueued (curHart s) rs1 = false) :
    Appends (.lrunr rs1) s n (some n) := by
  refine appends_appendBatch hroom hfree ?_
  have hcount' : ((curHart s).getX rs1).toNat = n := hcount
  have hle : ¬ 64 < n := by omega
  have hne : n ≠ 0 := by omega
  rw [exec_lrunr, execLrunr, scalar_group hg]
  simp only [hcount', hreg, hle, hne, Bool.false_eq_true, or_self, false_and, if_false]
end Batches
theorem queuedX_nil {h : Hart} (hq : h.laneQ = []) : queuedX h = [] := by rw [queuedX, hq]; rfl
/-- With nothing queued LRUNR waits for nothing before it looks at its count (08 R194). -/
theorem exec_lrunr_empty {s : State} {rs1 : Reg} (hg : IsGroup s) (hq : (curHart s).laneQ = []) :
    exec (.lrunr rs1) s = .next (
      if 64 < (xs s rs1).toNat then trapCur s (illegal (insnBits (.lrunr rs1)))
      else if (xs s rs1).toNat = 0 then retireCur (traceEvent s s.cur (.cnt 0)) (curHart s)
      else appendBatch s (curHart s) (xs s rs1).toNat (some (xs s rs1).toNat)) := by
  have hreg : regQueued (curHart s) rs1 = false := by simp [regQueued, queuedX_nil hq]
  rw [exec_lrunr, execLrunr, scalar_group hg]
  refine congrArg Host.Outcome.next (if_neg ?_)
  simp [hreg, hq]
/-- A retirement after a traced event is the whole effect of an instruction. -/
theorem completes_retireCur {i : Instr} {s : State} {ev : TraceEv} {g : Hart}
    (hexec : exec i s = .next (retireCur (traceEvent s s.cur ev) g)) : Completes i s (traceEvent s s.cur ev) g := by
  refine ⟨_, hexec, rfl, fun k hk => ?_, ?_⟩
  · refine (hartAt_setCur_ne _ _ (by rwa [traceEvent_cur])).trans ?_
    rw [hartAt, traceEvent_harts]
    rfl
  · rw [curHart_retireCur]
    rfl
theorem batchesJoinTheLaneQueue : BatchesJoinTheLaneQueue := by
  refine ⟨fun s n hg _ hroom hfree => appends_appendBatch hroom hfree ((exec_lrun s).trans (scalar_group hg)),
    fun s rs1 n hg hcount hpos hroom hreg hfree => lrunr_appends hg hroom hfree hcount hpos hreg,
    fun s rs1 hg hq => ⟨fun hover => ?_, fun hzero => completes_retireCur ?_⟩,
    fun s imm rs1 hg => completes_retireCur ((exec_lpc s).trans (scalar_group hg))⟩
  · rw [exec_lrunr_empty hg hq, if_pos hover]
  · rw [exec_lrunr_empty hg hq, hzero]
    rfl

section BatchEntries
theorem lpc_zero (a : DWord) : a + BitVec.ofNat 64 (12 * 0) = a := BitVec.add_zero a
theorem lpc_succ (a : DWord) (i : Nat) : a + 12 + BitVec.ofNat 64 (12 * i) = a + BitVec.ofNat 64 (12 * (i + 1)) := by
  rw [Nat.mul_succ, Nat.add_comm, BitVec.ofNat_add, BitVec.add_assoc]
  rfl
variable (s : State) (h : Hart) (pc : DWord)
theorem batchEntries_ok {a : DWord} {w : LaneWords} (n : Nat) (hw : fetchLane s h a = .ok w) :
    batchEntries s h pc (n + 1) a = captureEntry h w pc a (n + 1) :: batchEntries s h pc n (a + 12) := by
  rw [batchEntries, hw]
theorem batchEntries_error {a : DWord} {t : Trap} (n : Nat) (ht : fetchLane s h a = .error t) :
    batchEntries s h pc (n + 1) a = [{ bad := some t, lpc := a, pc := pc, rem := n + 1 }] := by
  rw [batchEntries, ht]
/-- Past instructions that were fetched a batch goes on with the next one (06 R144, R145). -/
theorem batchEntries_after (i n : Nat) (a : DWord) (hok : ∀ j < i, ∃ w, fetchLane s h (a + BitVec.ofNat 64 (12 * j)) = .ok w) :
    (batchEntries s h pc (i + n) a).length = i + (batchEntries s h pc n (a + BitVec.ofNat 64 (12 * i))).length ∧
    (batchEntries s h pc (i + n) a).drop i = batchEntries s h pc n (a + BitVec.ofNat 64 (12 * i)) := by
  induction i generalizing a with
  | zero => rw [lpc_zero, Nat.zero_add, Nat.zero_add]; exact ⟨rfl, rfl⟩
  | succ i ih =>
    obtain ⟨w, hw⟩ := hok 0 (Nat.succ_pos i)
    rw [lpc_zero] at hw
    obtain ⟨hlength, hdrop⟩ := ih (a + 12) fun j hj => by
      rw [lpc_succ]
      exact hok (j + 1) (Nat.succ_lt_succ hj)
    rw [lpc_succ] at hlength hdrop
    rw [Nat.succ_add, batchEntries_ok s h pc _ hw, List.length_cons, List.drop_succ_cons, hlength]
    exact ⟨by omega, hdrop⟩
/-- So its entry i is the first of what follows i instructions. -/
theorem batchEntries_getElem? {i n : Nat} (hi : i < n) (a : DWord)
    (hok : ∀ j < i, ∃ w, fetchLane s h (a + BitVec.ofNat 64 (12 * j)) = .ok w) :
    (batchEntries s h pc n a).length = i + (batchEntries s h pc (n - i) (a + BitVec.ofNat 64 (12 * i))).length ∧
    (batchEntries s h pc n a)[i]? = (batchEntries s h pc (n - i) (a + BitVec.ofNat 64 (12 * i)))[0]? := by
  obtain ⟨hlength, hdrop⟩ := batchEntries_after s h pc i (n - i) a hok
  rw [Nat.add_sub_cancel' hi.le] at hlength hdrop
  exact ⟨hlength, by rw [← hdrop, List.getElem?_drop, Nat.add_zero]⟩
end BatchEntries

section Captures
/-- The register number in the low five bits of an operand field (05 R131). -/
theorem regOf_extract (w : LaneWords) (lo : Nat) : (w.extractLsb' lo 10).extractLsb' 0 5 = w.extractLsb' lo 5 :=
  field_eq fun i hi => by
    rw [BitVec.getLsbD_extractLsb', BitVec.getLsbD_extractLsb', decide_eq_true hi, decide_eq_true (by omega), Nat.zero_add]
variable (h : Hart) (pc a : DWord) (n : Nat) {w : LaneWords}
theorem captureEntry_capA (hk : w.extractLsb' 46 2 = 1#2) : (captureEntry h w pc a n).capA = fieldX h w 26 := by
  refine (if_pos hk).trans ?_
  rw [fieldX, ← regOf_extract]
  rfl
theorem captureEntry_capB (hk : w.extractLsb' 48 2 = 1#2) : (captureEntry h w pc a n).capB = fieldX h w 36 := by
  refine (if_pos hk).trans ?_
  rw [fieldX, ← regOf_extract]
  rfl
theorem captureEntry_capC (hform : w.getLsbD 7 = false) (hk : w.extractLsb' 74 2 = 1#2) :
    (captureEntry h w pc a n).capC = fieldX h w 64 := by
  refine (if_neg (by rw [hform]; exact Bool.false_ne_true)).trans ((if_pos hk).trans ?_)
  rw [fieldX, ← regOf_extract]
  rfl
end Captures
theorem batchEntriesFollowLpc : BatchEntriesFollowLpc := by
  refine ⟨fun s h pc a n hok => ⟨?_, fun i hi => ?_⟩, fun s h pc a n i t hi hok hfault => ?_⟩
  · obtain ⟨hlength, -⟩ := batchEntries_after s h pc n 0 a hok
    exact hlength
  · obtain ⟨w, hw⟩ := hok i hi
    obtain ⟨-, hentry⟩ := batchEntries_getElem? s h pc hi a fun j hj => hok j (hj.trans hi)
    obtain ⟨r, hr⟩ : ∃ r, n - i = r + 1 := ⟨n - i - 1, by omega⟩
    rw [hr, batchEntries_ok s h pc r hw, ← hr] at hentry
    exact ⟨w, _, hw, hentry, rfl, rfl, rfl, rfl, rfl, captureEntry_capA h pc _ _, captureEntry_capB h pc _ _,
      captureEntry_capC h pc _ _⟩
  · obtain ⟨hlength, hentry⟩ := batchEntries_getElem? s h pc hi a hok
    obtain ⟨r, hr⟩ : ∃ r, n - i = r + 1 := ⟨n - i - 1, by omega⟩
    rw [hr, batchEntries_error s h pc r hfault, ← hr] at hlength hentry
    exact ⟨hlength, hentry⟩
/-- Settles O15: a batch with room joins the queue, and its entries come from LPC on until a fetch faults. -/
theorem laneBatchesAreQueued : Obligations.LaneBatchesAreQueued := ⟨batchesJoinTheLaneQueue, batchEntriesFollowLpc⟩

section UnsortedLaunches
/-- The state in which a FORK has taken its WGID. -/
def wgidTaken (s : State) (lkey : Nat) : State :=
  modLaunch s lkey (fun l => { l with wgidCtr := (launchAt s lkey).wgidCtr + 1 })
/-- A FORK without a join word that nothing delays takes its WGID and tries to push (06 R157). -/
theorem fork_pushes {rd rs1 rs2 : Reg} {k : BitVec 7} {s : State} (hl : InLaunch s) (hk : k.toNat < (myLaunch s).kernels.length)
    (hid : (myLaunch s).wgidCtr ≠ 0xFFFFFFFF) (hq : Quiet s) (hroom : (easelAt s (curHart s).tile).resident.length < 32)
    (hjw : xs s rs2 = 0) :
    exec (.fork rd rs1 rs2 k) s = .next (forkPush s (curHart s) rd k.toNat (xs s rs1) 0 none) := by
  obtain ⟨hgroup, hlkey⟩ := hl
  have hboot : (curHart s).boot = false := by simpa [Hart.boot] using hlkey
  have hheld : pushHeld s (curHart s).tile { lkey := (curHart s).lkey } = none := by
    unfold pushHeld
    simp only [hroom, if_true]
  have hnone : ∀ p : Req → Bool, flushIf p s = (s, true) := fun p => flushIf_none fun r hr => by rw [hq.1] at hr; cases hr
  have hkernel : ¬ (launchAt s (curHart s).lkey).kernels.length ≤ k.toNat := Nat.not_le.2 hk
  have hwgid : ¬ (launchAt s (curHart s).lkey).wgidCtr = 0xFFFFFFFF := hid
  have hword : (curHart s).getX rs2 = 0 := hjw
  rw [exec_fork, execFork, scalar_group hgroup]
  simp only [hboot, hkernel, hwgid, hnone, hheld, hword, ite_self, Bool.false_eq_true, if_false, if_true, xs]
/-- Where the easel is full once the WGID is taken, the push answers 18. -/
theorem forkPush_full {s : State} {h : Hart} {rd : Reg} {k : Nat} {arg jw : DWord}
    (hfull : freeEntries (wgidTaken s h.lkey) (launchAt s h.lkey).pid h.tile ≤ reservedOn (wgidTaken s h.lkey) h.tile) :
    forkPush s h rd k arg jw none = forkAnswer (wgidTaken s h.lkey) rd 18 0 := by
  have hroom := decide_eq_false (Nat.not_lt.2 hfull)
  unfold wgidTaken at hroom
  unfold forkPush wgidTaken
  simp only [hroom, Bool.false_eq_true, if_false]

/-- Group 0 of launch 3, whose entry stands behind that of launch 5 in the table. The two launches, unplaced, reserve 21 of the 32 entries
of tile 0's easel. -/
def unsortedState : State :=
  { harts := [(0, { lkey := 3 })], launches := [(5, {}), (3, { kernels := [{}], p := 20, width := 1, height := 1 })] }
theorem room_unsortedState : EaselRoom unsortedState := by unfold EaselRoom; decide +kernel
/-- Once a WGID is taken there is no room: the changed launch joins the table ahead of its old entry, and its 20 entries count twice. -/
theorem full_unsortedState : freeEntries (wgidTaken unsortedState 3) 15 0 ≤ reservedOn (wgidTaken unsortedState 3) 0 := by decide +kernel
/-- Refutes O22: a FORK with room in its easel need not push. `ForkPushesWork` asks nothing of the form of the launch table, and in
`unsortedState`, whose launches are not in the order of their keys, the FORK answers 18 where the statement has it answer a WGID. In a
table of rising keys, which every update by `tput` and `tdel` keeps, the launch is changed in place and the room remains. -/
theorem not_groupsStartJoinAndEndWork : ¬ Obligations.GroupsStartJoinAndEndWork := by
  intro h
  obtain ⟨-, hfork, -, -⟩ := h
  have hlaunch : InLaunch unsortedState := ⟨rfl, by decide⟩
  have hkernel : (0 : BitVec 7).toNat < (myLaunch unsortedState).kernels.length := by decide
  have hid : (myLaunch unsortedState).wgidCtr ≠ 0xFFFFFFFF := by decide
  have hquiet : Quiet unsortedState := ⟨rfl, rfl⟩
  obtain ⟨-, -, hpush, -⟩ := hfork 1 0 0 0 unsortedState hlaunch
  obtain ⟨t, hgoes, ⟨hregs, -⟩, -⟩ := hpush hkernel hid hquiet room_unsortedState (.inl rfl)
  have ht : t = forkAnswer (wgidTaken unsortedState 3) 1 18 0 :=
    Host.Outcome.next.inj (hgoes.symm.trans ((fork_pushes hlaunch hkernel hid hquiet room_unsortedState.2 rfl).trans
      (congrArg Host.Outcome.next (forkPush_full full_unsortedState))))
  have hanswer := hregs 1
  rw [ht, forkAnswer, getX_retireX] at hanswer
  exact absurd hanswer (by decide)
end UnsortedLaunches
end Sys2Proof.Control

namespace Sys2Proof.SyncEngines
open Sys2Proof Sys2Proof.Machine Sys2Proof.Laws Sys2Proof.Claims

/-! PROOF. What the synchronisation instructions and the engines of 07 share: acquires while nothing travels, and retirement. -/

section Retirement
/-- An instruction that ends by retiring its agent in a state with the agents as they were. -/
theorem completes_of_retireCur {i : Instr} {s b : State} {g : Hart} (hexec : exec i s = .next (retireCur b g))
    (hcur : b.cur = s.cur) (hharts : b.harts = s.harts) : Completes i s b g := by
  refine ⟨_, hexec, rfl, fun k hk => ?_, curHart_retireCur b g⟩
  have hother : hartAt (retireCur b g) k = hartAt b k := hartAt_setHart_ne b _ (by rw [hcur]; exact hk.symm)
  rw [hother, hartAt, hartAt, hharts]

/-- While no write travels, an acquire changes the acquiring agent alone. -/
theorem acquireAll_quiet {s : State} (hq : Quiet s) (k : Nat) :
    acquireAll s k = setHart s k (acquired true s (hartAt s k)) := by
  rw [acquireAll_none k hq.1 hq.2]; rfl

theorem retire_acquireAll_quiet {s : State} (hq : Quiet s) :
    retire (acquireAll s s.cur) = retireCur s (acquired true s (curHart s)) := by
  rw [acquireAll_quiet hq]
  show setHart _ s.cur (retireHart (hartAt (setHart s s.cur _) s.cur)) = _
  rw [hartAt_setHart, setHart_setHart]; rfl

/-- A wait changes the run state and what is waited for, of the current agent alone. -/
theorem onlyCur_waitCur (s : State) (w : WaitOn) :
    OnlyCur s (waitCur s w) ∧ curHart (waitCur s w) = { curHart s with run := .waitSync, wait := w } :=
  ⟨⟨rfl, fun _ hk => hartAt_modCur_ne s _ hk, fun _ _ => rfl⟩, curHart_waitCur s w⟩
end Retirement

/-! PROOF. The waiters that the completion of a phase releases (07 R176). -/

section Waiters
/-- One released waiter: its wait is an acquire, and it retires. -/
def woken (s : State) (k : Nat) : State := setHart s k (wakeHart (acquired true s (hartAt s k)))

theorem wake_acquireAll_quiet {s : State} (hq : Quiet s) (k : Nat) : modHart (acquireAll s k) k wakeHart = woken s k := by
  rw [acquireAll_quiet hq, modHart, hartAt_setHart, setHart_setHart, woken]

theorem foldl_woken_rest (ks : List Nat) (s : State) : ks.foldl woken s = { s with harts := (ks.foldl woken s).harts } := by
  induction ks generalizing s with
  | nil => rfl
  | cons k ks ih => exact ih (woken s k)

theorem hartAt_foldl_woken_other {ks : List Nat} {j : Nat} (s : State) (hj : j ∉ ks) :
    hartAt (ks.foldl woken s) j = hartAt s j := by
  induction ks generalizing s with
  | nil => rfl
  | cons k ks ih =>
    rw [List.mem_cons, not_or] at hj
    rw [List.foldl_cons, ih _ hj.2, woken, hartAt_setHart_ne _ _ (Ne.symm hj.1)]

theorem hartAt_foldl_woken {ks : List Nat} {j : Nat} (s : State) (hks : ks.Nodup) (hj : j ∈ ks) :
    hartAt (ks.foldl woken s) j = wakeHart (acquired true s (hartAt s j)) := by
  induction ks generalizing s with
  | nil => simp at hj
  | cons k ks ih =>
    rw [List.nodup_cons] at hks
    rw [List.foldl_cons]
    by_cases hjk : j = k
    · subst hjk
      rw [hartAt_foldl_woken_other _ hks.1, woken, hartAt_setHart]
    · have hmem : j ∈ ks := (List.mem_cons.mp hj).resolve_left hjk
      rw [ih _ hks.2 hmem, woken, hartAt_setHart_ne _ _ (Ne.symm hjk)]
      rfl

/-- The agents among `ks` that wait on `w`. -/
def waitersOn (s : State) (ks : List Nat) (w : WaitOn) : List Nat := ks.filter (fun k => (hartAt s k).wait == w)

theorem mem_waitersOn {s : State} {ks : List Nat} {w : WaitOn} {k : Nat} :
    k ∈ waitersOn s ks w ↔ k ∈ ks ∧ (hartAt s k).wait = w := by
  simp [waitersOn]

theorem foldl_wake_quiet {s : State} (hq : Quiet s) (ks : List Nat) :
    ks.foldl (fun s k => modHart (acquireAll s k) k wakeHart) s = ks.foldl woken s := by
  induction ks generalizing s with
  | nil => rfl
  | cons k ks ih =>
    rw [List.foldl_cons, List.foldl_cons, wake_acquireAll_quiet hq]
    exact ih (s := woken s k) hq

theorem releaseWaiters_quiet {s : State} (hq : Quiet s) (ks : List Nat) (w : WaitOn) :
    releaseWaiters s ks w = (waitersOn s ks w).foldl woken s := foldl_wake_quiet hq _

/-- An arrival that releases waiters: the arriving agent has written its token, and each waiter among `ks` has retired its wait. -/
theorem arrives_releasing {s b : State} {ks : List Nat} {w : WaitOn} (rd : Reg) (v : DWord) (hharts : b.harts = s.harts)
    (hcur : b.cur = s.cur) (hclk : b.clk = s.clk) (hq : Quiet b) (hks : ks.Nodup)
    (hself : ¬ (s.cur ∈ ks ∧ (hartAt s s.cur).wait = w)) :
    let t := retireX (releaseWaiters b ks w) rd v
    t = { b with harts := t.harts } ∧ WroteX (curHart s) (curHart t) rd v (pcOf s + 4) ∧
      Releases s t (fun k => k ∈ ks ∧ (hartAt s k).wait = w) := by
  intro t
  have hat : ∀ k, hartAt b k = hartAt s k := fun k => by rw [hartAt, hartAt, hharts]
  have hlist : ∀ k, k ∈ waitersOn b ks w ↔ k ∈ ks ∧ (hartAt s k).wait = w := fun k => by rw [mem_waitersOn, hat]
  have ht : t = retireX ((waitersOn b ks w).foldl woken b) rd v := by simp only [t, releaseWaiters_quiet hq]
  have hcur' : ((waitersOn b ks w).foldl woken b).cur = s.cur := by rw [foldl_woken_rest]; exact hcur
  have hothers : ∀ k, k ≠ s.cur → hartAt t k = hartAt ((waitersOn b ks w).foldl woken b) k := fun k hk => by
    rw [ht]; exact hartAt_modCur_ne _ _ (by rw [hcur']; exact hk)
  refine ⟨?_, ?_, fun k hk hgone => ?_, fun k hk hgone hrun => ?_⟩
  · rw [ht, retireX, modCur, modHart, setHart, foldl_woken_rest]
  · have hme : curHart ((waitersOn b ks w).foldl woken b) = curHart s := by
      rw [curHart, hcur', hartAt_foldl_woken_other _ (by rw [hlist]; exact hself), hat]; rfl
    rw [ht, curHart_retireX, hme]
    exact Execution.wroteX_retireHart _ _ _
  · rw [hothers k hk, hartAt_foldl_woken_other _ (by rw [hlist]; exact hgone), hat]
  · have hnodup : (waitersOn b ks w).Nodup := hks.filter _
    rw [hothers k hk, hartAt_foldl_woken _ hnodup ((hlist k).mpr hgone), hat,
      Execution.wakeHart_running (by exact hrun)]
    have htick : leaseTick b = leaseTick s := by simp only [leaseTick, hclk]
    simp only [RetiredAs, retireHart, acquired, htick]
end Waiters

/-! PROOF. Workgroup and wire barriers (07 R174–R177). -/

section Barriers
/-- A phase completes after an arrival exactly as `arrival` says. -/
theorem barSettle_arrived (b : Bar) : barSettle { b with arrived := b.arrived + 1 } = arrival b := by
  simp only [barSettle, arrival]

theorem releases_of_iff {s t : State} {p q : Nat → Prop} (h : Releases s t p) (hpq : ∀ k, p k ↔ q k) : Releases s t q :=
  (funext fun k => propext (hpq k) : p = q) ▸ h

/-- The agents that a barrier's settling looks through: all of `ks` where the phase has ended, none otherwise. -/
def lookedThrough (b : Bar) (ks : List Nat) : List Nat := if (barSettle b).phase == b.phase then [] else ks

theorem mem_lookedThrough {b : Bar} {ks : List Nat} {k : Nat} :
    k ∈ lookedThrough b ks ↔ (barSettle b).phase ≠ b.phase ∧ k ∈ ks := by
  by_cases hphase : (barSettle b).phase = b.phase <;> simp [lookedThrough, hphase]

theorem nodup_lookedThrough {b : Bar} {ks : List Nat} (hks : ks.Nodup) : (lookedThrough b ks).Nodup := by
  rw [lookedThrough]
  split
  · exact List.nodup_nil
  · exact hks

theorem settleBar_eq (s : State) (wkey n : Nat) (b : Bar) :
    settleBar s wkey n b = releaseWaiters (putBar s wkey n (barSettle b))
      (lookedThrough b ((wgAt s wkey).members.map Prod.snd)) (.bar n b.phase) := by
  by_cases hphase : (barSettle b).phase = b.phase <;> simp [settleBar, lookedThrough, hphase, releaseWaiters]

section Present
variable {bits : DWord} {n : Reg} {regs : List Reg} {s : State} {f : Hart → Bar → State}

theorem onBar_present (hg : IsGroup s) (hn : n.toNat < (wgAt s (curHart s).wg).nbars) :
    onBar bits n regs s f = .next (f (curHart s) (barAt s n.toNat)) := by
  rw [onBar, Control.scalar_group hg]
  exact congrArg _ (if_neg (Nat.not_le.mpr hn))

theorem onBar_missing (hg : IsGroup s) (hn : (wgAt s (curHart s).wg).nbars ≤ n.toNat) :
    onBar bits n regs s f = .next (trapCur s (barTrap n.toNat)) := by
  rw [onBar, Control.scalar_group hg]
  exact congrArg _ (if_pos hn)

theorem onGbar_present (hg : IsGroup s) (hn : n.toNat < (launchAt s (curHart s).lkey).gbarn) :
    onGbar bits n regs s f = .next (f (curHart s) (gbarAt s n.toNat)) := by
  rw [onGbar, Control.scalar_group hg]
  exact congrArg _ (if_neg (Nat.not_le.mpr hn))
end Present

theorem barInit_present {n rs1 : Reg} {s : State} (hg : IsGroup s) (hn : n.toNat < (wgAt s (curHart s).wg).nbars) :
    let e := (xs s rs1).toNat; let b := barAt s n.toNat
    (1 ≤ e ∧ e ≤ 16 → b.arrived = 0 → b.copies = 0 →
      Completes (.barInit n rs1) s (withBar s n.toNat { b with expected := e }) (curHart s)) ∧
    (e = 0 ∨ 16 < e ∨ b.arrived ≠ 0 ∨ b.copies ≠ 0 → exec (.barInit n rs1) s = .next (trapCur s (barTrap n.toNat))) := by
  intro e b
  have hexec := (exec_barInit (a := n) (b := rs1) s).trans (onBar_present (regs := [rs1]) hg hn)
  refine ⟨fun he harrived hcopies => completes_of_retireCur (hexec.trans (congrArg _ (if_neg ?_))) rfl rfl,
    fun hbad => hexec.trans (congrArg _ (if_pos ?_))⟩
  · rintro (hlow | hhigh | hne | hne)
    · exact absurd he.1 (Nat.not_le.mpr hlow)
    · exact absurd he.2 (Nat.not_le.mpr hhigh)
    · exact hne harrived
    · exact hne hcopies
  · exact hbad.imp_left (fun hzero => Nat.lt_one_iff.mpr hzero)

theorem barArrive_present {rd n : Reg} {s : State} (hg : IsGroup s) (hn : n.toNat < (wgAt s (curHart s).wg).nbars) :
    let b := barAt s n.toNat
    (b.arrived ≠ b.expected → Quiet s → ((wgAt s (curHart s).wg).members.map Prod.snd).Nodup →
      ¬ WaitsOnBar s n.toNat b.phase s.cur →
      ∃ t, exec (.barArrive rd n) s = .next t ∧ t = { withBar s n.toNat (arrival b) with harts := t.harts } ∧
        WroteX (curHart s) (curHart t) rd (flag b.phase) (pcOf s + 4) ∧
        Releases s t (fun k => (arrival b).phase ≠ b.phase ∧ WaitsOnBar s n.toNat b.phase k)) ∧
    (b.arrived = b.expected → exec (.barArrive rd n) s = .next (trapCur s (barTrap n.toNat))) := by
  intro b
  have hexec := (exec_barArrive (a := rd) (b := n) s).trans (onBar_present (regs := [rd]) hg hn)
  refine ⟨fun hroom hq hmembers hself => ?_, fun hfull => hexec.trans (congrArg _ (if_pos hfull))⟩
  let b' : Bar := { b with arrived := b.arrived + 1 }
  let ks := lookedThrough b' ((wgAt s (curHart s).wg).members.map Prod.snd)
  have hks : ∀ k, (k ∈ ks ∧ (hartAt s k).wait = .bar n.toNat b.phase) ↔
      (arrival b).phase ≠ b.phase ∧ WaitsOnBar s n.toNat b.phase k := fun k => by
    rw [mem_lookedThrough, barSettle_arrived, and_assoc]; rfl
  obtain ⟨hrest, hwrote, hreleases⟩ := arrives_releasing (s := s) (b := withBar s n.toNat (arrival b))
    (ks := ks) (w := .bar n.toNat b.phase) rd (flag b.phase) rfl rfl rfl hq (nodup_lookedThrough hmembers)
    (fun hwaits => hself ((hks _).mp hwaits).2)
  refine ⟨_, hexec.trans (congrArg _ ((if_neg hroom).trans ?_)), hrest, hwrote, releases_of_iff hreleases hks⟩
  rw [Execution.afterRelease_quiet hq, settleBar_eq, barSettle_arrived]
  rfl

/-- Settles O19, by the four instructions' one check of the barrier's number and the waiters an arrival looks through. -/
theorem workgroupBarrierArrives : Obligations.WorkgroupBarrierArrives := by
  refine ⟨fun n rs1 s hg _ hn => barInit_present hg hn, fun rd n s hg _ hn => barArrive_present hg hn, ?_⟩
  intro rd n rs1 s hg _ hn i hi
  simp only [List.mem_cons, List.not_mem_nil, or_false] at hi
  obtain rfl | rfl | rfl | rfl := hi
  · exact (exec_barInit s).trans (onBar_missing hg hn)
  · exact (exec_barArrive s).trans (onBar_missing hg hn)
  · exact (exec_barWait s).trans (onBar_missing hg hn)
  · exact (exec_barQuery s).trans (onBar_missing hg hn)

/-- A wait whose phase has ended retires as an acquire; any other wait stands. -/
theorem phaseWait_cases {i : Instr} {s : State} {phase tok : Bool} {w : WaitOn} (hq : Quiet s)
    (hexec : exec i s = .next (phaseWait s phase tok w)) :
    (tok ≠ phase → Completes i s s (acquired true s (curHart s))) ∧
    (tok = phase → ∃ t, exec i s = .next t ∧ OnlyCur s t ∧ curHart t = { curHart s with run := .waitSync, wait := w }) := by
  refine ⟨fun hne => completes_of_retireCur (hexec.trans (congrArg _ ?_)) rfl rfl,
    fun heq => ⟨_, hexec.trans (congrArg _ ?_), onlyCur_waitCur s w⟩⟩
  · exact (if_pos (bne_iff_ne.mpr hne.symm)).trans (retire_acquireAll_quiet hq)
  · exact if_neg (by simp [heq])

theorem barrierWaitsForItsPhase : BarrierWaitsForItsPhase := by
  refine ⟨fun n rs1 s hg _ hn hq => ?_, fun n rs1 s hg _ hn hq => ?_⟩
  · obtain ⟨hends, hstands⟩ := phaseWait_cases hq ((exec_barWait (a := n) (b := rs1) s).trans (onBar_present hg hn))
    exact ⟨hends, fun heq => heq ▸ hstands heq⟩
  · obtain ⟨hends, hstands⟩ := phaseWait_cases hq ((exec_gbarWait (a := n) (b := rs1) s).trans (onGbar_present hg hn))
    exact ⟨hends, fun heq => heq ▸ hstands heq⟩

/-- The groups of a launch, which the end of a phase of one of its wire barriers looks through. -/
def launchGroups (s : State) (l : Nat) : List Nat := (s.harts.filter (fun e => e.2.lkey == l && !e.2.tasklet)).map (fun e => e.1)

theorem mem_of_tfind {α : Type} {t : Table α} {k : Nat} {a : α} (h : tfind t k = some a) : (k, a) ∈ t := by
  induction t with
  | nil => simp at h
  | cons e t ih =>
    rw [tfind] at h
    split at h
    · next hk => exact List.mem_cons.mpr (.inl (by rw [← hk, ← Option.some.inj h]))
    · exact List.mem_cons.mpr (.inr (ih h))

theorem tfind_of_mem {α : Type} {t : Table α} {k : Nat} {a : α} (ht : (t.map Prod.fst).Nodup) (h : (k, a) ∈ t) :
    tfind t k = some a := by
  induction t with
  | nil => simp at h
  | cons e t ih =>
    rw [List.map_cons, List.nodup_cons] at ht
    obtain rfl | htail := List.mem_cons.mp h
    · exact if_pos rfl
    · have hne : e.1 ≠ k := fun heq => ht.1 (heq ▸ List.mem_map_of_mem (f := Prod.fst) htail)
      exact (if_neg hne).trans (ih ht.2 htail)

/-- A group that waits is listed among the agents: an unlisted one waits for nothing. -/
theorem mem_launchGroups_of_waiting {s : State} {l k : Nat} (hharts : (s.harts.map Prod.fst).Nodup)
    (hwait : (hartAt s k).wait ≠ .nothing) :
    k ∈ launchGroups s l ↔ (hartAt s k).lkey = l ∧ (hartAt s k).tasklet = false := by
  have hlisted : (k, hartAt s k) ∈ s.harts := by
    cases hfind : tfind s.harts k with
    | none => exact absurd (by rw [hartAt, tget_eq_getD, hfind]; rfl) hwait
    | some h => exact mem_of_tfind (by rw [hfind, hartAt, tget_eq_getD, hfind]; rfl)
  simp only [launchGroups, List.mem_map, List.mem_filter, Bool.and_eq_true, beq_iff_eq, Bool.not_eq_true']
  constructor
  · rintro ⟨⟨j, h⟩, ⟨hmem, hmine⟩, rfl⟩
    have heq : h = hartAt s j := by
      rw [hartAt, tget_eq_getD, tfind_of_mem hharts hmem]; rfl
    exact heq ▸ hmine
  · exact fun hmine => ⟨_, ⟨hlisted, hmine⟩, rfl⟩

theorem nodup_launchGroups {s : State} {l : Nat} (hharts : (s.harts.map Prod.fst).Nodup) : (launchGroups s l).Nodup :=
  hharts.sublist (List.filter_sublist.map _)

theorem settleGbar_eq (s : State) (l n : Nat) (b : Bar) :
    settleGbar s l n b = releaseWaiters (modLaunch s l (fun l => { l with gbars := tput l.gbars n (barSettle b) }))
      (lookedThrough b (launchGroups s l)) (.gbar n b.phase) := by
  by_cases hphase : (barSettle b).phase = b.phase <;> simp [settleGbar, lookedThrough, hphase, releaseWaiters, launchGroups]

theorem wireBarrierArrives : WireBarrierArrives := by
  intro rd n s hg _ hn hq h b
  have hexec := (exec_gbarArrive (a := rd) (b := n) s).trans (onGbar_present (regs := [rd]) hg hn)
  refine ⟨fun hfirst hharts hself => ?_, fun hagain => hexec.trans (congrArg _ (if_pos hagain))⟩
  let c := barSettle (gbarArrived s h b)
  let u := modLaunch s h.lkey (fun l => { l with gbars := tput l.gbars n.toNat c })
  let ks := lookedThrough (gbarArrived s h b) (launchGroups s h.lkey)
  have hks : ∀ k, (k ∈ ks ∧ (hartAt s k).wait = .gbar n.toNat b.phase) ↔ c.phase ≠ b.phase ∧ WaitsOnGbar s n.toNat b.phase k := by
    intro k
    rw [mem_lookedThrough, and_assoc]
    refine and_congr_right fun _ => ?_
    rw [WaitsOnGbar, ← and_assoc]
    exact and_congr_left fun hwait => mem_launchGroups_of_waiting hharts (by rw [hwait]; exact nofun)
  obtain ⟨hrest, hwrote, hreleases⟩ := arrives_releasing (s := s) (b := u) (ks := ks) (w := .gbar n.toNat b.phase) rd (flag b.phase)
    rfl rfl rfl hq (nodup_lookedThrough (nodup_launchGroups hharts)) (fun hwaits => hself ((hks _).mp hwaits).2)
  refine ⟨_, hexec.trans (congrArg _ ((if_neg (by rw [hfirst]; exact nofun)).trans ?_)), hwrote, ?_, ?_⟩
  · rw [Execution.afterRelease_quiet hq, settleGbar_eq]
    rfl
  · rw [hrest]; rfl
  have hbar : gbarAt (retireX (releaseWaiters u ks (.gbar n.toNat b.phase)) rd (flag b.phase)) n.toNat = c := by
    have hkey : (curHart (retireX (releaseWaiters u ks (.gbar n.toNat b.phase)) rd (flag b.phase))).lkey = h.lkey := by
      rw [hwrote.2]
    rw [gbarAt, hkey, hrest]
    show tget {} (launchAt u h.lkey).gbars n.toNat = c
    rw [launchAt_modLaunch, tget_tput_same]
  rw [hbar]
  refine ⟨releases_of_iff hreleases hks, fun hmine hne => ?_, fun hmine hne => ?_, fun hmine heq hcopies => ?_⟩
  all_goals dsimp only [c, barSettle, gbarArrived]
  · rw [if_neg hmine, if_neg (fun hends => hne hends.1)]; exact ⟨rfl, rfl⟩
  · rw [if_pos hmine, if_neg (fun hends => hne hends.1)]; exact ⟨rfl, rfl⟩
  · rw [if_pos hmine, if_pos ⟨heq, hcopies⟩]; exact ⟨rfl, rfl⟩

/-- Settles O21, by the wait for a phase and the arrival at a wire barrier. -/
theorem barriersCountAndWait : Obligations.BarriersCountAndWait := ⟨barrierWaitsForItsPhase, wireBarrierArrives⟩

/-- The fields of the number that BAR.QUERY returns (07 R177). -/
theorem queryWord_fields {b : Bar} (hexpected : b.expected ≤ 16) (harrived : b.arrived ≤ 16) (hcopies : b.copies ≤ 63) :
    let v := dw (b.expected * 65536 + b.copies % 64 * 256 + b.arrived * 2 + (if b.phase then 1 else 0))
    bitsOf v 16 5 = b.expected ∧ bitsOf v 8 6 = b.copies ∧ bitsOf v 1 5 = b.arrived ∧ bitAt v 0 = b.phase ∧
      bitsOf v 6 2 = 0 ∧ bitsOf v 14 2 = 0 ∧ bitsOf v 21 43 = 0 := by
  intro v
  obtain ⟨p, hp, hphase⟩ : ∃ p < 2, (if b.phase then 1 else 0) = p ∧ b.phase = decide (p = 1) := by
    cases b.phase <;> simp
  have hv : v.toNat = b.expected * 65536 + b.copies * 256 + b.arrived * 2 + p := by
    simp only [v, toNat_dw, hphase.1]; omega
  have hbit : bitAt v 0 = b.phase := by
    rw [hphase.2, bitAt, ← BitVec.testBit_toNat, hv, Nat.testBit_zero]
    exact decide_eq_decide.mpr (by omega)
  simp only [bitsOf, field, hv]
  exact ⟨by omega, by omega, by omega, hbit, by omega, by omega, by omega⟩

/-- Settles O20, by the fields of BAR.QUERY's number and the barriers of an admitted workgroup. -/
theorem barQueryReportsBarrier : Obligations.BarQueryReportsBarrier := by
  refine ⟨fun rd n s hg _ hn hexpected harrived hcopies => ?_, fun s tile b first e n hn => ?_⟩
  · exact ⟨_, Csrs.retires_retireX ((exec_barQuery s).trans (onBar_present hg hn)), queryWord_fields hexpected harrived hcopies⟩
  · rw [Execution.wgAt_admitWg] at hn ⊢
    have hlisted : (n, ({ expected := (Execution.workgroupOf s tile b first e).size } : Bar)) ∈
        (Execution.workgroupOf s tile b first e).bars := List.mem_map.mpr ⟨n, List.mem_range.mpr hn, rfl⟩
    have hkeys : ((Execution.workgroupOf s tile b first e).bars.map Prod.fst).Nodup := by
      simp only [Execution.workgroupOf, List.map_map]
      exact (List.map_id _).symm ▸ List.nodup_range
    rw [tget_eq_getD, tfind_of_mem hkeys hlisted]
    rfl
end Barriers

end Sys2Proof.SyncEngines

namespace Sys2Proof.SyncEngines
open Sys2Proof Sys2Proof.Machine Sys2Proof.Laws Sys2Proof.Claims

/-! PROOF. The engines of 07: accumulator tile names, weight loads, limb binding and trace markers (07 R187–R190; 02 R50). -/

section TileNames
@[simp] theorem accSt_setAccSt (h : Hart) (n v q : Nat) : accSt (setAccSt h n v) q = if q = n then v else accSt h q := by
  simp only [accSt, setAccSt, tget_tset, eq_comm]

@[simp] theorem accSt_clearAcc (h : Hart) (n q : Nat) : accSt (clearAcc h n) q = accSt h q := rfl

@[simp] theorem getAcc_setAccSt (h : Hart) (n v q i l : Nat) : getAcc (setAccSt h n v) q i l = getAcc h q i l := rfl

/-- Clearing a tile zeroes its 8 × 128 elements alone. -/
theorem getAcc_clearAcc (h : Hart) (n q : Nat) {i l : Nat} (hi : i < 8) (hl : l < 128) :
    getAcc (clearAcc h n) q i l = if q = n then 0 else getAcc h q i l := by
  have hkey : (q * 1024 + i * 128 + l) / 1024 = q := by omega
  simp only [getAcc, clearAcc, tget_tfilter, hkey, bne_iff_ne, ite_not]

/-- A retirement after the state and the elements of one tile name changed. -/
theorem wroteAcc_of_changed {h g : Hart} {n st : Nat} {e : Nat → Nat → Word} (hst : ∀ q, accSt g q = if q = n then st else accSt h q)
    (hel : ∀ q i l, i < 8 → l < 128 → getAcc g q i l = if q = n then e i l else getAcc h q i l)
    (hrest : g = { h with accState := g.accState, acc := g.acc }) : WroteAcc h (retireHart g) n st e :=
  ⟨hst, hel, by rw [hrest]; rfl⟩

theorem wroteAcc_self (h : Hart) (n : Nat) : WroteAcc h (retireHart h) n (accSt h n) (getAcc h n) :=
  wroteAcc_of_changed (fun q => by split <;> simp_all) (fun q i l _ _ => by split <;> simp_all) rfl

theorem wroteAcc_clearAcc (h : Hart) (n : Nat) : WroteAcc h (retireHart (clearAcc h n)) n (accSt h n) (fun _ _ => 0) :=
  wroteAcc_of_changed (fun q => by rw [accSt_clearAcc]; split <;> simp_all) (fun q _ _ hi hl => getAcc_clearAcc h n q hi hl) rfl

/-- A name bound or unbound: its elements are zero. -/
theorem wroteAcc_setAccSt_clearAcc (h : Hart) (n st : Nat) :
    WroteAcc h (retireHart (setAccSt (clearAcc h n) n st)) n st (fun _ _ => 0) :=
  wroteAcc_of_changed (accSt_setAccSt _ n st) (fun q _ _ hi hl => getAcc_clearAcc h n q hi hl) rfl

theorem wroteAcc_clearAcc_bound (h : Hart) (n : Nat) :
    WroteAcc h (retireHart (clearAcc (setAccSt (clearAcc h n) n 1) n)) n 1 (fun _ _ => 0) := by
  refine wroteAcc_of_changed (accSt_setAccSt _ n 1) (fun q _ _ hi hl => ?_) rfl
  rw [getAcc_clearAcc _ n q hi hl, getAcc_setAccSt, getAcc_clearAcc _ n q hi hl]
  split <;> rfl

section Bind
variable {h : Hart} {n : Nat}

theorem bindName_of_bound (hst : accSt h n ≠ 0) : bindName h n = some h := if_pos hst

theorem bindName_of_room (hst : accSt h n = 0) (hroom : boundNames h < h.accQuota) :
    bindName h n = some (setAccSt (clearAcc h n) n 1) :=
  (if_neg (not_not.mpr hst)).trans (if_pos hroom)

theorem bindName_of_full (hst : accSt h n = 0) (hfull : h.accQuota ≤ boundNames h) : bindName h n = none :=
  (if_neg (not_not.mpr hst)).trans (if_neg (Nat.not_lt.mpr hfull))
end Bind

section Frame
variable {bits : DWord} {t : Reg} {s : State} {f : Hart → Option Hart} {i : Instr}

/-- On an idle tile name an instruction runs: it retires the group that it makes, or traps. -/
theorem accOp_idle (hg : IsGroup s) (hidle : AccIdle s t.toNat) : accOp bits t s f = .next (match f (curHart s) with
      | some h => retireCur s h
      | none => trapCur s { cause := 48, tval := BitVec.ofNat 64 t.toNat, detail := some t.toNat }) := by
  have hnofail : ¬ (curHart s).accFails.any (fun e => e.name == t.toNat) = true := by
    rw [List.any_eq_true]
    exact fun ⟨e, he, hname⟩ => hidle.1 e he (beq_iff_eq.mp hname)
  rw [accOp, Control.scalar_group hg]
  simp only [if_neg hnofail, if_neg hidle.2]
  rfl

theorem accOp_retires {g : Hart} {n st : Nat} {e : Nat → Nat → Word} (hexec : exec i s = accOp bits t s f) (hg : IsGroup s)
    (hidle : AccIdle s t.toNat) (hf : f (curHart s) = some g) (hwrote : WroteAcc (curHart s) (retireHart g) n st e) :
    ∃ u, exec i s = .next u ∧ OnlyCur s u ∧ WroteAcc (curHart s) (curHart u) n st e := by
  refine ⟨retireCur s g, by rw [hexec, accOp_idle hg hidle, hf], Control.onlyCur_retireCur s g, ?_⟩
  rwa [curHart_retireCur]

theorem accOp_traps (hexec : exec i s = accOp bits t s f) (hg : IsGroup s) (hidle : AccIdle s t.toNat) (hf : f (curHart s) = none) :
    exec i s = .next (trapCur s { cause := 48, tval := BitVec.ofNat 64 t.toNat, detail := some t.toNat }) := by
  rw [hexec, accOp_idle hg hidle, hf]
end Frame

/-- A digit in base 4 is not changed by what is added above it. -/
theorem digit_of_added {n m : Nat} (hn : n < m) (a c : Nat) : (a + c * 4 ^ m) / 4 ^ n % 4 = a / 4 ^ n % 4 := by
  obtain ⟨k, rfl⟩ := Nat.exists_eq_add_of_lt hn
  have hsplit : a + c * 4 ^ (n + k + 1) = a + 4 ^ n * (4 * (c * 4 ^ k)) := by ring
  rw [hsplit, Nat.add_mul_div_left _ _ (Nat.pow_pos (by decide)), Nat.add_mul_mod_self_left]

/-- Two bits per number, packed from bit 0 up: the sum stays below its width and shows each number in its place. -/
theorem packed_digits {f : Nat → Nat} (hf : ∀ n, f n ≤ 2) (m : Nat) :
    let p := (List.range m).foldl (fun a n => a + f n * 2 ^ (2 * n)) 0
    p < 4 ^ m ∧ ∀ n < m, p / 4 ^ n % 4 = f n := by
  induction m with
  | zero => simp
  | succ m ih =>
    obtain ⟨hlt, hdigits⟩ := ih
    have hfm := hf m
    simp only [List.range_succ, List.foldl_append, List.foldl_cons, List.foldl_nil]
    generalize (List.range m).foldl (fun a n => a + f n * 2 ^ (2 * n)) 0 = p at hlt hdigits
    rw [show 2 ^ (2 * m) = 4 ^ m by rw [Nat.pow_mul]]
    refine ⟨?_, fun n hn => ?_⟩
    · rw [Nat.pow_succ]; nlinarith
    · obtain hlow | rfl := Nat.lt_succ_iff_lt_or_eq.mp hn
      · rw [digit_of_added hlow, hdigits n hlow]
      · rw [Nat.add_mul_div_right _ _ (Nat.pow_pos (by decide)), Nat.div_eq_of_lt hlt]
        omega

/-- The fields of the number that ACC.QUERY returns (07 R188). -/
theorem accQueryWord_fields {f : Nat → Nat} {pool quota : Nat} (hf : ∀ n, f n ≤ 2) (hpool : pool ≤ 16) (hquota : quota ≤ 16) :
    let v := dw (pool * 2 ^ 40 + quota * 2 ^ 32 + (List.range 16).foldl (fun a n => a + f n * 2 ^ (2 * n)) 0)
    bitsOf v 32 8 = quota ∧ bitsOf v 40 8 = pool ∧ ∀ n < 16, bitsOf v (2 * n) 2 = f n := by
  intro v
  obtain ⟨hlt, hdigits⟩ := packed_digits hf 16
  have hv : v.toNat = (List.range 16).foldl (fun a n => a + f n * 2 ^ (2 * n)) 0 + (pool * 256 + quota) * 4 ^ 16 := by
    rw [toNat_dw]; omega
  simp only [bitsOf, field, hv]
  refine ⟨by omega, by omega, fun n hn => ?_⟩
  rw [Nat.pow_mul]
  exact (digit_of_added hn _ _).trans (hdigits n hn)

theorem tilePool_le (s : State) (h : Hart) : tilePool s h ≤ 16 := Nat.sub_le _ _

theorem tileNamesBindAndClear : TileNamesBindAndClear := by
  refine ⟨fun t s hg _ hidle => ?_, fun rd s hg hst hquota => ?_⟩
  · have hget := exec_accGet (a := t) s
    have hput := exec_accPut (a := t) s
    have hzero := exec_accZero (a := t) s
    refine ⟨fun hbound => ⟨?_, ?_⟩, fun hfree hroom => ⟨?_, ?_⟩, fun hfree hfull => ⟨?_, ?_⟩, ?_⟩
    · exact accOp_retires hget hg hidle (bindName_of_bound hbound) (wroteAcc_self _ _)
    · exact accOp_retires hzero hg hidle (congrArg _ (bindName_of_bound hbound)) (wroteAcc_clearAcc _ _)
    · exact accOp_retires hget hg hidle (bindName_of_room hfree hroom) (wroteAcc_setAccSt_clearAcc _ _ _)
    · exact accOp_retires hzero hg hidle (congrArg _ (bindName_of_room hfree hroom)) (wroteAcc_clearAcc_bound _ _)
    · exact accOp_traps hget hg hidle (bindName_of_full hfree hfull)
    · exact accOp_traps hzero hg hidle (congrArg _ (bindName_of_full hfree hfull))
    · exact accOp_retires hput hg hidle rfl (wroteAcc_setAccSt_clearAcc _ _ _)
  · exact ⟨_, Csrs.retires_retireX ((exec_accQuery s).trans (Control.scalar_group hg)),
      accQueryWord_fields hst (tilePool_le _ _) hquota⟩
end TileNames

section WeightLoads
theorem flushIf_quiet {s : State} (hq : Quiet s) (p : Req → Bool) : flushIf p s = (s, true) :=
  flushIf_none fun r hr => absurd hr (by rw [hq.1]; exact List.not_mem_nil)

/-- Without copies and initialisations nothing holds a read. -/
theorem heldRead_idle {s : State} (hcopies : s.copies = []) (hinits : s.mem.inits = []) (l : Loc) (n : Nat) :
    heldRead s l n = false := by
  have hnone : ownedByCopy s l n = false := by rw [ownedByCopy, hcopies]; rfl
  have hopen : initBusy s.mem l = false := by
    unfold initBusy
    split
    · rw [hinits]; rfl
    · rfl
  rw [heldRead, hnone, hopen]
  rfl

/-- With no write travelling, no copy and no initialisation under way, and every span's route open, an MLD is not held. -/
theorem spans_free {s : State} (hq : Quiet s) (hcopies : s.copies = []) (hinits : s.mem.inits = []) {spans : List (Loc × Nat)}
    (hrouted : ∀ b ∈ spans, Routed s b.1) :
    ¬ spans.any (fun b => heldRead s b.1 b.2 || unanswered s s.cur b.1 b.2) = true := by
  rw [List.any_eq_true]
  rintro ⟨b, hb, hheld⟩
  rw [heldRead_idle hcopies hinits, unanswered_none _ _ _ hq.1 (hrouted b hb)] at hheld
  exact Bool.noConfusion hheld

theorem weightLoadFillsSlot : WeightLoadFillsSlot := by
  intro slot imm rs1 s hg _ o w key
  have hexec := (exec_mld (a := slot) (b := imm) (c := rs1) s).trans (Control.scalar_group hg)
  refine ⟨fun t hcheck => ?_, fun hcheck hq hcopies hinits hrouted => ?_⟩
  · rw [hexec]
    exact congrArg Host.Outcome.next (by simp only [o, w, xs, sx] at hcheck; simp only [sext12, hcheck])
  · let s' := { s with wslots := tput s.wslots key (mldSlot s (curHart s) w o.toNat) }
    let u := count s' 1 (curHart s).tile (subcoreOf (curHart s).slot) 3 1
    have hrun : exec (.mld slot imm rs1) s = .next (retire u) := by
      rw [hexec]
      refine congrArg Host.Outcome.next ?_
      simp only [o, w, xs, sx] at hcheck
      simp only [sext12, hcheck]
      rw [flushIf_quiet hq]
      exact if_neg (spans_free hq hcopies hinits hrouted)
    have hslot : ∀ k, wslotAt (retire u) k = wslotAt s' k := fun k => rfl
    refine ⟨_, hrun, ?_, fun k hk => ?_, ?_, ?_⟩
    · rw [hslot]; exact tget_tput_same _ _ _ _
    · rw [hslot]; exact tget_tput_ne _ _ _ hk.symm
    · rw [curHart_retire]
      exact congrArg retireHart (Execution.hartAt_count _ _ _ _ _ _ _)
    · rfl
end WeightLoads

section LimbsAndMarks
theorem limbsBindAndMarks : LimbsBindAndMarks := by
  refine ⟨fun n s hg _ => ⟨fun hwhole => ?_, fun j hn hj hmixed hlow => ?_⟩, fun n s => ?_⟩
  · refine completes_of_retireCur ((exec_lbind s).trans ((Control.scalar_group hg).trans ?_)) rfl rfl
    rw [Control.partialSeg_whole hwhole]
  · rw [exec_lbind, execLbind, Control.scalar_group hg,
      Control.partialSeg_lowest (fun hzero => hn (BitVec.eq_of_toNat_eq hzero)) hj hmixed hlow]
    rfl
  · have hcur : (traceEvent s s.cur (.mark n.toNat)).cur = s.cur := traceEvent_cur _ _ _
    have hharts : (traceEvent s s.cur (.mark n.toNat)).harts = s.harts := traceEvent_harts _ _ _
    refine completes_of_retireCur ((exec_mark s).trans ((scalar_runs fun _ => ⟨rfl, fun _ hr => absurd hr List.not_mem_nil⟩).trans ?_)) hcur hharts
    rw [retire, modCur, modHart, retireCur, setCur, hcur, hartAt, hharts]
    rfl
end LimbsAndMarks

/-- Settles O24, by the cases of a tile name's state, the unheld weight load, and the segments of EM. -/
theorem slotsTilesAndLimbsAreBound : Obligations.SlotsTilesAndLimbsAreBound :=
  ⟨weightLoadFillsSlot, tileNamesBindAndClear, limbsBindAndMarks⟩

end Sys2Proof.SyncEngines

namespace Sys2Proof.SyncEngines
open Sys2Proof Sys2Proof.Machine Sys2Proof.Laws Sys2Proof.Claims

/-! PROOF. The copy instructions: the cached copies that a CPY drops as it issues, and the order of its checks (07 R181, R182; 14 R327). -/

section Drops
/-- A state with other cached copies. -/
def withCopies (s : State) (x : List SCopy) : State := { s with mem := { s.mem with copies := x } }

/-- `t` is `s` without the cached copies that `p` names. -/
def Drops (s t : State) (p : SCopy → Prop) : Prop :=
  t = withCopies s t.mem.copies ∧ ∀ d, d ∈ t.mem.copies ↔ d ∈ s.mem.copies ∧ ¬ p d

theorem drops_nothing (s : State) : Drops s s (fun _ => False) := ⟨rfl, fun _ => by simp⟩

theorem drops_of_iff {s t : State} {p q : SCopy → Prop} (h : Drops s t p) (hpq : ∀ d, p d ↔ q d) : Drops s t q :=
  (funext fun d => propext (hpq d) : p = q) ▸ h

/-- A run of drops drops what any of them drops. -/
theorem drops_foldl {α : Type} {f : State → α → State} {p : α → SCopy → Prop} {s : State}
    (hf : ∀ x a, Drops (withCopies s x) (f (withCopies s x) a) (p a)) (l : List α) :
    Drops s (l.foldl f s) (fun d => ∃ a ∈ l, p a d) := by
  suffices hrun : ∀ x, Drops (withCopies s x) (l.foldl f (withCopies s x)) (fun d => ∃ a ∈ l, p a d) from hrun s.mem.copies
  induction l with
  | nil => exact fun x => drops_of_iff (drops_nothing _) (fun d => by simp)
  | cons a l ih =>
    intro x
    obtain ⟨hfirst, hkept⟩ := hf x a
    obtain ⟨hrest, hleft⟩ := ih (f (withCopies s x) a).mem.copies
    have hstate : f (withCopies s x) a = withCopies s (f (withCopies s x) a).mem.copies := hfirst
    rw [List.foldl_cons, hstate]
    refine ⟨hrest, fun d => (hleft d).trans ?_⟩
    rw [show (withCopies s (f (withCopies s x) a).mem.copies).mem.copies = (f (withCopies s x) a).mem.copies from rfl, hkept]
    simp only [List.exists_mem_cons_iff, not_or, and_assoc]

/-- A core's cached copies of the lines of `n` bytes of main memory from `a`. -/
def OnLines (tile a n : Nat) (d : SCopy) : Prop := d.holder / 16 = tile ∧ a / 64 ≤ d.line ∧ d.line ≤ (a + n - 1) / 64

/-- A write of `n` bytes at a place drops its core's cached copies of their lines, where the place is main memory. -/
theorem drops_dropCopies (s : State) (tile : Nat) (l : Loc) (n : Nat) :
    Drops s (dropCopies s tile l n) (fun d => ∃ a, l = .mem a ∧ OnLines tile a n d) := by
  cases l with
  | mem a =>
    refine ⟨rfl, fun d => ?_⟩
    simp only [dropCopies, modMem, List.mem_filter, OnLines, Loc.mem.injEq, exists_eq_left', Bool.not_eq_true', Bool.and_eq_false_iff,
      beq_eq_false_iff_ne, decide_eq_false_iff_not]
    exact and_congr_right fun _ => (not_and_or (a := d.holder / 16 = tile)).symm
  | _ => exact drops_of_iff (drops_nothing s) (fun d => by simp)

/-- What one piece of a destination row drops. -/
def PieceDrops (s : State) (c : Copy) (q : Nat × Nat × Nat) (d : SCopy) : Prop :=
  ∃ l a, locate s (copyCtx s c) c.lkey false .store .copy (dw q.1) 4 = .ok l ∧ l.loc = .mem a ∧ OnLines c.tile a q.2.1 d

theorem drops_piece (s : State) (c : Copy) (q : Nat × Nat × Nat) :
    Drops s (match locate s (copyCtx s c) c.lkey false .store .copy (dw q.1) 4 with
      | .ok l => dropCopies s c.tile l.loc q.2.1
      | .error _ => s) (PieceDrops s c q) := by
  cases hloc : locate s (copyCtx s c) c.lkey false .store .copy (dw q.1) 4 with
  | error e => exact drops_of_iff (drops_nothing s) (fun d => by simp [PieceDrops, hloc])
  | ok l => exact drops_of_iff (drops_dropCopies s _ _ _) (fun d => by simp [PieceDrops, hloc])

/-- A CPY drops what the pieces of its destination rows name: where an access goes does not depend on what is cached, so every piece is
located as in the state before the first drop. -/
theorem drops_issueDrops (s : State) (c : Copy) :
    Drops s (issueDrops s c) (fun d => ∃ r ∈ List.range (shRows c.shape),
      ∃ q ∈ copyPieces (rowDst c r) (rowLen s c r), PieceDrops s c q d) :=
  drops_foldl (p := fun r d => ∃ q ∈ copyPieces (rowDst c r) (rowLen s c r), PieceDrops s c q d)
    (fun x r => drops_foldl (p := PieceDrops s c) (fun y q => by exact drops_piece (withCopies s y) c q) _) _

/-- As it issues, a copy drops the cached copies of its target lines. -/
theorem issueDrops_target {s t : State} {c : Copy} (ht : t.mem = (issueDrops s { c with pals := s.pal }).mem) : DropsTarget s t c := by
  obtain ⟨hrest, hkept⟩ := drops_issueDrops s { c with pals := s.pal }
  refine ⟨by rw [ht, hrest]; rfl, fun d => ?_⟩
  rw [ht, hkept]
  refine and_congr_right fun _ => not_congr ⟨?_, ?_⟩
  · rintro ⟨r, hr, q, hq, l, a, hl, hloc, htile, hlines⟩
    exact ⟨htile, r, List.mem_range.mp hr, q, hq, l, a, hl, hloc, hlines⟩
  · rintro ⟨htile, r, hr, q, hq, l, a, hl, hloc, hlines⟩
    exact ⟨r, List.mem_range.mpr hr, q, hq, l, a, hl, hloc, htile, hlines⟩
end Drops

section Issue
/-- The entry that a core's next copy takes, where its cluster's queue has room for it. -/
theorem cpyEntry_eq_some {s : State} {j : Nat} : cpyEntry s (curHart s).tile = some j ↔ QueueRoom s j := by
  rw [QueueRoom, cpyEntry]
  by_cases hfull : 40 ≤ ((clusterCopies s (clusterOf (curHart s).tile)).filter (fun e => e.2.tile == (curHart s).tile)).length
  · simp [hfull]
  · simp [hfull, Nat.lt_of_not_le hfull]

theorem cpyEntry_eq_none {s : State} (h : ∀ j, ¬ QueueRoom s j) : cpyEntry s (curHart s).tile = none :=
  Option.eq_none_iff_forall_ne_some.mpr fun j hj => h j (cpyEntry_eq_some.mp hj)

/-- The state in which the copy stands in entry `k` of its queue and its group waits for ownership, from a state with what was dropped. -/
def enqueued (u : State) (wg : Nat) (b : Bar) (c : Copy) (k : Nat) : State :=
  modCur (putBar (bumpSeq (setCopy u k c)) wg c.bar { b with copies := b.copies + 1 })
    (fun h => { h with run := .waitDep, wait := .copyOwn k })
/-- The state in which a legal copy has issued: what it drops, its queue entry and its group's wait. -/
def queueCopy (s : State) (c : Copy) (k : Nat) : State :=
  enqueued (if c.form = 2 then s else issueDrops s { c with pals := s.pal }) (curHart s).wg (barAt s c.bar) c k

section Checks
variable {bits : DWord} {form : Nat} {bar rs1 rs2 rs3 : Reg} {s : State}

/-- Check 3 of R182, which CPY.PF has not. -/
def formRegion (s : State) (form : Nat) (rs1 rs2 rs3 : Reg) : Option Trap :=
  if form = 2 then none else copyRegion s (curHart s) form (xs s rs1) (xs s rs2) (xs s rs3)

theorem formRegion_eq : (if form = 2 then none else copyRegion s (curHart s) form ((curHart s).getX rs1)
    ((curHart s).getX (cpyDst form rs2)) ((curHart s).getX rs3)) = formRegion s form rs1 rs2 rs3 := by
  by_cases hform : form = 2 <;> simp [formRegion, cpyDst, hform, xs]

theorem cpyOp_illegal (hg : IsGroup s) (hillegal : ¬ CopyLegal s form rs1 rs2 rs3) :
    cpyOp bits form bar rs1 (cpyDst form rs2) rs3 s = .next (trapCur s (illegal (xs s rs3))) := by
  rw [cpyOp, Control.scalar_group hg]
  refine congrArg _ (if_pos ?_)
  rw [CopyLegal, not_and_or] at hillegal
  rw [Bool.or_eq_true, Bool.not_eq_true', Bool.not_eq_true', ← Bool.not_eq_true, ← Bool.not_eq_true]
  exact hillegal

/-- The first check passes. -/
theorem not_illegal_of_legal (hlegal : CopyLegal s form rs1 rs2 rs3) :
    ¬ (!shapeOk form (xs s rs3) ||
      !copyAligned form (xs s rs1) (xs s (cpyDst form rs2)) (xs s rs3) ((curHart s).getC 0x807)) = true := by
  rw [hlegal.1, hlegal.2]
  exact Bool.false_ne_true

section Legal
variable (hg : IsGroup s) (hlegal : CopyLegal s form rs1 rs2 rs3)
include hg hlegal

/-- After the first check, the region check, the barrier's number and the queue decide. -/
theorem cpyOp_region {t : Trap} (hregion : formRegion s form rs1 rs2 rs3 = some t) :
    cpyOp bits form bar rs1 (cpyDst form rs2) rs3 s = .next (trapCur s t) := by
  rw [cpyOp, Control.scalar_group hg]
  refine congrArg _ ((if_neg (not_illegal_of_legal hlegal)).trans ?_)
  simp only [formRegion_eq, hregion]

theorem cpyOp_missing (hregion : formRegion s form rs1 rs2 rs3 = none) (hbar : (wgAt s (curHart s).wg).nbars ≤ bar.toNat) :
    cpyOp bits form bar rs1 (cpyDst form rs2) rs3 s = .next (trapCur s (barTrap bar.toNat)) := by
  rw [cpyOp, Control.scalar_group hg]
  refine congrArg _ ((if_neg (not_illegal_of_legal hlegal)).trans ?_)
  simp only [formRegion_eq, hregion, if_pos hbar]
  rfl

theorem cpyOp_full (hregion : formRegion s form rs1 rs2 rs3 = none) (hbar : bar.toNat < (wgAt s (curHart s).wg).nbars)
    (hfull : ∀ j, ¬ QueueRoom s j) : cpyOp bits form bar rs1 (cpyDst form rs2) rs3 s = .next (heldCur s .copyQueue) := by
  rw [cpyOp, Control.scalar_group hg]
  refine congrArg _ ((if_neg (not_illegal_of_legal hlegal)).trans ?_)
  simp only [formRegion_eq, hregion, if_neg (Nat.not_le.mpr hbar), cpyEntry_eq_none hfull]

theorem cpyOp_queued {j : Nat} (hregion : formRegion s form rs1 rs2 rs3 = none) (hbar : bar.toNat < (wgAt s (curHart s).wg).nbars)
    (hroom : QueueRoom s j) (hq : Quiet s) : cpyOp bits form bar rs1 (cpyDst form rs2) rs3 s =
      .next (queueCopy s (copyEntry s form bar rs1 rs2 rs3) (clusterOf (curHart s).tile * 64 + j)) := by
  rw [cpyOp, Control.scalar_group hg]
  refine congrArg _ ((if_neg (not_illegal_of_legal hlegal)).trans ?_)
  simp only [formRegion_eq, hregion, if_neg (Nat.not_le.mpr hbar), cpyEntry_eq_some.mpr hroom, Execution.flushAgent_quiet hq]
  rfl
end Legal
end Checks

theorem curHart_enqueued (u : State) (wg : Nat) (b : Bar) (c : Copy) (k : Nat) :
    curHart (enqueued u wg b c k) = { curHart u with run := .waitDep, wait := .copyOwn k } := hartAt_modHart _ _ _

theorem hartAt_enqueued_ne (u : State) (wg : Nat) (b : Bar) (c : Copy) (k : Nat) {g : Nat} (hg : g ≠ u.cur) :
    hartAt (enqueued u wg b c k) g = hartAt u g := hartAt_modCur_ne _ _ hg

/-- A queued copy changes its entry, its barrier's count, its group's wait and what its core has cached. -/
theorem queueCopy_effect (s : State) (c : Copy) (k : Nat) :
    curHart (queueCopy s c k) = { curHart s with run := .waitDep, wait := .copyOwn k } ∧
      (∀ g, g ≠ s.cur → hartAt (queueCopy s c k) g = hartAt s g) ∧
      queueCopy s c k = { withBar s c.bar { barAt s c.bar with copies := (barAt s c.bar).copies + 1 } with
            copies := tput s.copies k c, harts := (queueCopy s c k).harts, seqNo := s.seqNo + 1, mem := (queueCopy s c k).mem } ∧
      (c.form = 2 → (queueCopy s c k).mem = s.mem) ∧ (c.form ≠ 2 → DropsTarget s (queueCopy s c k) c) := by
  obtain ⟨x, hx⟩ : ∃ x, (if c.form = 2 then s else issueDrops s { c with pals := s.pal }) = withCopies s x := by
    split
    · exact ⟨s.mem.copies, rfl⟩
    · exact ⟨_, (drops_issueDrops s { c with pals := s.pal }).1⟩
  have hstate : queueCopy s c k = enqueued (withCopies s x) (curHart s).wg (barAt s c.bar) c k := by rw [queueCopy, hx]
  have hmem : (queueCopy s c k).mem = (withCopies s x).mem := by rw [hstate]; rfl
  refine ⟨?_, fun g hg => ?_, ?_, fun hform => ?_, fun hform => issueDrops_target ?_⟩
  · rw [hstate]; exact curHart_enqueued _ _ _ _ _
  · rw [hstate]; exact hartAt_enqueued_ne _ _ _ _ _ hg
  · rw [hstate]; rfl
  · rw [hmem, ← hx, if_pos hform]
  · rw [hmem, ← hx, if_neg hform]

/-- A wait in the issue stage changes the run state and what is waited for, of the current agent alone. -/
theorem onlyCur_heldCur (s : State) (w : WaitOn) :
    OnlyCur s (heldCur s w) ∧ curHart (heldCur s w) = { curHart s with run := .waitDep, wait := w } :=
  ⟨⟨rfl, fun _ hk => hartAt_modCur_ne s _ hk, fun _ _ => rfl⟩, curHart_heldCur s w⟩

/-- Each queued form runs the common frame. -/
theorem exec_cpyForms {e : Nat × (Reg → Reg → Reg → Reg → Instr)} (he : e ∈ cpyForms) (bar rs1 rs2 rs3 : Reg) (s : State) :
    exec (e.2 bar rs1 rs2 rs3) s = cpyOp (insnBits (e.2 bar rs1 rs2 rs3)) e.1 bar rs1 (cpyDst e.1 rs2) rs3 s := by
  simp only [cpyForms, List.mem_cons, List.not_mem_nil, or_false] at he
  obtain rfl | rfl | rfl := he
  · exact exec_cpy s
  · exact exec_cpyRs s
  · exact exec_cpyPf s

/-- Settles O23, by the checks in their order and the effect of the queued copy. -/
theorem copiesAreQueued : Obligations.CopiesAreQueued := by
  intro e he bar rs1 rs2 rs3 s hg _ i region
  have hexec : exec i s = _ := exec_cpyForms he bar rs1 rs2 rs3 s
  refine ⟨fun hillegal => hexec.trans (cpyOp_illegal hg hillegal), fun t hlegal hregion => hexec.trans (cpyOp_region hg hlegal hregion),
    fun hlegal hregion hbar => hexec.trans (cpyOp_missing hg hlegal hregion hbar),
    fun j hlegal hregion hbar hroom hq => ?_, fun hlegal hregion hbar hfull => ?_⟩
  · exact ⟨_, hexec.trans (cpyOp_queued hg hlegal hregion hbar hroom hq), queueCopy_effect s (copyEntry s e.1 bar rs1 rs2 rs3) _⟩
  · exact ⟨_, hexec.trans (cpyOp_full hg hlegal hregion hbar hfull), onlyCur_heldCur s .copyQueue⟩
end Issue

end Sys2Proof.SyncEngines

namespace Sys2Proof.SyncEngines
open Sys2Proof Sys2Proof.Machine Sys2Proof.Laws Sys2Proof.Claims

/-! PROOF. Reservation queues: granting, joining, passing on, and what a write's marks leave of them (07 R170–R172). -/

section Grants
theorem readLoc_toNat_mod (s : State) (l : Loc) (n : Nat) : (readLoc s.mem l n).toNat = homeValue s l n % 2 ^ 64 :=
  BitVec.toNat_ofNat _ 64

/-- What an LRW of a word or a dword returns. -/
theorem extS_readLoc (s : State) (l : Loc) {n : Nat} (hn : n = 4 ∨ n = 8) : extS n (readLoc s.mem l n) = signed n (homeValue s l n) := by
  have hdvd : 2 ^ (8 * n) ∣ 2 ^ 64 := Nat.pow_dvd_pow 2 (by omega)
  rw [extS, sextFrom, signed, readLoc_toNat_mod]
  congr 1
  exact BitVec.eq_of_toNat_eq (by rw [BitVec.toNat_ofNat, BitVec.toNat_ofNat, Nat.mod_mod_of_dvd _ hdvd])

/-- The queues after the first waiter of the dword's became its holder. -/
def grantedQueues (s : State) (d : Nat) (r : Resv) (rest : List Resv) : List ResvQ :=
  s.mem.resvs.map (fun q => if q.dword == d then
    { q with holder := some { r with since := s.clk, broken := false }, waiters := rest } else q)

/-- The first waiter of a queue has become its holder and its LRW has retired with the value at the home; nothing else has changed but
what caches and slices keep and count. -/
structure Grants (s t : State) (d : Nat) (r : Resv) (rest : List Resv) : Prop where
  others : t = { s with harts := t.harts, mem := t.mem, counters := t.counters }
  counts : SliceCounts s t
  bytes : Outside.contents t.mem = Outside.contents s.mem
  queues : t.mem.resvs = grantedQueues s d r rest
  holder : hartAt t r.agent =
    wakeHart ((acquired true s (hartAt s r.agent)).setX r.rd (signed r.width (homeValue s (.mem r.addr) r.width)))
  agents : ∀ k, k ≠ r.agent → hartAt t k = hartAt s k

theorem grants_first {s : State} {d d' : Nat} {r : Resv} {rest : List Resv}
    (hqueue : resvQueue s.mem d = some { dword := d', holder := none, waiters := r :: rest }) (hq : Quiet s)
    (hwidth : r.width = 4 ∨ r.width = 8) (hheld : heldRead s (.mem r.addr) r.width = false)
    (hroute : dropped s (hartAt s r.agent).actsFor (hartAt s r.agent).tile (.mem r.addr) = false) :
    Grants s (grantResv s d) d r rest := by
  let u := modMem s (fun m => { m with resvs := grantedQueues s d r rest })
  let w := l2Span u r.addr r.width
  have hw : ∀ {α : Type} (f : State → α), (∀ s u, f (withSlicesOf s u) = f u) → f w = f u := fun f hf => l2Span_part f hf u _ _
  have hwnet : w.mem.net = [] := (l2Span_net u _ _).trans hq.1
  have hwfar : w.mem.farOut = [] := (hw (fun t => t.mem.farOut) (fun _ _ => rfl)).trans hq.2
  have hwharts : w.harts = s.harts := l2Span_harts u _ _
  have hwclk : w.clk = s.clk := hw State.clk (fun _ _ => rfl)
  have hwat : ∀ k, hartAt w k = hartAt s k := fun k => by rw [hartAt, hwharts]; rfl
  have htick : leaseTick w = leaseTick s := by rw [leaseTick, hwclk]; rfl
  let g : Hart := wakeHart ((acquired true s (hartAt s r.agent)).setX r.rd (signed r.width (homeValue s (.mem r.addr) r.width)))
  have hgrant : grantResv s d = setHart w r.agent g := by
    unfold grantResv
    simp only [hqueue, hheld, unanswered_none r.agent (.mem r.addr) r.width hq.1 hroute, Bool.or_false, Bool.false_eq_true, if_false,
      extS_readLoc s (.mem r.addr) hwidth]
    show modHart (acquireAll w r.agent) r.agent _ = _
    rw [acquireAll_none r.agent hwnet hwfar]
    show setHart (setHart w r.agent _) r.agent (wakeHart ((hartAt (setHart w r.agent _) r.agent).setX _ _)) = _
    rw [setHart_setHart, hartAt_setHart, hwat, htick]
    rfl
  rw [hgrant]
  refine ⟨?_, Outside.sliceCounts_l2Span u _ _, ?_, hw (fun t => t.mem.resvs) (fun _ _ => rfl), hartAt_setHart w _ g, fun k hk => ?_⟩
  · have hrest := hw (fun t => { t with mem := {}, counters := [] }) (fun _ _ => rfl)
    exact congrArg (fun t => { t with harts := tput w.harts r.agent g, mem := w.mem, counters := w.counters }) hrest
  · exact Outside.contents_l2Span u _ _
  · exact (hartAt_setHart_ne w g (Ne.symm hk)).trans (hwat k)
end Grants

section Queues
/-- A queue after an agent gave up what it holds or awaits. -/
def released (k : Nat) (q : ResvQ) : ResvQ :=
  { q with
    holder := (match q.holder with
      | some r => if r.agent == k then none else some r
      | none => none),
    waiters := q.waiters.filter (fun r => r.agent != k) }

theorem mem_releaseResv {s : State} {k : Nat} {q : ResvQ} (h : q ∈ (releaseResv s k).mem.resvs) : ∃ p ∈ s.mem.resvs, released k p = q :=
  List.mem_map.mp (List.mem_of_mem_filter h)

theorem length_releaseResv_le (s : State) (k : Nat) : (releaseResv s k).mem.resvs.length ≤ s.mem.resvs.length :=
  (List.length_filter_le _ _).trans (List.length_map _).le

/-- A queue with another holder, in which the agent does not wait, stays. -/
theorem releaseResv_other {s : State} {k : Nat} {q : ResvQ} {r : Resv} (hqueues : s.mem.resvs = [q]) (hholder : q.holder = some r)
    (hne : r.agent ≠ k) (hwaiters : ∀ w ∈ q.waiters, w.agent ≠ k) : (releaseResv s k).mem.resvs = [q] := by
  have hkept : released k q = q := by
    have hfilter : q.waiters.filter (fun r => r.agent != k) = q.waiters :=
      List.filter_eq_self.mpr fun w hw => by simpa using hwaiters w hw
    obtain ⟨d, holder, waiters⟩ := q
    simp_all [released]
  show (s.mem.resvs.map (released k)).filter _ = [q]
  rw [hqueues, List.map_singleton, hkept]
  simp [hholder]

/-- An agent without a queue for its dword gets one of its own, where the dword's home has room. -/
theorem joinQueue_new {m : Mem} {r : Resv} (hnone : ∀ q ∈ m.resvs, q.dword ≠ r.addr / 8) (hroom : m.resvs.length < 32) :
    joinQueue m r = some { m with resvs := m.resvs ++ [{ dword := r.addr / 8, waiters := [r] }] } := by
  have hqueue : resvQueue m (r.addr / 8) = none := List.find?_eq_none.mpr fun q hq => by simpa using hnone q hq
  have hhome : (m.resvs.filter (fun q => homeOf (q.dword * 8) == homeOf r.addr)).length < 32 :=
    (List.length_filter_le _ _).trans_lt hroom
  simp only [joinQueue, hqueue, if_pos hhome]

theorem joinQueue_behind {m : Mem} {r : Resv} {q : ResvQ} (hqueues : m.resvs = [q]) (hdword : q.dword = r.addr / 8)
    (hroom : q.waiters.length < 32) : joinQueue m r = some { m with resvs := [{ q with waiters := q.waiters ++ [r] }] } := by
  have hqueue : resvQueue m (r.addr / 8) = some q := by simp [resvQueue, hqueues, hdword]
  simp only [joinQueue, hqueue, if_pos hroom, hqueues, List.map_singleton, hdword, beq_self_eq_true, if_true]

/-- The queue of a dword is the one just listed for it, where none was before. -/
theorem resvQueue_append_new {m : Mem} {d : Nat} {q : ResvQ} {l : List ResvQ} (hm : m.resvs = l ++ [q]) (hnone : ∀ p ∈ l, p.dword ≠ d)
    (hd : q.dword = d) : resvQueue m d = some q := by
  have hfirst : l.find? (fun q => q.dword == d) = none := List.find?_eq_none.mpr fun p hp => by simpa using hnone p hp
  simp [resvQueue, hm, List.find?_append, hfirst, hd]

/-- The holder of a queue holds the reservation of its span. -/
theorem holdsResv_of_granted {s t : State} {d : Nat} {r : Resv} {rest : List Resv} {q : ResvQ}
    (hqueues : t.mem.resvs = grantedQueues s d r rest) (hqueue : resvQueue s.mem d = some q) (hd : r.addr / 8 = d) :
    holdsResv t.mem r.agent r.addr r.width = true := by
  have hdword : q.dword = d := by simpa using List.find?_some hqueue
  have hnew : resvQueue t.mem d = some { q with holder := some { r with since := s.clk, broken := false }, waiters := rest } := by
    rw [resvQueue, hqueues, grantedQueues, List.find?_map]
    have hsame : (fun q : ResvQ => q.dword == d) ∘ (fun q => if q.dword == d then
        { q with holder := some { r with since := s.clk, broken := false }, waiters := rest } else q) = fun q => q.dword == d := by
      funext p
      simp only [Function.comp]
      split <;> rfl
    rw [hsame, show s.mem.resvs.find? (fun q => q.dword == d) = some q from hqueue]
    simp [hdword]
  simp [holdsResv, hd, hnew]
end Queues

section Access
/-- An access that reaches its place meets no held table entry. -/
theorem walkWaits_of_located {s : State} {c : Ctx} {lkey n : Nat} {tasklet : Bool} {acc : Acc} {cls : Cls} {va : DWord} {l : Located}
    (hlocate : locate s c lkey tasklet acc cls va n = .ok l) : walkWaits s c lkey acc va = false := by
  have haligned : ¬ (va.toNat % n != 0) = true := fun hodd => by simp [locate, hodd] at hlocate
  rw [locate, if_neg haligned] at hlocate
  rw [walkWaits, walkHeld]
  cases hwindow : windowOff s lkey va.toNat with
  | some o => rfl
  | none =>
    cases hxlate : xlate s c acc va.toNat with
    | ok x => rfl
    | error e => simp [hwindow, hxlate] at hlocate

theorem accessAt_reaches {s : State} {acc : Acc} {cls : Cls} {va : DWord} {n : Nat} {l : Located} (hreach : ReachesAt s acc cls va n l)
    (f : State → Located → State) : accessAt s (curHart s) acc cls va n f = f (l.note s) l := by
  obtain ⟨hlocate, hhome, hloads⟩ := hreach
  have hpending : loadPending (curHart s) l.loc n = false := List.any_eq_false.mpr fun p hp => by simp [hloads p hp]
  simp only [accessAt, accessIn, walkWaits_of_located hlocate, hlocate, hhome, hpending, Bool.and_false, Bool.false_eq_true, if_false]

/-- A group, and a tasklet that names x0 to x10, runs its instruction. -/
theorem scalar_mayRun {bits : DWord} {regs : List Reg} {s : State} {f : Hart → State} (h : MayRun s regs) :
    scalar bits true regs s f = .next (f (curHart s)) :=
  scalar_runs fun ht => ⟨rfl, fun r hr => h ht r hr⟩
end Access

section Lrw
/-- A state with other walks and other queues. -/
def withQueues (s : State) (w : List Walk) (x : List ResvQ) : State := { s with mem := { s.mem with walks := w, resvs := x } }

theorem releaseResv_note (s : State) (l : Located) (k : Nat) :
    releaseResv (l.note s) k = withQueues s (l.note s).mem.walks (releaseResv s k).mem.resvs :=
  congrArg (releaseResv · k) (Execution.note_rest l s)

/-- The place that an LRW takes in the queue of its dword. -/
def lrwPlace (s : State) (rd rs1 : Reg) (a n : Nat) : Resv :=
  { agent := s.cur, addr := a, width := n, rd := rd, since := s.clk, va := xs s rs1 }

/-- An LRW whose home core has room waits in its queue, which then grants where it can. -/
theorem lrw_joins {e : (Reg → Reg → Instr) × Nat} (he : e ∈ lrwTable) {rd rs1 : Reg} {s : State} {l : Located} {a : Nat}
    (hmay : MayRun s [rd, rs1]) (hreach : ReachesAt s .load .lrw (xs s rs1) e.2 l) (hloc : l.loc = .mem a) (hq : Quiet s)
    {y : List ResvQ} (hjoin : ∀ m : Mem, m.resvs = (releaseResv s s.cur).mem.resvs →
      joinQueue m (lrwPlace s rd rs1 a e.2) = some { m with resvs := y }) :
    exec (e.1 rd rs1) s = .next (grantResv (waitCur (withQueues s (l.note s).mem.walks y) .lrw) (a / 8)) := by
  have hexec : exec (e.1 rd rs1) s = lrwOp (insnBits (e.1 rd rs1)) rd rs1 e.2 s := by
    simp only [lrwTable, List.mem_cons, List.not_mem_nil, or_false] at he
    obtain rfl | rfl := he
    · exact exec_lrwW s
    · exact exec_lrwD s
  let u := withQueues s (l.note s).mem.walks (releaseResv s s.cur).mem.resvs
  have hflush : flushWord u s.cur (.mem a) e.2 = (u, true) :=
    flushWord_none _ _ fun r hr => absurd hr (by rw [show u.mem.net = [] from hq.1]; exact List.not_mem_nil)
  have hplace : joinQueue u.mem { agent := u.cur, addr := a, width := e.2, rd := rd, since := u.clk, va := (curHart s).getX rs1 } = _ :=
    hjoin u.mem rfl
  have hcur : (l.note s).cur = s.cur := by rw [Execution.note_rest]
  rw [hexec, lrwOp, scalar_mayRun hmay]
  refine congrArg _ ((accessAt_reaches hreach _).trans ?_)
  simp only [hloc, hcur, releaseResv_note]
  rw [hflush]
  dsimp only
  rw [hplace]
  rfl

theorem wakeHart_setX {h : Hart} (hrun : h.run ≠ .stopped) (rd : Reg) (v : DWord) : wakeHart (h.setX rd v) = retireHart (h.setX rd v) :=
  Execution.wakeHart_running (by unfold Hart.setX; split <;> exact hrun)

theorem width_of_mem_lrwTable {e : (Reg → Reg → Instr) × Nat} (he : e ∈ lrwTable) : e.2 = 4 ∨ e.2 = 8 := by
  simp only [lrwTable, List.mem_cons, List.not_mem_nil, or_false] at he
  obtain rfl | rfl := he
  · exact .inl rfl
  · exact .inr rfl

theorem lrw_granted {e : (Reg → Reg → Instr) × Nat} (he : e ∈ lrwTable) {rd rs1 : Reg} {s : State} {l : Located} {a : Nat}
    (hmay : MayRun s [rd, rs1]) (hreach : ReachesAt s .load .lrw (xs s rs1) e.2 l) (hloc : l.loc = .mem a) (hq : Quiet s)
    (hheld : heldRead s l.loc e.2 = false) (hfree : ∀ q ∈ s.mem.resvs, q.dword ≠ a / 8) (hroom : s.mem.resvs.length < 32)
    (hroute : Routed s l.loc) :
    ∃ t, exec (e.1 rd rs1) s = .next t ∧ Elsewhere s t ∧ SameBytes s t ∧ holdsResv t.mem s.cur a e.2 = true ∧
      WroteX (acquired true s (curHart s)) (curHart t) rd (signed e.2 (homeValue s l.loc e.2)) (pcOf s + 4) := by
  rw [hloc] at hheld hroute ⊢
  let r := lrwPlace s rd rs1 a e.2
  let x := (releaseResv s s.cur).mem.resvs
  let q : ResvQ := { dword := a / 8, waiters := [r] }
  have hnone : ∀ p ∈ x, p.dword ≠ a / 8 := fun p hp => by
    obtain ⟨p', hp', rfl⟩ := mem_releaseResv hp
    exact hfree p' hp'
  have hexec := lrw_joins he hmay hreach hloc hq (y := x ++ [q]) fun m hm => by
    have hjoin := joinQueue_new (m := m) (r := r) (by rw [hm]; exact hnone)
      (by rw [hm]; exact (length_releaseResv_le s s.cur).trans_lt hroom)
    rw [hm] at hjoin
    exact hjoin
  let b := waitCur (withQueues s (l.note s).mem.walks (x ++ [q])) .lrw
  have hme : hartAt b s.cur = { curHart s with run := .waitSync, wait := .lrw } := curHart_waitCur _ _
  have hqueue : resvQueue b.mem (a / 8) = some { dword := a / 8, holder := none, waiters := [r] } :=
    resvQueue_append_new (l := x) rfl hnone rfl
  have hfree' : heldRead b (.mem r.addr) r.width = false := hheld
  have hroute' : dropped b (hartAt b s.cur).actsFor (hartAt b s.cur).tile (.mem a) = false := by
    rw [hme]
    show dropped b (curHart s).actsFor (curHart s).tile (.mem a) = false
    exact (Execution.dropped_congr (s := s) (t := b) rfl rfl _ _ _).trans hroute
  have hgrants : Grants b (grantResv b (a / 8)) (a / 8) r [] :=
    grants_first hqueue hq (width_of_mem_lrwTable he) hfree' hroute'
  obtain ⟨hothers, hcounts, hbytes, hqueues, hholder, hagents⟩ := hgrants
  generalize grantResv b (a / 8) = t at hexec hothers hcounts hbytes hqueues hholder hagents
  have hcur : curHart t = hartAt t s.cur := by rw [curHart, hothers]; rfl
  refine ⟨t, hexec, ⟨by rw [hothers]; rfl, hcounts, fun k hk => (hagents k hk).trans (hartAt_modCur_ne _ _ hk)⟩,
    Outside.sameBytes_of_contents hbytes, holdsResv_of_granted hqueues hqueue rfl, ?_⟩
  rw [hcur, show hartAt t s.cur = _ from hholder, show hartAt b r.agent = _ from hme, wakeHart_setX (by exact nofun)]
  exact Execution.wroteX_retireHart _ _ _

theorem lrw_waits {e : (Reg → Reg → Instr) × Nat} (he : e ∈ lrwTable) {rd rs1 : Reg} {s : State} {l : Located} {a : Nat}
    (hmay : MayRun s [rd, rs1]) (hreach : ReachesAt s .load .lrw (xs s rs1) e.2 l) (hloc : l.loc = .mem a) (hq : Quiet s)
    {q : ResvQ} {r : Resv} (hqueues : s.mem.resvs = [q]) (hdword : q.dword = a / 8) (hholder : q.holder = some r)
    (hother : r.agent ≠ s.cur) (hroom : q.waiters.length < 32) (hwaiters : ∀ w ∈ q.waiters, w.agent ≠ s.cur) :
    ∃ t w, exec (e.1 rd rs1) s = .next t ∧ Elsewhere s t ∧ SameBytes s t ∧ t.mem.resvs = [{ q with waiters := q.waiters ++ [w] }] ∧
      w.agent = s.cur ∧ w.addr = a ∧ w.width = e.2 ∧ w.rd = rd ∧ curHart t = { curHart s with run := .waitSync, wait := .lrw } := by
  let w := lrwPlace s rd rs1 a e.2
  let y : List ResvQ := [{ q with waiters := q.waiters ++ [w] }]
  have hexec := lrw_joins he hmay hreach hloc hq (y := y) fun m hm =>
    joinQueue_behind (r := w) (hm.trans (releaseResv_other hqueues hholder hother hwaiters)) hdword hroom
  let b := waitCur (withQueues s (l.note s).mem.walks y) .lrw
  have hqueue : resvQueue b.mem (a / 8) = some { dword := q.dword, holder := some r, waiters := q.waiters ++ [w] } := by
    rw [← hholder]
    exact List.find?_cons_of_pos (by simpa using hdword)
  have hstays : grantResv b (a / 8) = b := by
    unfold grantResv
    rw [hqueue]
  exact ⟨b, w, by rw [hexec, show grantResv _ _ = b from hstays], ⟨rfl, fun _ _ => rfl, fun k hk => hartAt_modCur_ne _ _ hk⟩,
    Outside.sameBytes_of_contents rfl, rfl, rfl, rfl, rfl, rfl, curHart_waitCur _ _⟩

theorem lrwReservesInOrder : LrwReservesInOrder := by
  intro e he rd rs1 s l a hmay hreach hloc hq hheld
  exact ⟨lrw_granted he hmay hreach hloc hq hheld,
    fun q r hqueues hdword hholder hother hroom hwaiters =>
      lrw_waits he hmay hreach hloc hq hqueues hdword hholder hother hroom hwaiters⟩
end Lrw

section Passing
/-- A queue after its holder passed the reservation of dword `d` on. -/
def passed (k d : Nat) (q : ResvQ) : ResvQ :=
  match q.holder with
  | some r => if q.dword == d && r.agent == k then { q with holder := none } else q
  | none => q

theorem resvs_passResv (s : State) (k d : Nat) :
    (passResv s k d).mem.resvs = (s.mem.resvs.map (passed k d)).filter (fun q => q.holder.isSome || !q.waiters.isEmpty) := rfl

/-- After an agent passed its reservation on, it holds no queue of the dword. -/
theorem holder_of_mem_passResv {s : State} {k d : Nat} {q : ResvQ} {r : Resv} (hq : q ∈ (passResv s k d).mem.resvs) (hd : q.dword = d)
    (hr : q.holder = some r) : r.agent ≠ k := by
  rw [resvs_passResv] at hq
  obtain ⟨p, -, rfl⟩ := List.mem_map.mp (List.mem_of_mem_filter hq)
  rintro rfl
  cases hp : p.holder with
  | none => simp [passed, hp] at hr
  | some r' =>
    by_cases hmine : p.dword = d ∧ r'.agent = r.agent
    · simp [passed, hp, hmine] at hr
    · have hkept : passed r.agent d p = p := by
        rw [passed, hp]
        exact if_neg (by simpa using hmine)
      rw [hkept] at hd hr
      exact hmine ⟨hd, by rw [hp] at hr; rw [Option.some.inj hr]⟩

/-- The one queue of the package, passed on, stands without a holder for its waiters, or is gone without any. -/
theorem passResv_single {s : State} {q : ResvQ} {r : Resv} (hqueues : s.mem.resvs = [q]) (hholder : q.holder = some r) :
    (q.waiters = [] → (passResv s r.agent q.dword).mem.resvs = []) ∧
    (q.waiters ≠ [] → (passResv s r.agent q.dword).mem.resvs = [{ q with holder := none }]) := by
  have hpassed : passed r.agent q.dword q = { q with holder := none } := by simp [passed, hholder]
  rw [resvs_passResv, hqueues, List.map_singleton, hpassed]
  exact ⟨fun hnone => by simp [hnone], fun hsome => by simp [hsome]⟩
end Passing

section Marks
theorem bumpVers_part {α : Type} (f : Mem → α) (hf : ∀ m v, f { m with vers := v } = f m) (m : Mem) (a n : Nat) :
    f (bumpVers m a n) = f m := by
  unfold bumpVers
  generalize List.range _ = l
  induction l generalizing m with
  | nil => rfl
  | cons i l ih => exact (ih _).trans (hf _ _)

theorem tagWritten_part {α : Type} (f : Mem → α) (hf : ∀ m v x, f { m with ver1 := v, tagXor := x } = f m) (s : State) (m : Mem)
    (a n : Nat) : f (tagWritten s m a n) = f m := by
  unfold tagWritten
  generalize granulesOf a n = l
  induction l generalizing m with
  | nil => rfl
  | cons g l ih => exact (ih _).trans (hf _ _ _)

/-- A queue after a write by `k` to `n` bytes from `a`: the reservation of another agent on a span that it meets is broken (07 R171). -/
def marked (k a n : Nat) (q : ResvQ) : ResvQ :=
  { q with holder := q.holder.map (fun h => if h.agent != k && ranges a n h.addr h.width then { h with broken := true } else h) }

theorem resvs_storedAt (s : State) (k a : Nat) (bs : List Byte) :
    (Outside.storedAt s k a bs).mem.resvs = s.mem.resvs.map (marked k a bs.length) := by
  refine (l2Span_part (fun t => t.mem.resvs) (fun _ _ => rfl) _ _ _).trans ?_
  refine (bumpVers_part Mem.resvs (fun _ _ => rfl) _ _ _).trans ?_
  exact congrArg (List.map _) (tagWritten_part Mem.resvs (fun _ _ _ => rfl) s _ _ _)

theorem lrs_storedAt (s : State) (k a : Nat) (bs : List Byte) :
    (Outside.storedAt s k a bs).mem.lrs = s.mem.lrs.filter (fun r => r.hart == k || !ranges a bs.length r.addr r.size) := by
  refine (l2Span_part (fun t => t.mem.lrs) (fun _ _ => rfl) _ _ _).trans ?_
  refine (bumpVers_part Mem.lrs (fun _ _ => rfl) _ _ _).trans ?_
  exact congrArg (List.filter _) (tagWritten_part Mem.lrs (fun _ _ _ => rfl) s _ _ _)

/-- An agent's own write leaves its own reservation unbroken. -/
theorem marked_own {k a n : Nat} {q : ResvQ} {r : Resv} (hholder : q.holder = some r) (hown : r.agent = k) : marked k a n q = q := by
  obtain ⟨d, holder, waiters⟩ := q
  simp_all [marked]
end Marks

section Sch
/-- A state with other walks and other cached copies. -/
def withCached (s : State) (w : List Walk) (c : List SCopy) : State := { s with mem := { s.mem with walks := w, copies := c } }

theorem note_cached (l : Located) (s : State) : l.note s = withCached s (l.note s).mem.walks s.mem.copies := Execution.note_rest l s

theorem leBytes_mod (n v : Nat) : leBytes n (v % 2 ^ (8 * n)) = leBytes n v := by
  induction n generalizing v with
  | zero => rfl
  | succ n ih =>
    have hpow : 2 ^ (8 * (n + 1)) = 256 * 2 ^ (8 * n) := by rw [Nat.mul_succ, Nat.pow_add]; ring
    have hlow : BitVec.ofNat 8 (v % 2 ^ (8 * (n + 1))) = BitVec.ofNat 8 v := by
      refine BitVec.eq_of_toNat_eq ?_
      rw [BitVec.toNat_ofNat, BitVec.toNat_ofNat, hpow]
      exact Nat.mod_mul_right_mod v 256 _
    rw [leBytes, leBytes, hlow, hpow, Nat.mod_mul_right_div_self, ih]

theorem schResult_eq (h : Hart) (rd : Reg) (ok : Bool) : schResult h rd ok = schHart h rd ok := by
  cases ht : h.tasklet <;> by_cases hrd : rd = 0 <;> simp [schResult, schHart, flag, ht, hrd]

/-- A reservation of exactly this span is held in the queue of its dword. -/
theorem queue_of_holdsResv {m : Mem} {k a n : Nat} (h : holdsResv m k a n = true) :
    ∃ q r, resvQueue m (a / 8) = some q ∧ q.holder = some r ∧ r.agent = k := by
  rw [holdsResv] at h
  split at h
  next d r waiters hqueue =>
    simp only [Bool.and_eq_true, beq_iff_eq] at h
    obtain ⟨⟨⟨hagent, -⟩, -⟩, -⟩ := h
    exact ⟨_, r, hqueue, rfl, hagent⟩
  next => exact absurd h Bool.false_ne_true

theorem withCached_of_dropCopies (s : State) (w : List Walk) (p : Prop) [Decidable p] (tile a n : Nat) :
    ∃ c, (if p then dropCopies (withCached s w s.mem.copies) tile (.mem a) n else withCached s w s.mem.copies) = withCached s w c := by
  split
  · exact ⟨_, rfl⟩
  · exact ⟨_, rfl⟩

/-- What an SCH leaves besides its queue and its agent: the write where its reservation stands, no write where it does not. -/
def schWritten (s u : State) (a n : Nat) (v : DWord) : State :=
  if holdsResv s.mem s.cur a n then Outside.storedAt u s.cur a (leBytes n v.toNat) else u

section Frame
variable {e : (Reg → Reg → Reg → Instr) × Nat} {rd rs1 rs2 : Reg} {s : State} {l : Located} {a : Nat} (he : e ∈ schTable)
  (hmay : MayRun s [rd, rs1, rs2]) (hanswers : AnswersAt s .store .lrw (xs s rs1) e.2 l) (hloc : l.loc = .mem a) (hq : Quiet s)
include he hmay hanswers hloc hq

/-- An SCH, its write unheld, passes its reservation on and answers whether it stood. -/
theorem sch_answers (hwritable : holdsResv s.mem s.cur a e.2 = true → Writable s s.cur l.loc e.2) :
    ∃ w c, exec (e.1 rd rs1 rs2) s = .next (modCur (passResv (schWritten s (withCached s w c) a e.2 (xs s rs2)) s.cur (a / 8))
      (fun h => retireHart (schResult h rd (holdsResv s.mem s.cur a e.2)))) := by
  obtain ⟨hreach, hroute⟩ : ReachesAt s .store .lrw ((curHart s).getX rs1) e.2 l ∧ Routed s l.loc := hanswers
  have hexec : exec (e.1 rd rs1 rs2) s = schOp (insnBits (e.1 rd rs1 rs2)) rd rs1 rs2 e.2 s := by
    simp only [schTable, List.mem_cons, List.not_mem_nil, or_false] at he
    obtain rfl | rfl := he
    · exact exec_schW s
    · exact exec_schD s
  rw [hloc] at hwritable
  obtain ⟨w, hnote⟩ : ∃ w, l.note s = withCached s w s.mem.copies := ⟨_, note_cached l s⟩
  obtain ⟨c, hc⟩ := withCached_of_dropCopies s w (l.mode = 1) (curHart s).tile a e.2
  have hquiet : Quiet (withCached s w s.mem.copies) := hq
  have hdropped : dropped (withCached s w s.mem.copies) (curHart s).actsFor (curHart s).tile (.mem a) = false := by
    rw [← hloc]
    exact (Execution.dropped_congr (s := s) (t := withCached s w s.mem.copies) rfl rfl _ _ _).trans hroute
  have hmem : holdsResv (withCached s w s.mem.copies).mem (withCached s w s.mem.copies).cur a e.2 = holdsResv s.mem s.cur a e.2 := rfl
  rw [hexec, schOp, scalar_mayRun hmay, accessAt_reaches hreach, hnote]
  simp only [hloc, Execution.afterRelease_quiet hquiet, hdropped, hmem, schWritten, Bool.false_eq_true, if_false]
  cases hholds : holdsResv s.mem s.cur a e.2 with
  | false => exact ⟨w, s.mem.copies, rfl⟩
  | true =>
    refine ⟨w, c, ?_⟩
    simp only [if_true, hc]
    have hw : Writable (withCached s w c) (withCached s w c).cur (.mem a) e.2 := hwritable hholds
    rw [Outside.homeWriteN_writable _ hw]
    dsimp only
    rw [show (Outside.storedAt (withCached s w c) (withCached s w c).cur a _).cur = s.cur by rw [Outside.storedAt_rest]; rfl]
    rfl
end Frame

/-- An SCH's answer changes memory, what slices and channels count, and its own agent. -/
theorem elsewhere_answered {s u : State} (hrest : u = { s with mem := u.mem, counters := u.counters }) (hcounts : SliceCounts s u)
    (d : Nat) (f : Hart → Hart) :
    let t := modCur (passResv u s.cur d) f
    Elsewhere s t ∧ curHart t = f (curHart s) ∧ t.mem = (passResv u s.cur d).mem := by
  have hcur : u.cur = s.cur := by rw [hrest]
  have hharts : u.harts = s.harts := by rw [hrest]
  have hat : ∀ k, hartAt (passResv u s.cur d) k = hartAt s k := fun k => by rw [hartAt, hartAt, ← hharts]; rfl
  refine ⟨⟨by rw [hrest]; rfl, hcounts, fun k hk => ?_⟩, ?_, rfl⟩
  · exact (hartAt_modCur_ne (passResv u s.cur d) f (by rw [show (passResv u s.cur d).cur = s.cur from hcur]; exact hk)).trans (hat k)
  · refine (hartAt_modHart _ _ _).trans (congrArg f ?_)
    rw [hat, show (passResv u s.cur d).cur = s.cur from hcur]
    rfl

section Outcome
variable {e : (Reg → Reg → Reg → Instr) × Nat} {rd rs1 rs2 : Reg} {s : State} {l : Located} {a : Nat} (he : e ∈ schTable)
  (hmay : MayRun s [rd, rs1, rs2]) (hanswers : AnswersAt s .store .lrw (xs s rs1) e.2 l) (hloc : l.loc = .mem a) (hq : Quiet s)

/-- The package's one queue, after the write of its holder that passes the reservation on. -/
theorem passResv_storedAt_single {u : State} {n : Nat} {bs : List Byte} (hsame : u.mem.resvs = s.mem.resvs)
    (hholds : holdsResv s.mem s.cur a n = true) {q : ResvQ} (hqueues : s.mem.resvs = [q]) :
    let t := passResv (Outside.storedAt u s.cur a bs) s.cur (a / 8)
    (q.waiters = [] → t.mem.resvs = []) ∧ (q.waiters ≠ [] → t.mem.resvs = [{ q with holder := none }]) := by
  obtain ⟨q', r, hqueue, hholder, hagent⟩ := queue_of_holdsResv hholds
  obtain rfl : q' = q := by simpa [hqueues] using List.mem_of_find?_eq_some hqueue
  have hdword : q'.dword = a / 8 := by simpa using List.find?_some hqueue
  have hkept : (Outside.storedAt u s.cur a bs).mem.resvs = [q'] := by
    rw [resvs_storedAt, hsame, hqueues, List.map_singleton, marked_own hholder hagent]
  have hpassed := passResv_single hkept hholder
  rw [hagent] at hpassed
  rw [← hdword]
  exact hpassed

include he hmay hanswers hloc hq

theorem sch_succeeds (hholds : holdsResv s.mem s.cur a e.2 = true) (hwritable : Writable s s.cur l.loc e.2) :
    ∃ t, exec (e.1 rd rs1 rs2) s = .next t ∧ Elsewhere s t ∧ WroteBytes s t l.loc e.2 ((xs s rs2).toNat % 2 ^ (8 * e.2)) ∧
      RetiredAs (curHart t) (schHart (curHart s) rd true) ∧
      (∀ q ∈ t.mem.resvs, q.dword = a / 8 → ∀ r, q.holder = some r → r.agent ≠ s.cur) ∧
      ∀ q, s.mem.resvs = [q] →
        (q.waiters = [] → t.mem.resvs = []) ∧ (q.waiters ≠ [] → t.mem.resvs = [{ q with holder := none }]) := by
  obtain ⟨w, c, hexec⟩ := sch_answers (rd := rd) (rs2 := rs2) he hmay hanswers hloc hq fun _ => hwritable
  let u := Outside.storedAt (withCached s w c) s.cur a (leBytes e.2 (xs s rs2).toNat)
  have hwrote : schWritten s (withCached s w c) a e.2 (xs s rs2) = u := if_pos hholds
  rw [hwrote, hholds] at hexec
  have hrest : u = { s with mem := u.mem, counters := u.counters } := Outside.storedAt_rest (withCached s w c) s.cur a _
  have hcounts : SliceCounts s u := Outside.sliceCounts_storedAt (withCached s w c) s.cur a _
  obtain ⟨helsewhere, hme, hmem⟩ := elsewhere_answered hrest hcounts (a / 8) (fun h => retireHart (schResult h rd true))
  refine ⟨_, hexec, helsewhere, ?_, ?_, fun q hlisted hd r hr => holder_of_mem_passResv (hmem ▸ hlisted) hd hr, fun q hqueues => ?_⟩
  · rw [hloc]
    refine Outside.wroteBytes_mem ?_
    rw [hmem, leBytes_mod]
    exact Outside.contents_storedAt _ _ _ _
  · rw [hme, schResult_eq]
    rfl
  · rw [hmem]
    exact passResv_storedAt_single (u := withCached s w c) rfl hholds hqueues

theorem sch_fails (hlost : holdsResv s.mem s.cur a e.2 = false) :
    ∃ t, exec (e.1 rd rs1 rs2) s = .next t ∧ Elsewhere s t ∧ SameBytes s t ∧ RetiredAs (curHart t) (schHart (curHart s) rd false) ∧
      ∀ q ∈ t.mem.resvs, q.dword = a / 8 → ∀ r, q.holder = some r → r.agent ≠ s.cur := by
  obtain ⟨w, c, hexec⟩ := sch_answers (rd := rd) (rs2 := rs2) he hmay hanswers hloc hq
    fun hholds => Bool.noConfusion (hlost.symm.trans hholds)
  have hwrote : schWritten s (withCached s w c) a e.2 (xs s rs2) = withCached s w c := if_neg (by rw [hlost]; exact Bool.false_ne_true)
  rw [hwrote, hlost] at hexec
  obtain ⟨helsewhere, hme, hmem⟩ := elsewhere_answered (s := s) (u := withCached s w c) rfl (fun _ _ => rfl) (a / 8)
    (fun h => retireHart (schResult h rd false))
  refine ⟨_, hexec, helsewhere, Outside.sameBytes_of_contents rfl, ?_, fun q hlisted hd r hr => holder_of_mem_passResv (hmem ▸ hlisted) hd hr⟩
  rw [hme, schResult_eq]
  rfl
end Outcome

theorem schNeedsItsReservation : SchNeedsItsReservation :=
  fun _ he _ _ _ _ _ _ hmay hanswers hloc hq => ⟨sch_succeeds he hmay hanswers hloc hq, sch_fails he hmay hanswers hloc hq⟩
end Sch

/-- Settles O17, by the queues that an LRW joins and the reservation that an SCH asks for and passes on. -/
theorem orderedReservationsGuardStores : Obligations.OrderedReservationsGuardStores :=
  ⟨lrwReservesInOrder, schNeedsItsReservation⟩

end Sys2Proof.SyncEngines

namespace Sys2Proof.SyncEngines
open Sys2Proof Sys2Proof.Machine Sys2Proof.Laws Sys2Proof.Claims

/-! PROOF. How reservation queues advance, and what an LR holds back (07 R170–R172; 14 R320, R321). -/

section Landing
variable {α : Type} (f : Hart → α) (hf : ∀ h v em m x csr, f { h with v := v, em := em, m := m, x := x, csr := csr } = f h)
include hf

/-- A written lane result changes lane registers, masks, an x register and flags alone. -/
theorem landOne_part (h : Hart) (p : Pending) : f (landOne h p) = f h := by
  have hwords : f (p.vs.foldl (fun h (r, l, w) => h.setV r l w) h) = f h := by
    generalize p.vs = vs
    induction vs generalizing h with
    | nil => rfl
    | cons e vs ih => exact (ih _).trans (hf h _ h.em h.m h.x h.csr)
  have hmask : ∀ (g : Hart) n v, f (g.setM n v) = f g := fun g n v => by
    unfold Hart.setM
    split
    · exact hf g g.v _ g.m g.x g.csr
    · exact hf g g.v g.em _ g.x g.csr
  have hreg : ∀ (g : Hart) r v, f (g.setX r v) = f g := fun g r v => by
    unfold Hart.setX
    split
    · rfl
    · exact hf g g.v g.em g.m _ g.csr
  have hflags : ∀ (g : Hart) fl, f (accrue g fl) = f g := fun g fl => by
    rw [Execution.accrue_rest]
    exact hf g g.v g.em g.m g.x _
  unfold landOne
  split
  · rfl
  · dsimp only
    rw [hflags]
    split <;> split <;> simp only [hreg, hmask, hwords]

theorem landAll_part (hpend : ∀ h p, f { h with pend := p } = f h) (h : Hart) : f (landAll h) = f h := by
  have hlanded : ∀ (l : List Pending) (g : Hart), f (l.foldl landOne g) = f g := fun l => by
    induction l with
    | nil => exact fun _ => rfl
    | cons p l ih => exact fun g => (ih _).trans (landOne_part f hf g p)
  exact (hpend _ _).trans (hlanded _ _)
end Landing

section Timeout
/-- What a trap leaves of its group, whose lane results are written first (12 R274). -/
theorem takeTrapAt_landed {s : State} {k : Nat} (t : Trap) (tgt : Target) (hfe : (hartAt s k).laneFe = none)
    (hcopy : ∀ c, (hartAt s k).wait ≠ .copyOwn c) :
    hartAt (takeTrapAt s k t tgt none) k = { enterTrap (landAll (hartAt s k)) t tgt none with
      laneQ := [], laneWait := .nothing, iss := {}, wait := .nothing, run := .ready, pauseTo := 0, bounces := 0, indiv := false } := by
  have hhart : hartAt (withdraw s k) k = hartAt s k := by rw [hartAt, withdraw_harts hcopy]; rfl
  have hlanded : (landAll (hartAt s k)).laneFe = none := (landAll_part Hart.laneFe (fun _ _ _ _ _ _ => rfl) (fun _ _ => rfl) _).trans hfe
  unfold takeTrapAt
  simp only [hhart, settleLaneFe_none hlanded]
  exact hartAt_setHart _ k _

theorem traceAt_mem (s : State) (k : Nat) (pc : DWord) (ev : TraceEv) : (traceAt s k pc ev).mem = s.mem := by
  unfold traceAt; split <;> rfl

theorem takeTrapAt_mem (s : State) (k : Nat) (t : Trap) (tgt : Target) (e : Option LaneEntry) :
    (takeTrapAt s k t tgt e).mem = (withdraw s k).mem := traceAt_mem _ _ _ _

/-- A trap withdraws what its group has parked, its places in queues and its LR reservations. -/
theorem withdraw_mem {s : State} {k : Nat} (hcopy : ∀ c, (hartAt s k).wait ≠ .copyOwn c) :
    (withdraw s k).mem = { (leaveQueue s k).mem with
      parks := s.mem.parks.filter (fun p => p.agent != k), lrs := s.mem.lrs.filter (fun r => r.hart != k) } := by
  unfold withdraw
  rw [withdrawCopy_none (s := leaveQueue s k) hcopy]
  exact rest_ite State.mem _ _ _ _ rfl rfl

/-- An agent that left its queue waits in none. -/
theorem waiters_of_mem_leaveQueue {s : State} {k : Nat} {v : ResvQ} {w : Resv} (hv : v ∈ (leaveQueue s k).mem.resvs) (hw : w ∈ v.waiters) :
    w.agent ≠ k := by
  obtain ⟨q, -, rfl⟩ := List.mem_map.mp (List.mem_of_mem_filter (show v ∈ (s.mem.resvs.map _).filter _ from hv))
  simpa using List.of_mem_filter hw

theorem enterTrap_m_csr (h : Hart) (t : Trap) : ∃ g : Hart, (enterTrap h t .m none).csr =
    (((((g.setC 0x341 h.pc).setC 0x342 (causeWord t.intr t.cause)).setC 0x343 t.tval).setC 0x34B (t.gpa >>> 2)).setC 0x34A t.inst).csr := by
  unfold enterTrap
  exact ⟨_, rfl⟩

/-- The machine's registers after a trap that it receives. -/
theorem enterTrap_m_records (h : Hart) (t : Trap) :
    let g := enterTrap h t .m none
    g.getC 0x342 = causeWord t.intr t.cause ∧ g.getC 0x343 = t.tval ∧ g.getC 0x341 = h.pc ∧ g.priv = .m := by
  obtain ⟨g, hcsr⟩ := enterTrap_m_csr h t
  have hget : ∀ n, (enterTrap h t .m none).getC n = Hart.getC _ n := fun n => congrArg (tget 0 · n) hcsr
  simp [hget, getC_setC]

/-- FE_TIMEOUT of a plain group. -/
theorem takeTrap_timedOut {s : State} {k : Nat} {t : Trap} (hplain : PlainGroup s k) (hcause : t.cause = 30) (hintr : t.intr = false) :
    TimedOut s (takeTrap s k t) k t.tval ∧ (takeTrap s k t).mem.resvs = (leaveQueue s k).mem.resvs := by
  obtain ⟨-, hfe, hcopy⟩ := hplain
  have hmem := (takeTrapAt_mem s k t (excTarget (hartAt s k) t.cause) none).trans (withdraw_mem hcopy)
  have hhart := takeTrapAt_landed t (excTarget (hartAt s k) t.cause) hfe hcopy
  refine ⟨⟨fun p hp => ?_, ?_, fun hmode => ?_⟩, by rw [takeTrap, hmem]⟩
  · rw [takeTrap, hmem] at hp
    simpa using List.of_mem_filter hp
  · rw [takeTrap, hhart]
  · have htarget : excTarget (hartAt s k) t.cause = .m := by
      rw [hcause]
      exact if_pos (by simpa using hmode)
    have hpc : (landAll (hartAt s k)).pc = (hartAt s k).pc := landAll_part Hart.pc (fun _ _ _ _ _ _ => rfl) (fun _ _ => rfl) _
    obtain ⟨hcode, htval, hepc, hpriv⟩ := enterTrap_m_records (landAll (hartAt s k)) t
    rw [htarget] at hhart
    rw [takeTrap, htarget, hhart]
    rw [hcause, hintr, show causeWord false 30 = 30 by decide] at hcode
    generalize enterTrap (landAll (hartAt s k)) t .m none = g at hcode htval hepc hpriv
    exact ⟨hcode, htval, hepc.trans hpc, hpriv⟩
end Timeout

section Advance
theorem lrwGrant_first {d : Nat} {r : Resv} {rest : List Resv} {s : State}
    (hqueues : s.mem.resvs = [{ dword := d, holder := none, waiters := r :: rest }]) (hq : Quiet s) (hwidth : r.width = 4 ∨ r.width = 8)
    (hheld : heldRead s (.mem r.addr) r.width = false) (hruns : Runs s r.agent)
    (hroute : dropped s (hartAt s r.agent).actsFor (hartAt s r.agent).tile (.mem r.addr) = false) :
    ∃ t, Goes (.lrwGrant 0) s t ∧
      t.mem.resvs = [{ dword := d, holder := some { r with since := s.clk, broken := false }, waiters := rest }] ∧ SameBytes s t ∧
      WroteX (acquired true s (hartAt s r.agent)) (hartAt t r.agent) r.rd (signed r.width (homeValue s (.mem r.addr) r.width))
        ((hartAt s r.agent).pc + 4) := by
  have hqueue : resvQueue s.mem d = some { dword := d, holder := none, waiters := r :: rest } := by simp [resvQueue, hqueues]
  have hgrants := grants_first hqueue hq hwidth hheld hroute
  have hexec : exec (.lrwGrant 0) s = .next (grantResv s d) := by
    rw [exec_lrwGrant, execLrwGrant, hqueues]
    rfl
  refine ⟨_, hexec, ?_, Outside.sameBytes_of_contents hgrants.bytes, ?_⟩
  · rw [hgrants.queues, grantedQueues, hqueues]
    simp
  · rw [hgrants.holder, wakeHart_setX (by exact hruns)]
    exact Execution.wroteX_retireHart _ _ _

section Retry
variable {q k : Nat} {u : ResvQ} {r : Resv} {s : State} (hu : s.mem.resvs[q]? = some u) (hr : u.waiters[k]? = some r)
include hu hr

theorem lrwWaitRetry_early (hearly : s.clk < r.since + 4096 * (r.retries + 1)) : Idle (.lrwWaitRetry q k) s := by
  refine (exec_lrwWaitRetry s).trans ?_
  simp only [execLrwWaitRetry, hu, hr, if_neg (Nat.not_le.mpr hearly)]

theorem lrwWaitRetry_counts (hdue : r.since + 4096 * (r.retries + 1) ≤ s.clk)
    (hmore : (hartAt s r.agent).bounces + r.retries + 1 < (hartAt s r.agent).feLimit) :
    ∃ t, Goes (.lrwWaitRetry q k) s t ∧ (t.mem.resvs[q]?.bind (fun v => v.waiters[k]?)) = some { r with retries := r.retries + 1 } ∧
      t.harts = s.harts := by
  refine ⟨modMem s (fun m => { m with resvs := modAt m.resvs q (fun u =>
    { u with waiters := modAt u.waiters k (fun r => { r with retries := r.retries + 1 }) }) }), (exec_lrwWaitRetry s).trans ?_, ?_, rfl⟩
  · simp only [execLrwWaitRetry, hu, hr, if_pos hdue, if_neg (Nat.not_le.mpr hmore)]
  · have hq : q < s.mem.resvs.length := (List.getElem?_eq_some_iff.mp hu).1
    have hk : k < u.waiters.length := (List.getElem?_eq_some_iff.mp hr).1
    show ((modAt s.mem.resvs q _)[q]?).bind _ = _
    rw [Execution.modAt_getElem? _ _ _ hq, hu]
    show (modAt u.waiters k _)[k]? = _
    rw [Execution.modAt_getElem? _ _ _ hk, hr]
    rfl

theorem lrwWaitRetry_expires (hdue : r.since + 4096 * (r.retries + 1) ≤ s.clk)
    (hspent : (hartAt s r.agent).feLimit ≤ (hartAt s r.agent).bounces + r.retries + 1) (hplain : PlainGroup s r.agent) :
    ∃ t, Goes (.lrwWaitRetry q k) s t ∧ TimedOut s t r.agent r.va ∧ ∀ v ∈ t.mem.resvs, ∀ w ∈ v.waiters, w.agent ≠ r.agent := by
  have hgroup : ¬ (hartAt s r.agent).tasklet = true := by rw [hplain.1]; exact Bool.false_ne_true
  have hexec : exec (.lrwWaitRetry q k) s = .next (takeTrap (leaveQueue s r.agent) r.agent
      { cause := 30, tval := r.va, gva := (hartAt s r.agent).virt }) := by
    rw [exec_lrwWaitRetry]
    simp only [execLrwWaitRetry, hu, hr, if_pos hdue, if_pos hspent, waiterTimeout, if_neg hgroup]
  obtain ⟨htimed, hqueues⟩ := takeTrap_timedOut (s := leaveQueue s r.agent)
    (t := { cause := 30, tval := r.va, gva := (hartAt s r.agent).virt }) hplain rfl rfl
  exact ⟨_, hexec, htimed, fun v hv w hw => waiters_of_mem_leaveQueue (hqueues ▸ hv) hw⟩
end Retry

theorem reservationRevoke_alone {u : ResvQ} {r : Resv} {s : State} (hqueues : s.mem.resvs = [u]) (hholder : u.holder = some r)
    (hwaiters : u.waiters = []) :
    (r.since + 65536 ≤ s.clk → ∃ t, Goes (.reservationRevoke 0) s t ∧ t.mem.resvs = [] ∧ t.harts = s.harts ∧ SameBytes s t) ∧
    (s.clk < r.since + 65536 → Idle (.reservationRevoke 0) s) := by
  have hexec : exec (.reservationRevoke 0) s = .next (if r.since + 65536 ≤ s.clk then
      grantResv (passResv s r.agent u.dword) u.dword else s) := by
    rw [exec_reservationRevoke]
    simp only [execReservationRevoke, hqueues, List.getElem?_cons_zero, hholder]
    split <;> rfl
  refine ⟨fun hdue => ?_, fun hearly => hexec.trans (by rw [if_neg (Nat.not_le.mpr hearly)])⟩
  have hnone : (passResv s r.agent u.dword).mem.resvs = [] := (passResv_single hqueues hholder).1 hwaiters
  have hgrant : grantResv (passResv s r.agent u.dword) u.dword = passResv s r.agent u.dword := by
    simp only [grantResv, resvQueue, hnone, List.find?_nil]
  exact ⟨_, by rw [Goes, hexec, if_pos hdue, hgrant], hnone, rfl, Outside.sameBytes_of_contents rfl⟩
end Advance

section Holds
/-- A plain write to main memory that nothing holds is performed. -/
theorem performReq_plain {s : State} {q : Req} {a : Nat} (hloc : q.loc = .mem a) (hred : q.red = none)
    (hroute : (packetRoute s q).isSome = true) (hloads : loadsOpen s q.agent = false) (hw : Writable s q.agent (.mem a) q.size) :
    performReq s q = (entered (Outside.storedAt s q.agent a (leBytes q.size q.data.toNat)) q, true) := by
  have harrives : (packetRoute s q).isNone = false := by rw [← Option.not_isSome, hroute]; rfl
  have hpoison : poisoned s (.mem a) q.size = false := (hw.2 a rfl).2
  unfold performReq
  simp only [hloads, hloc, harrives, hred, Outside.homeWriteN_writable q.data hw, hpoison, postedFault, Bool.false_eq_true, if_false]

/-- A write that has entered home order has dropped cached copies, and nothing else. -/
theorem entered_part {α : Type} (f : State → α) (hf : ∀ s c, f { s with mem := { s.mem with copies := c } } = f s) (s : State) (q : Req) :
    f (entered s q) = f s := by
  unfold entered dropCopies
  split
  · cases q.loc with
    | mem a => exact hf s _
    | _ => rfl
  · rfl

/-- A span that meets a span of main memory lies in main memory. -/
theorem mem_of_overlaps {l : Loc} {a n k : Nat} (h : overlaps l n (.mem a) k = true) : ∃ b, l = .mem b ∧ ranges b n a k = true := by
  cases l with
  | mem b => exact ⟨b, rfl, h⟩
  | _ => exact absurd h Bool.false_ne_true

theorem lrHoldExpire_early {i : Nat} {r : LrRes} {s : State} (hi : s.mem.lrs[i]? = some r) (hearly : s.clk < r.clk + 128) :
    Idle (.lrHoldExpire i) s := by
  refine (exec_lrHoldExpire s).trans ?_
  simp only [execLrHoldExpire, hi, if_neg (Nat.not_le.mpr hearly)]

/-- The one write on its way, once the hold is over, is performed and kills the reservation. -/
theorem lrHoldExpire_performs {i : Nat} {r : LrRes} {q : Req} {s : State} (hi : s.mem.lrs[i]? = some r) (hdue : r.clk + 128 ≤ s.clk)
    (hnet : s.mem.net = [q]) (hplain : PlainWrite s 0 q) (hother : q.agent ≠ r.hart)
    (hmeets : overlaps q.loc q.size (.mem r.addr) r.size = true) (hw : Writable s q.agent q.loc q.size) :
    ∃ t, Goes (.lrHoldExpire i) s t ∧ t.mem.net = [] ∧ WroteBytes s t q.loc q.size q.data.toNat ∧ r ∉ t.mem.lrs := by
  obtain ⟨-, hred, hfull, hread, hsize, hroute, hloads, -⟩ := hplain
  obtain ⟨a, hloc, hranges⟩ := mem_of_overlaps hmeets
  rw [hloc] at hw
  let u := Outside.storedAt s q.agent a (leBytes q.size q.data.toNat)
  have hword : overlaps q.loc q.size (wordSpan q.loc q.size).1 (wordSpan q.loc q.size).2 = true := by
    rw [hloc]; exact Outside.overlaps_wordSpan hsize
  have hflush := Outside.flushIf_single (p := fun p => overlaps p.loc p.size (wordSpan q.loc q.size).1 (wordSpan q.loc q.size).2)
    hnet hword hred hfull hread (performReq_plain hloc hred hroute hloads hw)
  have harrive : arrive s 0 = Outside.withNet (entered u q) [] := by
    simp only [arrive, hnet, List.getElem?_cons_zero, hread, hfull, hred, behindEarlier, behind, List.take_zero, List.any_nil, hflush,
      Option.isSome_none, Bool.false_eq_true, if_false]
    rfl
  have hexec : exec (.lrHoldExpire i) s = .next (arrive s 0) := by
    rw [exec_lrHoldExpire]
    simp only [execLrHoldExpire, hi, if_pos hdue, hnet]
    rw [List.findIdx?_cons, if_pos (by simp [hother, hmeets])]
  refine ⟨_, hexec.trans (congrArg _ harrive), rfl, ?_, fun hr => ?_⟩
  · rw [hloc]
    refine Outside.wroteBytes_mem ?_
    refine Eq.trans ?_ (Outside.contents_storedAt s q.agent a (leBytes q.size q.data.toNat))
    exact entered_part (fun t => Outside.contents t.mem) (fun _ _ => rfl) u q
  · have hlrs : (entered u q).mem.lrs = s.mem.lrs.filter _ :=
      (entered_part (fun t => t.mem.lrs) (fun _ _ => rfl) u q).trans (lrs_storedAt s q.agent a _)
    have hleft := List.of_mem_filter (hlrs ▸ show r ∈ (entered u q).mem.lrs from hr)
    simp [leBytes_length, hranges, Ne.symm hother] at hleft

theorem recall_held {line : Nat} {s : State} (hheld : ∃ r ∈ s.mem.lrs, r.table = false ∧ r.addr / 64 = line ∧ s.clk < r.clk + 128) :
    ∃ t, Goes (.recall line) s t ∧ line ∈ t.mem.recalls ∧ t = { s with mem := { s.mem with recalls := t.mem.recalls } } := by
  have hyoung : recallHeld s line = true := List.any_eq_true.mpr (by
    obtain ⟨r, hr, htable, hline, hclk⟩ := hheld
    exact ⟨r, hr, by simp [htable, hline, hclk]⟩)
  refine ⟨_, (exec_recall s).trans (if_pos hyoung), ?_, rfl⟩
  show line ∈ (if s.mem.recalls.contains line then s.mem.recalls else s.mem.recalls ++ [line])
  split
  next hlisted => simpa using hlisted
  next => simp

theorem recall_clears {line : Nat} {s : State} (hfree : ∀ r ∈ s.mem.lrs, r.table = false → r.addr / 64 = line → r.clk + 128 ≤ s.clk) :
    ∃ t, Goes (.recall line) s t ∧ line ∉ t.mem.recalls ∧
      (∀ k, tget 0 t.mem.dir k = if k / 4096 = line then 0 else tget 0 s.mem.dir k) ∧
      (∀ r, r ∈ t.mem.lrs ↔ r ∈ s.mem.lrs ∧ (r.table = true ∨ r.addr / 64 ≠ line)) ∧ SameBytes s t := by
  have hold : ¬ recallHeld s line = true := fun hheld => by
    obtain ⟨r, hr, hyoung⟩ := List.any_eq_true.mp hheld
    simp only [Bool.and_eq_true, Bool.not_eq_true', beq_iff_eq, decide_eq_true_eq] at hyoung
    obtain ⟨⟨htable, hline⟩, hclk⟩ := hyoung
    exact absurd hclk (Nat.not_lt.mpr (hfree r hr htable hline))
  refine ⟨_, (exec_recall s).trans (if_neg hold), ?_, fun k => ?_, fun r => ?_, Outside.sameBytes_of_contents rfl⟩
  · show line ∉ s.mem.recalls.filter (fun l => l != line)
    simp
  · show tget 0 (tfilter (fun k => dirLine k != line) s.mem.dir) k = _
    simp only [tget_tfilter, dirLine, bne_iff_ne, ite_not]
  · show r ∈ s.mem.lrs.filter (fun r => r.table || r.addr / 64 != line) ↔ _
    simp [List.mem_filter]
end Holds

/-- Settles O50, by the rule of each event of a queue, a hold and a recall. -/
theorem reservationQueuesAdvance : Obligations.ReservationQueuesAdvance := by
  refine ⟨fun d r rest s hqueues hq hwidth hheld hruns hroute => lrwGrant_first hqueues hq hwidth hheld hruns hroute,
    fun q k u r s hu hr => ⟨lrwWaitRetry_early hu hr, lrwWaitRetry_counts hu hr,
      fun hdue hspent hplain _ => lrwWaitRetry_expires hu hr hdue hspent hplain⟩,
    fun u r s hqueues hholder hwaiters => reservationRevoke_alone hqueues hholder hwaiters,
    fun i r q s hi => ⟨lrHoldExpire_early hi, lrHoldExpire_performs hi⟩,
    fun line s => ⟨recall_held, recall_clears⟩⟩

end Sys2Proof.SyncEngines
